-- ==== Sys2Proof/Word.lean ====
section
/-! DEFINITION. The word types of the machine and the shorthand for a bit field (R5). -/

namespace Sys2Proof

/-- One byte (R5). -/
abbrev Byte := BitVec 8

/-- A scalar register, a control register or a slot word (R36, R167). -/
abbrev Word := BitVec 64

/-- A vector register (R167). -/
abbrev VWord := BitVec 2048

/-- A mask register (R167). -/
abbrev MWord := BitVec 256

/-- A pattern register image (R122). -/
abbrev QWord := BitVec 512

/-- A bundle of six slots (R36). -/
abbrev Bundle := BitVec 384

end Sys2Proof
end

