-- ==== Sys2Proof/Config.lean ====
section
/-! DEFINITION. What the spec leaves to the implementation or leaves open: constants with no body, so that no
statement can rest on a value of theirs (log 6 to 9), and the fixed figures of the package (R1, R2). -/

namespace Sys2Proof.Config

/-- Cores of the package (R2). -/
def cores : Nat := 256

/-- Bytes of a core's scratchpad (R159). -/
def spBytes : Nat := 0x180000

/-- The stepping of SNT-F9-2A (R377). -/
def stepping : Nat := 0x002A

/-- A byte read from host memory over the link, R100 and R111: the host may have written anything there (log 6). -/
opaque hostByte : Nat → Nat → Byte

/-- Whether host memory at a VA is trusted, at a cy, R368: the host decides (log 116). -/
opaque trustedHost : Nat → Nat → Bool

/-- A byte read from another package, R241: that package may have written anything there (log 6). -/
opaque remoteByte : Nat → Nat → Byte

/-- Whether another package's window table admits an access, R242: a function of the cy, the partition that makes it, the
domain address it names, and whether it writes (log 6). -/
opaque remoteGrant : Nat → Nat → Nat → Bool → Bool

/-- The Amisia port that carries the accesses to another package, R243: the spec gives no routing (log 87). -/
opaque linkPort : Nat → Nat

/-- A value the spec leaves undefined or unspecified after an operation that goes on (log 9). -/
opaque freeByte : Nat → Byte

/-- Whether a line of another package is read poisoned, R242 (log 6). -/
opaque remotePoison : Nat → Bool

/-- The domain window table that the Kryel processor writes when a job is set up, R242 (log 63): of each window the source node,
the group, whether it grants writes, the base, the length and the key slot. -/
opaque jobWindows : Nat → List (Nat × Nat × Bool × Nat × Nat × Nat)

/-- A byte of a region whose map entry changed under a valid page entry, R92: of the change and the address (log 77). -/
opaque remapByte : Nat → Nat → Byte

/-- Cy that an access to a bank loses to other agents, R163: the model holds no bank arbitration (log 32). -/
opaque bankWait : Nat → Nat

/-- The hash from which the set of a superblock follows, R134 (log 7). -/
opaque l2Set : Nat → Nat

/-- The extra value that a block of NaNs alone gives itself under XMODE 2, R72 names none: a function of FMT (log 9). -/
opaque nanExtra : Nat → Byte

/-- What a walk reads from a table line that fails its check or is poisoned, R98 and R95: a function of its address (log 13). -/
opaque badEntry : Nat → Word

/-- The soft errors that have struck a core when a gang starts on it, as keys and marks (R33, R126, R160): nothing fixes when or where
one strikes (log 66). -/
opaque softErrors : Nat → List (Nat × Nat)

/-- SHA3-512 of a list of bytes, named by R365 and R379 and defined outside the spec (log 8). -/
opaque sha3 : List Byte → BitVec 512

/-- ML-DSA-87: whether a signature over a message verifies under a public key (R365, R370, R378, log 8). -/
opaque mldsaVerify : List Byte → List Byte → List Byte → Bool

/-- ML-DSA-87 signature made by the device's own key (R366, R392, log 8). -/
opaque mldsaSign : List Byte → List Byte

/-- The SHA3-512 hash of Sanoter's public key in fuses (R365, log 8). -/
opaque fusedKeyHash : BitVec 512

/-- The Kryel ROM's measurement, fixed at manufacture (R365, log 8). -/
opaque romMeasurement : BitVec 512

/-- Whether the signature of a firmware image with a hash verifies under the key with a hash, R365; an image's format is not given
(log 8). -/
opaque imageSigned : BitVec 512 → BitVec 512 → Bool

/-- The lifecycle that the fuses hold (R365, log 8). -/
opaque lifecycle : Nat

/-- The hash of the image a firmware is shipped with (log 8). -/
opaque shippedHash : Nat → BitVec 512

/-- The register that stands at an offset of the PF page where the spec's register tables name none: a stack's scrub register, stack and
register (R97, log 91). -/
opaque scrubReg : Nat → Option (Nat × Nat)

/-- How long a firmware image in memory is, from its first 64 bytes; an image's format is not given (log 8). -/
opaque fwLen : List Byte → Nat

/-- The security version that a firmware image holds (log 8). -/
opaque fwVersion : List Byte → Nat

/-- A fresh key or nonce of the Kryel processor's random generator (R364, log 8). -/
opaque randomKey : Nat → BitVec 512

end Sys2Proof.Config
end

