-- ==== Sys2Proof/Machine/Table.lean ====
section
/-! DEFINITION. Sparse tables: a list of (key, entry) pairs with rising keys, in which no entry equals the value
that an absent key reads as. Every large store of the machine is such a table. -/

namespace Sys2Proof

/-- A table from natural numbers; an absent key reads as a default the user of the table names. -/
abbrev Tbl (α : Type) := List (Nat × α)

namespace Machine

/-- The entry at key `k`, `d` where none is listed. -/
def tget {α : Type} (d : α) (t : Tbl α) (k : Nat) : α :=
  match t with
  | [] => d
  | (k', v) :: r => if k' = k then v else tget d r k

/-- The table without key `k`. -/
def tdel {α : Type} (t : Tbl α) (k : Nat) : Tbl α :=
  match t with
  | [] => []
  | (k', v) :: r => if k' = k then tdel r k else (k', v) :: tdel r k

/-- The table with entry `v` at key `k`, whatever `v` is. -/
def tins {α : Type} (t : Tbl α) (k : Nat) (v : α) : Tbl α :=
  match t with
  | [] => [(k, v)]
  | (k', v') :: r =>
    if k < k' then (k, v) :: (k', v') :: r
    else if k = k' then (k, v) :: r
    else (k', v') :: tins r k v

/-- Writes `v` at `k`, keeping the canonical form: the default is never listed. -/
def tput {α : Type} [DecidableEq α] (d : α) (t : Tbl α) (k : Nat) (v : α) : Tbl α :=
  if v = d then tdel t k else tins t k v

/-- Keys strictly rise. -/
def tsorted {α : Type} : Tbl α → Bool
  | [] => true
  | [_] => true
  | (k, _) :: (k', v') :: r => decide (k < k') && tsorted ((k', v') :: r)

/-- No listed entry equals the default. -/
def tclean {α : Type} [DecidableEq α] (d : α) (t : Tbl α) : Bool := t.all (fun e => decide (e.2 ≠ d))

/-- The canonical form of a table. -/
def twf {α : Type} [DecidableEq α] (d : α) (t : Tbl α) : Bool := tsorted t && tclean d t

/-- The entry of a list at position `i`. -/
def lget {α : Type} (d : α) (l : List α) (i : Nat) : α := l.getD i d

/-- The list with position `i` replaced by `v` (unchanged past its end). -/
def lput {α : Type} (l : List α) (i : Nat) (v : α) : List α := l.set i v

/-- The list without position `i`. -/
def ldel {α : Type} (l : List α) (i : Nat) : List α := l.eraseIdx i

/-- Position of the first entry that satisfies `f`. -/
def lfind {α : Type} (f : α → Bool) (l : List α) : Option Nat :=
  match l with
  | [] => none
  | x :: r => if f x then some 0 else (lfind f r).map (· + 1)

/-- A field `[hi:lo]` of a word, as a natural number (R5). -/
def fld (w hi lo : Nat) : Nat := (w >>> lo) % 2 ^ (hi + 1 - lo)

/-- Bit `i` of a number. -/
def bit (w i : Nat) : Bool := w.testBit i

/-- A number read as a two's complement value of `n` bits. -/
def sext (n v : Nat) : Int := if v % 2 ^ n < 2 ^ (n - 1) then ((v % 2 ^ n : Nat) : Int) else ((v % 2 ^ n : Nat) : Int) - 2 ^ n

/-- An integer wrapped into `n` bits. -/
def wrap (n : Nat) (i : Int) : Nat := (i % (2 ^ n : Int)).toNat

/-- The little-endian value of a list of bytes (R5). -/
def bytesNat : List Byte → Nat
  | [] => 0
  | b :: r => b.toNat + 256 * bytesNat r

/-- The `n` little-endian bytes of a number (R5). -/
def natBytes : Nat → Nat → List Byte
  | 0, _ => []
  | n + 1, v => BitVec.ofNat 8 v :: natBytes n (v / 256)

/-- Folds a state change over `0 .. n-1`, ascending. -/
def forN {σ : Type} (n : Nat) (f : Nat → σ → σ) (s : σ) : σ := (List.range n).foldl (fun s i => f i s) s

/-- Ceiling of a division. -/
def cdiv (a b : Nat) : Nat := (a + b - 1) / b

end Machine
end Sys2Proof
end

