-- ==== Sys2Proof/Syntax.lean ====
section
/-! DEFINITION. The instructions: one constructor for each row of the opcode table, slot operations first
(R50 to R54), then the events of the package in the table's order. An event's arguments say which agent
moves or what the outside world does. -/

namespace Sys2Proof

/-- The slots of a bundle, in their order (R36). -/
inductive Slot where
  | C | X | M | V0 | V1 | E
  deriving DecidableEq, Repr

/-- Where a C-or-X operation stands; LAND exists in C only (R37, R44, R48). -/
inductive CxUnit where
  | inC (land : Bool)
  | inX
  deriving DecidableEq, Repr

/-- The vector unit of a V-slot operation (R37). -/
inductive VUnit where
  | v0 | v1
  deriving DecidableEq, Repr

/-- Type codes 0 to 18 (R40). -/
inductive Ty where
  | f64 | f32 | tf32 | bf16 | f16 | e4m3 | e5m2 | e2m1 | s32 | s16 | s8 | s4
  | n32 | n16 | n8 | b64 | b32 | b16 | b8
  deriving DecidableEq, Repr

/-- Scopes 0 to 6 (R41). -/
inductive Scope where
  | strand | core | cluster | die | package | domain | system
  deriving DecidableEq, Repr

/-- Scalar conditions 0 to 9 (R42). -/
inductive CC where
  | eq | ne | lt | ge | le | gt | ltn | gen | len | gtn
  deriving DecidableEq, Repr

/-- FCMP conditions 0 to 7; VCMP takes the first six (R190). -/
inductive VCC where
  | eq | ne | lt | ge | le | gt | un | ord
  deriving DecidableEq, Repr

/-- ATOM operations 0 to 8 (R42). -/
inductive AOp where
  | add | fadd | min | max | and | or | xor | xchg | cas
  deriving DecidableEq, Repr

/-- The ordering qualifier of ATOM (R42). -/
inductive Ord where
  | none | acq | rel
  deriving DecidableEq, Repr

/-- The rnd field, 0 to 5 (R42). -/
inductive Rnd where
  | fmt | rne | rz | ru | rd | sr
  deriving DecidableEq, Repr

/-- The address spaces of the M slot (R42). -/
inductive Space where
  | sp | gl | cl
  deriving DecidableEq, Repr

/-- Access sizes 1, 2, 4, 8 and 16 bytes (R42). -/
inductive Size where
  | b1 | b2 | b4 | b8 | b16
  deriving DecidableEq, Repr

/-- MULH's variants (R175). -/
inductive MulhKind where
  | signed | natural | signedNatural
  deriving DecidableEq, Repr

/-- Vector reductions, fn 0 to 6 (R200). -/
inductive RedOp where
  | add | adds | min | max | and | or | xor
  deriving DecidableEq, Repr

/-- CPY.RED's fn (R150). -/
inductive CRedOp where
  | add | adds | min | max
  deriving DecidableEq, Repr

/-- CH.RED's fn, 1 to 4 (R254). -/
inductive ROp where
  | add | adds | min | max
  deriving DecidableEq, Repr

/-- Register fields (R39). -/
abbrev SReg := BitVec 6
abbrev VReg := BitVec 6
abbrev MReg := BitVec 3
abbrev QReg := BitVec 5
abbrev KReg := BitVec 6
abbrev YReg := BitVec 3
abbrev NReg := BitVec 6
abbrev BReg := BitVec 4

/-- The source of SETFMT and MTC: a register (I = 0) or an immediate (I = 1) (R88, R286). -/
inductive RegOrImm where
  | reg (a : SReg)
  | imm (v : BitVec 32)
  deriving DecidableEq, Repr

/-- The count or position of format XS (R177). -/
inductive RegOrSh where
  | reg (b : SReg)
  | imm (sh : BitVec 6)
  deriving DecidableEq, Repr

/-- The count of a vector shift (R196). -/
inductive VCount where
  | reg (b : VReg)
  | imm (n : BitVec 7)
  deriving DecidableEq, Repr

/-- The lane of VMOV.S and VMOV.V (R199). -/
inductive LaneSel where
  | imm (i : BitVec 12)
  | reg (b : SReg)
  deriving DecidableEq, Repr

/-- What VBCAST copies (R198). -/
inductive BcastSrc where
  | lane (a : VReg) (i : BitVec 12)
  | scalar (a : SReg)
  deriving DecidableEq, Repr

/-- The half-row of ACC.RD and ACC.WR (R205). -/
inductive HalfRow where
  | imm (row : BitVec 7) (half : BitVec 1)
  | reg (b : SReg)
  deriving DecidableEq, Repr

/-- QSET's use of its register (R42, R129). -/
inductive BaseMode where
  | none
  | base (r : SReg)
  | origin (r : SReg)
  deriving DecidableEq, Repr

/-- What RGN.KEEP keeps (R43, R325). -/
inductive Keep where
  | g (mask : BitVec 16)
  | s (mask : BitVec 48)
  | vlo (mask : BitVec 32)
  | vhi (mask : BitVec 32)
  | y (mask : BitVec 8)
  | p (q : QReg) (kp ka : KReg)
  deriving DecidableEq, Repr

/-- An M-slot operand attribute: ordering class and scope (R41). -/
structure MAttr where
  cls : BitVec 4
  sc  : Scope
  deriving DecidableEq, Repr

/-- The tokens of an engine command with its class and scope (R47). -/
structure EAttr where
  kp : KReg
  ka : KReg
  kb : KReg
  kc : KReg
  cls : BitVec 4
  sc  : Scope
  deriving DecidableEq, Repr

/-- A register page: a partition's own, or the PF's (R104, R375). -/
inductive PageRef where
  | part (p : Nat)
  | pf
  deriving DecidableEq, Repr

/-- A function of the link: the PF or the VF of a partition (R375). -/
inductive FnRef where
  | pf
  | vf (p : Nat)
  /-- an Amisia port, where only SPDM is served (R366) -/
  | port (k : Nat)
  deriving DecidableEq, Repr

/-- What reading a line shows its controller (R95); soft errors come from outside. -/
inductive LineCheck where
  | clean | correctable | uncorrectable
  deriving DecidableEq, Repr

/-- The AtomicOps the device completes (R375). -/
inductive PcieAtomic where
  | fetchAdd | swap | cas
  deriving DecidableEq, Repr

/-- A request that arrives from another package (R242). -/
inductive RemoteKind where
  | read (n : Nat)
  | write (bytes : List Byte)
  | atom (n : Nat) (op : AOp) (sgn : Bool) (v cmp : Word)
  deriving DecidableEq, Repr

/-- A resource an unattributable fault strikes (R345). -/
inductive FaultSite where
  | cluster (cl : Nat)
  | stack (s : Nat)
  deriving DecidableEq, Repr

/-- One sensor reading (R388): the word's offset in the PF page and its three fields. -/
structure Sensor where
  isStack : Bool
  index   : Nat
  curr    : Nat
  volt    : Nat
  temp    : Int
  deriving DecidableEq, Repr

/-- One row of the opcode table. -/
inductive Instr where
  -- C slot, R49 and R271 to R286
  | nop (slot : Slot) (land : Bool)
  | idleBundle
  | br (land : Bool) (tgt : BitVec 24)
  | brCc (land : Bool) (cc : CC) (a b : SReg) (tgt : BitVec 24)
  | bri (land : Bool) (a : SReg)
  | loop (land : Bool) (a : SReg) (tgt : BitVec 24)
  | call (land : Bool) (w : BitVec 6) (tgt : BitVec 24)
  | calli (land : Bool) (a : SReg) (w : BitVec 6)
  | ret (land : Bool)
  | wait (land : Bool) (k0 k1 k2 k3 : KReg)
  | barArrive (land : Bool) (b : BReg)
  | barWait (land : Bool) (b : BReg)
  | barSs (land : Bool) (b : BReg)
  | yield (land : Bool)
  | exit (land : Bool)
  | setfmt (land : Bool) (src : RegOrImm)
  | mfc (land : Bool) (a : SReg) (cr : BitVec 12)
  | mtc (land : Bool) (cr : BitVec 12) (src : RegOrImm)
  -- regions, checks and traps, R324 to R339
  | rgnBegin (land : Bool) (rid : BitVec 8) (retry abm : BitVec 3) (fs : BitVec 14) (tgt : BitVec 24)
  | rgnKeep (land : Bool) (keep : Keep)
  | rgnEnd (land : Bool) (rid : BitVec 8)
  | rgnEndC (land : Bool) (rid : BitVec 8)
  | rgnAbort (land : Bool) (code : BitVec 8)
  | chk (land : Bool) (a b : SReg)
  | chkV (land : Bool) (a b : VReg) (m : MReg) (ty : Ty)
  | trap (land : Bool) (imm : BitVec 16)
  | eret (land : Bool)
  | dictLoad (land : Bool) (a : SReg) (e0 n : BitVec 12) (clr : Bool)
  -- C or X, R175 to R178
  | add (u : CxUnit) (d a b : SReg)
  | sub (u : CxUnit) (d a b : SReg)
  | addi (u : CxUnit) (d a : SReg) (imm : BitVec 32)
  | mul (u : CxUnit) (d a b : SReg)
  | mulh (u : CxUnit) (k : MulhKind) (d a b : SReg)
  | div (u : CxUnit) (natural : Bool) (d a b : SReg)
  | rem (u : CxUnit) (natural : Bool) (d a b : SReg)
  | madd (u : CxUnit) (d a b c : SReg)
  | and (u : CxUnit) (d a b : SReg)
  | or (u : CxUnit) (d a b : SReg)
  | xor (u : CxUnit) (d a b : SReg)
  | andn (u : CxUnit) (d a b : SReg)
  | shl (u : CxUnit) (d a : SReg) (n : RegOrSh)
  | shr (u : CxUnit) (d a : SReg) (n : RegOrSh)
  | sar (u : CxUnit) (d a : SReg) (n : RegOrSh)
  | rot (u : CxUnit) (d a : SReg) (n : RegOrSh)
  | clz (u : CxUnit) (d a : SReg)
  | popc (u : CxUnit) (d a : SReg)
  | min (u : CxUnit) (natural : Bool) (d a b : SReg)
  | max (u : CxUnit) (natural : Bool) (d a b : SReg)
  | sel (u : CxUnit) (d a b c : SReg)
  | cmpCc (u : CxUnit) (cc : CC) (d a b : SReg)
  | li (u : CxUnit) (d : SReg) (imm : BitVec 32)
  | lih (u : CxUnit) (d a : SReg) (imm : BitVec 32)
  | bfx (u : CxUnit) (d a : SReg) (pos : RegOrSh) (w : BitVec 6)
  | bfi (u : CxUnit) (d a : SReg) (pos : RegOrSh) (w : BitVec 6)
  -- X only, R129 and R132
  | qset (q : QReg) (bm : BaseMode) (pool : BitVec 12)
  | qclr (q : QReg)
  | symix (mult : Bool) (d a b : SReg)
  -- M slot
  | ld (as : Space) (sz : Size) (sgn : Bool) (t a : SReg) (off : BitVec 18) (at_ : MAttr)
  | st (as : Space) (sz : Size) (t a : SReg) (off : BitVec 18) (at_ : MAttr)
  | atom (as : Space) (sz : Size) (aop : AOp) (ord : Ord) (sgn : Bool) (t a c : SReg) (off : BitVec 18) (at_ : MAttr)
  | fence (mask : BitVec 16) (sc : Scope)
  | qld (as : Space) (q : QReg) (a : SReg) (off : BitVec 18) (at_ : MAttr)
  | ldv (v : VReg) (q : QReg) (m : MReg) (ty : Ty) (at_ : MAttr)
  | stv (v : VReg) (q : QReg) (m : MReg) (ty : Ty) (at_ : MAttr)
  | ldvT (v : VReg) (q : QReg) (m : MReg) (ty : Ty) (at_ : MAttr)
  | stvT (v : VReg) (q : QReg) (m : MReg) (ty : Ty) (at_ : MAttr)
  | vstPack (v : VReg) (q : QReg) (m : MReg) (ty : Ty) (at_ : MAttr)
  | vpackEnd (q : QReg) (ty : Ty) (at_ : MAttr)
  | vldExpand (v : VReg) (q : QReg) (m : MReg) (ty : Ty) (at_ : MAttr)
  | stashMap (w : BitVec 3) (a b c : SReg) (at_ : MAttr)
  | stashFlush (w : BitVec 3) (at_ : MAttr)
  | stashInv (w : BitVec 3) (at_ : MAttr)
  | leaseGet (d a b c : SReg) (fill : Bool) (at_ : MAttr)
  | leaseFree (a : SReg) (at_ : MAttr)
  -- V slots
  | fadd (u : VUnit) (ty : Ty) (rnd : Rnd) (d a b : VReg) (m : MReg)
  | fsub (u : VUnit) (ty : Ty) (rnd : Rnd) (d a b : VReg) (m : MReg)
  | fmul (u : VUnit) (ty : Ty) (rnd : Rnd) (d a b : VReg) (m : MReg)
  | fma (u : VUnit) (ty : Ty) (rnd : Rnd) (d a b c : VReg) (m : MReg)
  | fmin (u : VUnit) (ty : Ty) (d a b : VReg) (m : MReg)
  | fmax (u : VUnit) (ty : Ty) (d a b : VReg) (m : MReg)
  | fabs (u : VUnit) (ty : Ty) (d a : VReg) (m : MReg)
  | fneg (u : VUnit) (ty : Ty) (d a : VReg) (m : MReg)
  | frcp (u : VUnit) (ty : Ty) (rnd : Rnd) (d a : VReg) (m : MReg)
  | frsq (u : VUnit) (ty : Ty) (rnd : Rnd) (d a : VReg) (m : MReg)
  | fexp2 (u : VUnit) (ty : Ty) (rnd : Rnd) (d a : VReg) (m : MReg)
  | flog2 (u : VUnit) (ty : Ty) (rnd : Rnd) (d a : VReg) (m : MReg)
  | fcmp (u : VUnit) (cc : VCC) (ty : Ty) (d : MReg) (a b : VReg) (m : MReg)
  | cvt (u : VUnit) (tyd tys : Ty) (rnd : Rnd) (d a : VReg) (m : MReg) (part : BitVec 4)
  | cvtQ (u : VUnit) (tyd tys : Ty) (rnd : Rnd) (d c a : VReg) (m : MReg) (part : BitVec 4)
  | cvtDq (u : VUnit) (tyd tys : Ty) (rnd : Rnd) (d a b : VReg) (m : MReg) (part : BitVec 4)
  | iadd (u : VUnit) (ty : Ty) (d a b : VReg) (m : MReg)
  | isub (u : VUnit) (ty : Ty) (d a b : VReg) (m : MReg)
  | imul (u : VUnit) (ty : Ty) (d a b : VReg) (m : MReg)
  | imad (u : VUnit) (ty : Ty) (d a b c : VReg) (m : MReg)
  | iaddSat (u : VUnit) (ty : Ty) (d a b : VReg) (m : MReg)
  | isubSat (u : VUnit) (ty : Ty) (d a b : VReg) (m : MReg)
  | vmacI8 (u : VUnit) (tya tyb : Ty) (d a b : VReg) (m : MReg) (part : BitVec 2)
  | vdot4I8 (u : VUnit) (tya tyb : Ty) (d a b : VReg) (m : MReg)
  | vrshr (u : VUnit) (ty : Ty) (d a b : VReg) (m : MReg) (sh : BitVec 5) (part : BitVec 2)
  | vand (u : VUnit) (ty : Ty) (d a b : VReg) (m : MReg)
  | vor (u : VUnit) (ty : Ty) (d a b : VReg) (m : MReg)
  | vxor (u : VUnit) (ty : Ty) (d a b : VReg) (m : MReg)
  | vandn (u : VUnit) (ty : Ty) (d a b : VReg) (m : MReg)
  | vshl (u : VUnit) (ty : Ty) (d a : VReg) (n : VCount) (m : MReg)
  | vshr (u : VUnit) (ty : Ty) (d a : VReg) (n : VCount) (m : MReg)
  | vsar (u : VUnit) (ty : Ty) (d a : VReg) (n : VCount) (m : MReg)
  | vperm (u : VUnit) (z : Bool) (ty : Ty) (d a b c : VReg) (m : MReg)
  | vbcast (u : VUnit) (ty : Ty) (d : VReg) (src : BcastSrc) (m : MReg)
  | vsel (u : VUnit) (ty : Ty) (d a b : VReg) (m : MReg)
  | vred (u : VUnit) (op : RedOp) (ty : Ty) (rnd : Rnd) (d a : VReg) (m : MReg)
  | vscan (u : VUnit) (op : RedOp) (ex : Bool) (ty : Ty) (rnd : Rnd) (d a : VReg) (m : MReg)
  | vcmp (u : VUnit) (cc : VCC) (ty : Ty) (d : MReg) (a b : VReg) (m : MReg)
  | mand (u : VUnit) (d a b : MReg)
  | mor (u : VUnit) (d a b : MReg)
  | mnot (u : VUnit) (d a : MReg)
  | mpopc (u : VUnit) (ty : Ty) (d : SReg) (a : MReg)
  | vmovS (u : VUnit) (ty : Ty) (d : SReg) (a : VReg) (lane : LaneSel)
  | vmovV (u : VUnit) (ty : Ty) (d : VReg) (a : SReg) (lane : LaneSel)
  | vrand (u : VUnit) (ty : Ty) (d : VReg) (m : MReg) (seq : BitVec 12)
  | accRd (u : VUnit) (ty : Ty) (d : VReg) (y : YReg) (hr : HalfRow) (m : MReg)
  | accWr (u : VUnit) (ty : Ty) (y : YReg) (a : VReg) (hr : HalfRow) (m : MReg)
  -- E slot
  | cpy (qd qs : QReg) (e : EAttr)
  | cpyL (qd qs : QReg) (e : EAttr)
  | cpyRed (op : CRedOp) (ty : Ty) (qd qs : QReg) (e : EAttr)
  | trig (n : NReg) (count : BitVec 4) (qd qs : QReg) (e : EAttr)
  | tokClr (k0 k1 k2 k3 : KReg)
  | mma (i : Bool) (tya tyb : BitVec 5) (y : YReg) (qa qb : QReg) (e : EAttr)
  | mmaG (f i : Bool) (tya tyb : BitVec 5) (y : YReg) (qa qb : QReg) (e : EAttr)
  | mmaW (i : Bool) (tya tyb : BitVec 5) (y : YReg) (qa qb : QReg) (e : EAttr)
  | tgemm (tya tyb : BitVec 5) (y : YReg) (qa qb : QReg) (e : EAttr)
  | tcon (i : Bool) (tya tyb : BitVec 5) (y : YReg) (qa qb : QReg) (e : EAttr)
  | drain (z bs : Bool) (tyt tyo : BitVec 5) (qa : QReg) (y : YReg) (qb : QReg) (e : EAttr)
  | accZero (y : YReg) (e : EAttr)
  | gath (f : Bool) (ty : Ty) (qd qs qx : QReg) (e : EAttr)
  | scat (add f : Bool) (ty : Ty) (qd qs qx : QReg) (e : EAttr)
  | chSend (n : NReg) (q : QReg) (e : EAttr)
  | chRecv (n : NReg) (q : QReg) (e : EAttr)
  | chRecvRel (n : NReg) (e : EAttr)
  | chRed (op : ROp) (ty : Ty) (n : NReg) (q : QReg) (e : EAttr)
  | chFwd (n : NReg) (q : QReg) (e : EAttr)
  | chStat (n : NReg) (q : QReg) (e : EAttr)
  -- events of strands and cores
  | resultLanding (c x : Nat)
  | resultArrival (c x i : Nat)
  | strandSwitch (c : Nat)
  | descriptorLoad (c x : Nat)
  | codeFetchMiss (c x : Nat)
  -- the fault unit and migration
  | pageFault (p : Nat)
  | fbufBaseWrite (p : Nat) (v : Word)
  | fbufTailWrite (p : Nat) (v : Word)
  | frespRetry (p : Nat) (seq : Nat)
  | frespFail (p : Nat) (seq : Nat)
  | migreq (p : Nat) (v : Word)
  | tlbinv (p : Nat) (v : Word)
  | tlbinvWholePartition (p : Nat)
  | tlbinvDone (p : Nat)
  | migrationStart (p : Nat) (vas : List Nat) (pl pln : Nat)
  | migrationCopy (p i : Nat)
  | migrationComplete (p i : Nat)
  | floorExpiry (p i : Nat)
  | pageRequestResponse (p i : Nat) (ok : Bool)
  | atsInvalidate (p va count : Nat)
  -- memory
  | scrubLine (stack line : Nat) (seen : LineCheck)
  | leaseExpiry (die n : Nat)
  | stashWriteback (c w line : Nat)
  -- engines
  | copyStart (c : Nat)
  | copySector (c i : Nat)
  | copyComplete (c i : Nat)
  | triggerFire (c i : Nat)
  | engineCommandStart (c : Nat) (gather : Bool) (steps : Nat)
  | engineCommandComplete (c : Nat) (gather : Bool)
  | gatherRow (c : Nat)
  | channelArrival (i : Nat)
  | channelCommandComplete (c i : Nat)
  | switchCombine (g step : Nat) (sw rank : Nat)
  | pugmillContribution (g step recv rank : Nat)
  /-- `ok`: whether it passes, and what the fabric leads to a switch that joins the tree: ranks, and P + switches (R255, R257) -/
  | switchRemeasure (g sw : Nat) (ok : Bool × List Nat)
  /-- `opened`: 1 plus the highest step that the members of other packages have opened, 0 where they have opened none (R257) -/
  | switchRemoval (g sw opened : Nat)
  | resendTimeout (g : Nat)
  | flitTagFail (i : Nat)
  | remoteAccess (node : Nat) (gid : Nat) (p : Nat) (pa : Nat) (k : RemoteKind)
  | superstepRelease (cl b : Nat)
  -- signal boxes
  | gangEnd (p lid g : Nat)
  | launch (p q : Nat)
  | queueNop (p q : Nat)
  | extwr (p q : Nat)
  | unknownRecord (p q : Nat)
  | gangStart (p lid g : Nat)
  | launchComplete (p lid : Nat)
  | preempt (p cl : Nat)
  | resume (p i : Nat)
  | shareSliceExpiry (cl : Nat)
  | placementPeriod (p : Nat)
  | plogBaseWrite (p : Nat) (v : Word)
  -- registers, watchpoints, policy
  | registerWrite (page : PageRef) (off : Nat) (v : Word)
  | trapSegWrite (p : Nat) (v : Word)
  | trapSegCheckDone (p : Nat)
  | watchpointEnable (p i : Nat) (v : Word)
  | watchpointArmed (p i : Nat)
  | polCmdLoad (p : Nat)
  | policyCheckDone (p : Nat)
  | policyExpiry (p : Nat)
  -- SPDM, TDISP and IDE
  | getVersion (f : FnRef)
  | getCapabilities (f : FnRef)
  | negotiateAlgorithms (f : FnRef)
  | getDigests (f : FnRef)
  | getCertificate (f : FnRef)
  | challenge (f : FnRef) (nonce : BitVec 256)
  | getMeasurements (f : FnRef) (sess : Option Nat) (index : Nat)
  | keyExchange (f : FnRef)
  | finish (f : FnRef) (sess : Nat)
  | keyUpdate (f : FnRef) (sess : Nat)
  | heartbeat (f : FnRef) (sess : Nat)
  | endSession (f : FnRef) (sess : Nat)
  | setPolicyKey (f : FnRef) (sess : Nat) (key : BitVec 512)
  | setMeasPeriod (f : FnRef) (sess : Nat) (seconds : Nat)
  | lockInterface (p : Nat)
  | startInterface (p : Nat)
  | stopInterface (p : Nat)
  | frozenConfigWrite (p : Nat)
  | ideIntegrityFail (f : FnRef)
  | ideKm (f : FnRef) (sess : Nat) (key : BitVec 256)
  -- the device window
  | windowRead (f : FnRef) (off n : Nat) (noSnoop : Bool)
  | windowWrite (f : FnRef) (off : Nat) (bytes : List Byte) (noSnoop : Bool)
  | windowAtomic (f : FnRef) (off n : Nat) (op : PcieAtomic) (a b : Word)
  -- housekeeping
  | setNode
  | writeMap
  | assign
  | fwStage
  | fwCommit
  | checkpoint
  | setScrub
  | share
  | sensorRefresh (readings : List Sensor) (packagePower : Nat)
  | wearRecompute (words : List (Nat × Word))
  | functionReady (bit : Nat)
  | packageReset
  | dictLoadComplete (c x : Nat)
  | storePerformed (c x i : Nat)
  | unattributedFault (site : FaultSite)
  | partitionCreation (p : Nat)
  | partitionDestruction (p : Nat)
  | debugHalt (c x : Nat)
  | debugResume (c x : Nat) (single : Bool)
  | providerEndLaunch (p lid : Nat)
  | receiveDma (slot pa : Nat) (bytes : List Byte)
  | hkCommandComplete
  | logTailWrite (v : Word)
  | functionFailedCheck (bit : Nat)
  deriving DecidableEq, Repr

end Sys2Proof
end

