-- ==== Sys2Proof/WellFormed.lean ====
section
/-! DEFINITION. Which instructions are well formed: the operand values that some encoding of the spec holds, and for
an event the agents that exist. -/

namespace Sys2Proof

/-- Element width in bits (R184). -/
def Ty.bits : Ty → Nat
  | .f64 | .b64 => 64
  | .f32 | .tf32 | .s32 | .n32 | .b32 => 32
  | .bf16 | .f16 | .s16 | .n16 | .b16 => 16
  | .e4m3 | .e5m2 | .s8 | .n8 | .b8 => 8
  | .e2m1 | .s4 => 4

/-- Lanes of a vector register (R184). -/
def Ty.lanes (t : Ty) : Nat := 2048 / t.bits

/-! Type lists of the entries. -/

/-- .f64 .f32 .bf16 .f16 (R188). -/
def Ty.isF4 : Ty → Bool
  | .f64 | .f32 | .bf16 | .f16 => true
  | _ => false

/-- .f32 .bf16 .f16 (R189, R192). -/
def Ty.isF3 : Ty → Bool
  | .f32 | .bf16 | .f16 => true
  | _ => false

/-- Floating formats (R64). -/
def Ty.isFloat : Ty → Bool
  | .f64 | .f32 | .tf32 | .bf16 | .f16 | .e4m3 | .e5m2 | .e2m1 => true
  | _ => false

/-- .s32 .s16 .s8 .n32 .n16 .n8 (R193). -/
def Ty.isI6 : Ty → Bool
  | .s32 | .s16 | .s8 | .n32 | .n16 | .n8 => true
  | _ => false

/-- Signed integer formats (R67). -/
def Ty.isSigned : Ty → Bool
  | .s32 | .s16 | .s8 | .s4 => true
  | _ => false

/-- .b64 .b32 .b16 .b8 (R196). -/
def Ty.isB4 : Ty → Bool
  | .b64 | .b32 | .b16 | .b8 => true
  | _ => false

/-- Integer formats a conversion knows (R191). -/
def Ty.isInt : Ty → Bool
  | .s32 | .s16 | .s8 | .s4 | .n32 | .n16 | .n8 => true
  | _ => false

/-- Types of the M slot's vector accesses (R133, R182, R208). -/
def Ty.isMV : Ty → Bool
  | .tf32 | .e2m1 | .s4 => false
  | _ => true

/-- Types at least a byte wide (R199, R237); .tf32 is only a destination of CVT (R184). -/
def Ty.isW8 : Ty → Bool
  | .tf32 | .e2m1 | .s4 => false
  | _ => true

/-- Source types of CVT (R191). -/
def Ty.isCvtS (t : Ty) : Bool := (t.isFloat && t != .tf32) || t.isInt

/-- Destination types of CVT (R191). -/
def Ty.isCvtD (t : Ty) : Bool := t.isFloat || t.isInt

/-- Narrow formats with block scales (R70). -/
def Ty.isNarrow : Ty → Bool
  | .e4m3 | .e5m2 | .e2m1 => true
  | _ => false

/-- .s8 or .n8 (R194). -/
def Ty.isI8 : Ty → Bool
  | .s8 | .n8 => true
  | _ => false

/-- .f32 or .s32 (R205, R237). -/
def Ty.is32 : Ty → Bool
  | .f32 | .s32 => true
  | _ => false

/-- Types of a reduction (R200). -/
def RedOp.tyOk : RedOp → Ty → Bool
  | .add, t | .min, t | .max, t => t.isF4 || t.isI6
  | .adds, t => t.isI6
  | .and, t | .or, t | .xor, t => t.isB4

/-- Types of CPY.RED (R150). -/
def CRedOp.tyOk : CRedOp → Ty → Bool
  | .adds, t => t.isI6
  | _, t => t.isF4 || t.isI6

/-- Whether a reduction rounds (R200). -/
def RedOp.rounds (op : RedOp) (t : Ty) : Bool := op == .add && t.isF4

/-- How many parts a conversion has (R191): the ratio of the lane counts. -/
def cvtParts (tyd tys : Ty) : Nat :=
  if tys.lanes ≤ tyd.lanes then tyd.lanes / tys.lanes else tys.lanes / tyd.lanes

/-- The control registers MFC reads (R171). -/
def crKnown (c : Nat) : Bool :=
  [0x000, 0x001, 0x002, 0x003, 0x008, 0x009, 0x00A, 0x00B, 0x00C, 0x010, 0x011, 0x012, 0x013, 0x014, 0x015, 0x018, 0x019,
   0x01A, 0x020, 0x021, 0x022, 0x023, 0x024].contains c

/-- The control registers MTC writes (R171). -/
def crWritable (c : Nat) : Bool :=
  [0x009, 0x00A, 0x00B, 0x00C, 0x010, 0x012, 0x013, 0x014, 0x021, 0x022, 0x023, 0x024].contains c

/-- A lane number below W, or a register (R199). -/
def LaneSel.ok (t : Ty) : LaneSel → Bool
  | .imm i => decide (i.toNat < t.lanes)
  | .reg _ => true

/-- The width check of BFX and BFI (R177). -/
def RegOrSh.fits (p : RegOrSh) (w : BitVec 6) : Bool :=
  match p with
  | .imm sh => decide (sh.toNat + (w.toNat + 1) ≤ 64)
  | .reg _ => true

/-- Well-formed slot operations: the values an encoding admits. Everything else has fields that fit by type. -/
def wellFormedOp : Instr → Bool
  | .nop sl land => sl == .C || !land
  | .idleBundle => true
  | .call _ w _ => decide (1 ≤ w.toNat ∧ w.toNat ≤ 48)
  | .rgnBegin _ _ _ _ fs _ => fs != 0
  | .calli _ _ w => decide (1 ≤ w.toNat ∧ w.toNat ≤ 48)
  | .mfc _ _ cr => crKnown cr.toNat
  | .mtc _ cr _ => crWritable cr.toNat
  | .chkV _ _ _ _ ty => ty.isB4
  | .bfx _ _ _ p w => p.fits w
  | .bfi _ _ _ p w => p.fits w
  | .ld _ sz sgn t _ _ _ => (match sz with | .b8 => !sgn | .b16 => !sgn && t.toNat % 2 == 0 | _ => true)
  | .st _ sz t _ _ _ => (match sz with | .b16 => t.toNat % 2 == 0 | _ => true)
  | .atom _ sz aop _ sgn _ _ _ _ _ =>
    (sz == .b4 || sz == .b8) && (aop == .min || aop == .max || !sgn)
  | .ldv _ _ _ ty _ | .stv _ _ _ ty _ | .ldvT _ _ _ ty _ | .stvT _ _ _ ty _ | .vstPack _ _ _ ty _
  | .vpackEnd _ ty _ | .vldExpand _ _ _ ty _ => ty.isMV
  | .fadd _ ty _ _ _ _ _ | .fsub _ ty _ _ _ _ _ | .fmul _ ty _ _ _ _ _ | .fma _ ty _ _ _ _ _ _
  | .fmin _ ty _ _ _ _ | .fmax _ ty _ _ _ _ | .fabs _ ty _ _ _ | .fneg _ ty _ _ _ | .fcmp _ _ ty _ _ _ _ => ty.isF4
  | .frcp _ ty _ _ _ _ | .frsq _ ty _ _ _ _ | .fexp2 _ ty _ _ _ _ | .flog2 _ ty _ _ _ _ => ty.isF3
  | .cvt _ tyd tys rnd _ _ _ part | .cvtDq _ tyd tys rnd _ _ _ _ part =>
    tyd.isCvtD && tys.isCvtS && (!(tyd.isInt && tys.isInt) || rnd == .fmt) && decide (part.toNat < cvtParts tyd tys)
  | .cvtQ _ tyd tys rnd d c _ _ part =>
    tyd.isCvtD && tys.isCvtS && (!(tyd.isInt && tys.isInt) || rnd == .fmt) && decide (part.toNat < cvtParts tyd tys)
      && d != c
  | .iadd _ ty _ _ _ _ | .isub _ ty _ _ _ _ | .imul _ ty _ _ _ _ | .imad _ ty _ _ _ _ _ | .iaddSat _ ty _ _ _ _
  | .isubSat _ ty _ _ _ _ => ty.isI6
  | .vmacI8 _ ta tb _ _ _ _ _ | .vdot4I8 _ ta tb _ _ _ _ => ta.isI8 && tb.isI8
  | .vrshr _ ty _ _ _ _ _ part => ty.isI6 && decide (part.toNat < 32 / ty.bits)
  | .vand _ ty _ _ _ _ | .vor _ ty _ _ _ _ | .vxor _ ty _ _ _ _ | .vandn _ ty _ _ _ _ | .vsel _ ty _ _ _ _
  | .mpopc _ ty _ _ | .vrand _ ty _ _ _ | .vshl _ ty _ _ _ _ | .vshr _ ty _ _ _ _ | .vsar _ ty _ _ _ _ => ty.isB4
  | .vperm _ _ ty _ _ _ c _ => ty.isB4 && (ty != .b8 || c == 0)
  | .vbcast _ ty _ src _ => ty.isB4 && (match src with | .lane _ i => decide (i.toNat < ty.lanes) | .scalar _ => true)
  | .vred _ op ty rnd _ _ _ | .vscan _ op _ ty rnd _ _ _ => op.tyOk ty && (op.rounds ty || rnd == .fmt)
  | .vcmp _ cc ty _ _ _ _ => (ty.isI6 || ty.isB4) && (cc != .un && cc != .ord)
  | .vmovS _ ty _ _ l | .vmovV _ ty _ _ l => ty.isW8 && l.ok ty
  | .accRd _ ty _ _ _ _ | .accWr _ ty _ _ _ _ => ty.is32
  | .cpyRed op ty _ _ _ => op.tyOk ty
  | .gath _ ty _ _ _ _ => ty.isW8
  | .scat add _ ty _ _ _ _ => ty.isW8 && (!add || ty.is32)
  | _ => true

/-- A slot operation, as opposed to an event or an idle bundle: it has a slot word. -/
def Instr.isOp : Instr → Bool
  | .idleBundle => false
  | .nop _ _ | .br _ _ | .brCc _ _ _ _ _ | .bri _ _ | .loop _ _ _ | .call _ _ _ | .calli _ _ _ | .ret _ | .wait _ _ _ _ _
  | .barArrive _ _ | .barWait _ _ | .barSs _ _ | .yield _ | .exit _ | .setfmt _ _ | .mfc _ _ _ | .mtc _ _ _
  | .rgnBegin _ _ _ _ _ _ | .rgnKeep _ _ | .rgnEnd _ _ | .rgnEndC _ _ | .rgnAbort _ _ | .chk _ _ _ | .chkV _ _ _ _ _ | .trap _ _
  | .eret _ | .dictLoad _ _ _ _ _ => true
  | .add _ _ _ _ | .sub _ _ _ _ | .addi _ _ _ _ | .mul _ _ _ _ | .mulh _ _ _ _ _ | .div _ _ _ _ _ | .rem _ _ _ _ _
  | .madd _ _ _ _ _ | .and _ _ _ _ | .or _ _ _ _ | .xor _ _ _ _ | .andn _ _ _ _ | .shl _ _ _ _ | .shr _ _ _ _ | .sar _ _ _ _
  | .rot _ _ _ _ | .clz _ _ _ | .popc _ _ _ | .min _ _ _ _ _ | .max _ _ _ _ _ | .sel _ _ _ _ _ | .cmpCc _ _ _ _ _ | .li _ _ _
  | .lih _ _ _ _ | .bfx _ _ _ _ _ | .bfi _ _ _ _ _ | .qset _ _ _ | .qclr _ | .symix _ _ _ _ => true
  | .ld _ _ _ _ _ _ _ | .st _ _ _ _ _ _ | .atom _ _ _ _ _ _ _ _ _ _ | .fence _ _ | .qld _ _ _ _ _ | .ldv _ _ _ _ _
  | .stv _ _ _ _ _ | .ldvT _ _ _ _ _ | .stvT _ _ _ _ _ | .vstPack _ _ _ _ _ | .vpackEnd _ _ _ | .vldExpand _ _ _ _ _
  | .stashMap _ _ _ _ _ | .stashFlush _ _ | .stashInv _ _ | .leaseGet _ _ _ _ _ _ | .leaseFree _ _ => true
  | .fadd _ _ _ _ _ _ _ | .fsub _ _ _ _ _ _ _ | .fmul _ _ _ _ _ _ _ | .fma _ _ _ _ _ _ _ _ | .fmin _ _ _ _ _ _
  | .fmax _ _ _ _ _ _ | .fabs _ _ _ _ _ | .fneg _ _ _ _ _ | .frcp _ _ _ _ _ _ | .frsq _ _ _ _ _ _ | .fexp2 _ _ _ _ _ _
  | .flog2 _ _ _ _ _ _ | .fcmp _ _ _ _ _ _ _ | .cvt _ _ _ _ _ _ _ _ | .cvtQ _ _ _ _ _ _ _ _ _ | .cvtDq _ _ _ _ _ _ _ _ _
  | .iadd _ _ _ _ _ _ | .isub _ _ _ _ _ _ | .imul _ _ _ _ _ _ | .imad _ _ _ _ _ _ _ | .iaddSat _ _ _ _ _ _ | .isubSat _ _ _ _ _ _
  | .vmacI8 _ _ _ _ _ _ _ _ | .vdot4I8 _ _ _ _ _ _ _ | .vrshr _ _ _ _ _ _ _ _ | .vand _ _ _ _ _ _ | .vor _ _ _ _ _ _
  | .vxor _ _ _ _ _ _ | .vandn _ _ _ _ _ _ | .vshl _ _ _ _ _ _ | .vshr _ _ _ _ _ _ | .vsar _ _ _ _ _ _ | .vperm _ _ _ _ _ _ _ _
  | .vbcast _ _ _ _ _ | .vsel _ _ _ _ _ _ | .vred _ _ _ _ _ _ _ | .vscan _ _ _ _ _ _ _ _ | .vcmp _ _ _ _ _ _ _ | .mand _ _ _ _
  | .mor _ _ _ _ | .mnot _ _ _ | .mpopc _ _ _ _ | .vmovS _ _ _ _ _ | .vmovV _ _ _ _ _ | .vrand _ _ _ _ _ | .accRd _ _ _ _ _ _
  | .accWr _ _ _ _ _ _ => true
  | .cpy _ _ _ | .cpyL _ _ _ | .cpyRed _ _ _ _ _ | .trig _ _ _ _ _ | .tokClr _ _ _ _ | .mma _ _ _ _ _ _ _ | .mmaG _ _ _ _ _ _ _ _
  | .mmaW _ _ _ _ _ _ _ | .tgemm _ _ _ _ _ _ | .tcon _ _ _ _ _ _ _ | .drain _ _ _ _ _ _ _ _ | .accZero _ _ | .gath _ _ _ _ _ _
  | .scat _ _ _ _ _ _ _ | .chSend _ _ _ | .chRecv _ _ _ | .chRecvRel _ _ | .chRed _ _ _ _ _ | .chFwd _ _ _
  | .chStat _ _ _ => true
  | _ => false

/-- A core and a context of it (R2, R265). -/
def coreOk (c x : Nat) : Bool := decide (c < 256) && decide (x < 4)

/-- A register page: of a partition, or the PF's as 49 (R94, R104, R375). -/
def pageOk (p : Nat) : Bool := decide (p < 48) || p == 49

/-- A function of the link (R375). -/
def FnRef.ok : FnRef → Bool
  | .pf => true
  | .vf p => decide (p < 48)
  | .port _ => false

/-- A request of the device window lies in BAR2's 64 GiB (R375). -/
def inBar (off n : Nat) : Bool := decide (off + n ≤ 2 ^ 36)

/-- An SPDM responder: a function of the link, or one of the 16 Amisia ports (R2, R366). -/
def FnRef.responds : FnRef → Bool
  | .port k => decide (k < 16)
  | f => f.ok

/-- Well-formed events: the agents that their arguments name exist (R2, R91, R94, R265, R280, R287, R341), and an AtomicOp has one of
the two sizes, aligned (R375). -/
def eventOk : Instr → Bool
  | .resultLanding c x | .resultArrival c x _ | .descriptorLoad c x | .codeFetchMiss c x | .dictLoadComplete c x
  | .storePerformed c x _ | .debugHalt c x | .debugResume c x _ => coreOk c x
  | .strandSwitch c | .copyStart c | .copySector c _ | .copyComplete c _ | .triggerFire c _ | .engineCommandStart c _ _
  | .engineCommandComplete c _ | .gatherRow c | .channelCommandComplete c _ => decide (c < 256)
  | .stashWriteback c w _ => decide (c < 256) && decide (w < 8)
  | .pageFault p | .fbufBaseWrite p _ | .fbufTailWrite p _ | .frespRetry p _ | .frespFail p _ | .migreq p _ | .tlbinv p _
  | .tlbinvWholePartition p | .tlbinvDone p | .migrationStart p _ _ _ | .migrationCopy p _ | .migrationComplete p _
  | .floorExpiry p _ | .pageRequestResponse p _ _ | .atsInvalidate p _ _ => pageOk p
  | .scrubLine stack line _ => decide (stack < 12) && decide (line < 0x240000000)
  | .leaseExpiry die n => decide (die < 4) && decide (1 ≤ n ∧ n ≤ 255)
  | .superstepRelease cl b => decide (cl < 64) && decide (b < 16)
  | .shareSliceExpiry cl => decide (cl < 64)
  | .gangEnd p _ _ | .gangStart p _ _ | .launchComplete p _ | .resume p _ | .placementPeriod p | .plogBaseWrite p _
  | .trapSegWrite p _ | .trapSegCheckDone p | .polCmdLoad p | .policyCheckDone p | .policyExpiry p | .lockInterface p
  | .startInterface p | .stopInterface p | .frozenConfigWrite p | .partitionCreation p | .partitionDestruction p
  | .providerEndLaunch p _ => decide (p < 48)
  | .launch p q | .queueNop p q | .extwr p q | .unknownRecord p q => decide (p < 48) && decide (q < 16)
  | .preempt p cl => decide (p < 48) && decide (cl < 64)
  | .watchpointEnable p i _ | .watchpointArmed p i => decide (p < 48) && decide (i < 8)
  | .registerWrite (.part p) _ _ => decide (p < 48)
  | .getVersion f | .getCapabilities f | .negotiateAlgorithms f | .getDigests f | .getCertificate f | .challenge f _
  | .getMeasurements f _ _ | .keyExchange f | .finish f _ | .keyUpdate f _ | .heartbeat f _ | .endSession f _
  | .setPolicyKey f _ _ | .setMeasPeriod f _ _ | .ideKm f _ _ => f.responds
  | .ideIntegrityFail f => f.ok
  | .windowRead f off n _ => f.ok && inBar off n
  | .windowWrite f off bytes _ => f.ok && inBar off bytes.length
  | .windowAtomic f off n _ _ _ => f.ok && inBar off n && (n == 4 || n == 8) && off % n == 0
  | .unattributedFault (.cluster cl) => decide (cl < 64)
  | .unattributedFault (.stack n) => decide (n < 12)
  | .receiveDma slot _ _ => decide (slot < 50)
  | .functionReady b | .functionFailedCheck b => decide (b < 64)
  | .remoteAccess node _ p _ _ => decide (node < 2 ^ 14) && decide (p < 48)
  | _ => true

/-- The well-formed instructions: a slot operation whose operands an encoding holds, an idle bundle, or an event of agents
that exist. -/
def wellFormed (i : Instr) : Bool := wellFormedOp i && eventOk i

end Sys2Proof
end

