-- ==== Sys2Proof/Machine/Numbers.lean ====
section
/-! DEFINITION. Number formats, exact values, rounding and the counter-based generator (R64 to R86). Values are exact:
a finite value is a signed m * 2^e; an irrational one is given by enclosures (R189, R230). -/

namespace Sys2Proof.Machine

/-- An exact value: NaN, an infinity, or a signed m * 2^e whose zero keeps its sign. -/
inductive Num where
  | nan
  | inf (neg : Bool)
  | fin (neg : Bool) (m : Nat) (e : Int)
  deriving DecidableEq, Repr

/-- Layout of a floating format (R64): widths, bias, shift of the fraction (for .tf32), infinities, largest quotient of the top binade. -/
structure FloatFmt where
  w    : Nat
  ew   : Nat
  mw   : Nat
  bias : Nat
  sh   : Nat := 0
  inf  : Bool := true
  ftz  : Bool := false
  deriving DecidableEq, Repr

/-- The floating formats (R64, R75). -/
def floatFmt : Ty → FloatFmt
  | .f64 => { w := 64, ew := 11, mw := 52, bias := 1023, ftz := true }
  | .f32 => { w := 32, ew := 8, mw := 23, bias := 127, ftz := true }
  | .tf32 => { w := 32, ew := 8, mw := 10, bias := 127, sh := 13, ftz := true }
  | .bf16 => { w := 16, ew := 8, mw := 7, bias := 127, ftz := true }
  | .f16 => { w := 16, ew := 5, mw := 10, bias := 15, ftz := true }
  | .e4m3 => { w := 8, ew := 4, mw := 3, bias := 7, inf := false }
  | .e5m2 => { w := 8, ew := 5, mw := 2, bias := 15 }
  | _ => { w := 4, ew := 2, mw := 1, bias := 1, inf := false }

/-- Exponent of the top binade and the largest quotient there (R64). -/
def FloatFmt.top (f : FloatFmt) : Int × Nat :=
  if f.inf then ((2 ^ f.ew : Nat) - 2 - f.bias, 2 ^ (f.mw + 1) - 1)
  else ((2 ^ f.ew : Nat) - 1 - f.bias, if f.mw = 3 then 14 else 3)

/-- The canonical NaN of a format; 0 where the format has none (R76). -/
def nanOut : Ty → Nat
  | .f64 => 0x7FF8000000000000
  | .f32 | .tf32 => 0x7FC00000
  | .bf16 => 0x7FC0
  | .f16 => 0x7E00
  | .e5m2 => 0x7E
  | .e4m3 => 0x7F
  | _ => 0

/-- The value of a floating code (R64); `ftz` flushes a subnormal of the formats of R75. -/
def decodeF (ftz : Bool) (t : Ty) (b : Nat) : Num :=
  let f := floatFmt t
  let neg := bit b (f.w - 1)
  let fr := fld b (f.sh + f.mw - 1) f.sh
  let ex := fld b (f.w - 2) (f.w - 1 - f.ew)
  let all := ex = 2 ^ f.ew - 1
  if f.inf ∧ all then (if fld b (f.w - 2 - f.ew) 0 = 0 then .inf neg else .nan)
  else if t = .e4m3 ∧ all ∧ fr = 7 then .nan
  else if ex = 0 then
    (if ftz ∧ f.ftz then .fin neg 0 0 else .fin neg fr (1 - (f.bias : Int) - f.mw))
  else .fin neg (2 ^ f.mw + fr) ((ex : Int) - f.bias - f.mw)

/-- The value of an integer code (R67); the raw formats read as natural numbers. -/
def decodeI (t : Ty) (b : Nat) : Int := if t.isSigned then sext t.bits b else ((b % 2 ^ t.bits : Nat) : Int)

/-- An integer as an exact value. -/
def ofInt (i : Int) : Num := .fin (decide (i < 0)) i.natAbs 0

/-- The value of a code of any arithmetic type. -/
def decodeNum (ftz : Bool) (t : Ty) (b : Nat) : Num := if t.isFloat then decodeF ftz t b else ofInt (decodeI t b)

/-- Least and greatest value of an integer format (R67). -/
def minInt (t : Ty) : Int := if t.isSigned then -((2 ^ (t.bits - 1) : Nat) : Int) else 0
def maxInt (t : Ty) : Int := if t.isSigned then ((2 ^ (t.bits - 1) : Nat) : Int) - 1 else ((2 ^ t.bits : Nat) : Int) - 1

/-- Sat (R83). -/
def satI (n : Int) (t : Ty) : Int := min (max n (minInt t)) (maxInt t)

/-- Requant (R83). -/
def requant (x : Int) (s : Nat) (zp : Int) (t : Ty) : Int :=
  satI ((if s > 0 then (x + 2 ^ (s - 1)) / 2 ^ s else x) + zp) t

/-- Signed m * 2^e at exponent `e0 ≤ e`. -/
def toGrid (neg : Bool) (m : Nat) (e e0 : Int) : Int :=
  let v : Int := (m * 2 ^ (e - e0).toNat : Nat)
  if neg then -v else v

/-- The exact product (R188): NaN for infinity times 0. -/
def mulN : Num → Num → Num
  | .nan, _ => .nan
  | _, .nan => .nan
  | .inf a, .inf b => .inf (a != b)
  | .inf a, .fin b m _ => if m = 0 then .nan else .inf (a != b)
  | .fin b m _, .inf a => if m = 0 then .nan else .inf (a != b)
  | .fin a m e, .fin b n f => .fin (a != b) (m * n) (e + f)

/-- The exact sum; a zero sum takes the sign of R77, where `rd` says that the mode is RD. -/
def addN (rd : Bool) : Num → Num → Num
  | .nan, _ => .nan
  | _, .nan => .nan
  | .inf a, .inf b => if a = b then .inf a else .nan
  | .inf a, .fin .. => .inf a
  | .fin .., .inf b => .inf b
  | .fin a m e, .fin b n f =>
    let e0 := min e f
    let s := toGrid a m e e0 + toGrid b n f e0
    if s = 0 then .fin (if m = 0 ∧ n = 0 ∧ a ∧ b then true else rd) 0 0
    else .fin (decide (s < 0)) s.natAbs e0

/-- Negation. -/
def negN : Num → Num
  | .nan => .nan
  | .inf a => .inf (!a)
  | .fin a m e => .fin (!a) m e

/-- a < b for values that are not NaN; -0 and +0 compare equal. -/
def ltN : Num → Num → Bool
  | .nan, _ => false
  | _, .nan => false
  | .inf a, .inf b => a && !b
  | .inf a, .fin .. => a
  | .fin .., .inf b => !b
  | .fin a m e, .fin b n f =>
    let e0 := min e f
    decide (toGrid a m e e0 < toGrid b n f e0)

def eqN : Num → Num → Bool
  | .nan, _ => false
  | _, .nan => false
  | a, b => !ltN a b && !ltN b a

def isNan : Num → Bool
  | .nan => true
  | _ => false

def isZeroN : Num → Bool
  | .fin _ 0 _ => true
  | _ => false

def negSign : Num → Bool
  | .nan => false
  | .inf a => a
  | .fin a _ _ => a

/-- Lesser by R188: -0 is below +0. -/
def below (a b : Num) : Bool := ltN a b || (isZeroN a && isZeroN b && negSign a && !negSign b)

/-- What a rounding reads: mode 1 RNE to 5 SR (R87), the draw of SR, and FMT's FTZ and SATF. -/
structure Rc where
  mode : Nat := 1
  draw : Nat := 0
  ftz  : Bool := false
  satf : Bool := false
  deriving DecidableEq, Repr

/-- RoundToGrid on a magnitude (R73): `n` is its quotient by the grid times 2^24 rounded down, `st` says that a rest remains. -/
def roundQ (neg : Bool) (n : Nat) (st : Bool) (rc : Rc) : Nat :=
  let q := n / 2 ^ 24
  let fr := n % 2 ^ 24
  if fr = 0 ∧ !st then q else
  match rc.mode with
  | 1 => if fr > 2 ^ 23 ∨ (fr = 2 ^ 23 ∧ st) then q + 1 else if fr = 2 ^ 23 then q + q % 2 else q
  | 2 => q
  | 3 => if neg then q else q + 1
  | 4 => if neg then q + 1 else q
  | _ => if neg then (if fr < 2 ^ 24 - rc.draw then q else q + 1)
         else (if rc.draw < fr ∨ (rc.draw = fr ∧ st) then q + 1 else q)

/-- The code of the largest finite value with a sign (R64). -/
def maxFinOut (t : Ty) (neg : Bool) : Nat :=
  let f := floatFmt t
  let mag := if f.inf then ((2 ^ f.ew - 2) * 2 ^ f.mw + (2 ^ f.mw - 1)) * 2 ^ f.sh
    else (if f.mw = 3 then 0x7E else 0x7)
  mag + (if neg then 2 ^ (f.w - 1) else 0)

/-- The code of an infinity. -/
def infCode (t : Ty) (neg : Bool) : Nat :=
  let f := floatFmt t
  (2 ^ f.ew - 1) * 2 ^ (f.w - 1 - f.ew) + (if neg then 2 ^ (f.w - 1) else 0)

/-- InfOut (R74). -/
def infOut (t : Ty) (neg : Bool) : Nat :=
  if t.isFloat then (if (floatFmt t).inf then infCode t neg else maxFinOut t neg)
  else wrap t.bits (if neg then minInt t else maxInt t)

/-- Overflow of a finite value (R74). The table has no row for .tf32: it is treated as .f32 (log 94). -/
def overflowOut (rc : Rc) (t : Ty) (neg : Bool) : Nat :=
  match t with
  | .e4m3 | .e2m1 => maxFinOut t neg
  | _ =>
    if rc.satf ∧ (t = .bf16 ∨ t = .f16 ∨ t = .e5m2) then maxFinOut t neg else
    match rc.mode with
    | 2 => maxFinOut t neg
    | 3 => if neg then maxFinOut t neg else infCode t neg
    | 4 => if neg then infCode t neg else maxFinOut t neg
    | _ => infCode t neg

/-- Rounds a non-zero real into a format (R73). `ex` is the exponent of its binade, `fl k` its magnitude times 2^k
rounded down, with whether a rest remains. -/
def roundReal (rc : Rc) (t : Ty) (neg : Bool) (ex : Int) (fl : Int → Nat × Bool) : Nat :=
  if t.isFloat then
    let f := floatFmt t
    let sgn := if neg then 2 ^ (f.w - 1) else 0
    let emin : Int := 1 - f.bias
    if f.ftz ∧ rc.ftz ∧ ex < emin then sgn else
    let (et, qt) := f.top
    let ge : Int := min (max ex emin) et - f.mw
    let (n, st) := fl (24 - ge)
    let q := roundQ neg n st rc
    if ge = et - f.mw ∧ q > qt then overflowOut rc t neg
    else if q < 2 ^ f.mw then q * 2 ^ f.sh + sgn
    else
      let (q', ge') := if q = 2 ^ (f.mw + 1) then (2 ^ f.mw, ge + 1) else (q, ge)
      ((ge' + f.mw + f.bias).toNat * 2 ^ f.mw + (q' - 2 ^ f.mw)) * 2 ^ f.sh + sgn
  else
    let (n, st) := fl 24
    let q : Int := roundQ neg n st rc
    wrap t.bits (satI (if neg then -q else q) t)

/-- m * 2^e times 2^k, rounded down, with whether a rest remains. -/
def scaleDyadic (m : Nat) (e k : Int) : Nat × Bool :=
  if 0 ≤ e + k then (m * 2 ^ (e + k).toNat, false)
  else let d := 2 ^ (-(e + k)).toNat; (m / d, decide (m % d ≠ 0))

/-- RoundTo (R73) into a float or an integer format; the result is the code. -/
def roundTo (rc : Rc) (t : Ty) (v : Num) : Nat :=
  match v with
  | .nan => nanOut t
  | .inf neg => infOut t neg
  | .fin neg m e =>
    if m = 0 then (if t.isFloat ∧ neg then 2 ^ ((floatFmt t).w - 1) else 0)
    else roundReal rc t neg ((m.log2 : Int) + e) (scaleDyadic m e)

/-- The value of a code after a rounding, for sums in several steps. -/
def roundVal (rc : Rc) (t : Ty) (v : Num) : Num := decodeF false t (roundTo rc t v)

/-! Enclosures of irrational values. -/

/-- Integer square root by bits, `n` steps. -/
def isqrtGo : Nat → Nat → Nat → Nat
  | 0, _, r => r
  | n + 1, x, r =>
    let r' := r + 2 ^ n
    if r' * r' ≤ x then isqrtGo n x r' else isqrtGo n x r

/-- The largest r with r * r ≤ x. -/
def isqrt (x : Nat) : Nat := isqrtGo (x.log2 / 2 + 1) x 0

/-- An enclosure at precision p: integers lo and hi with lo ≤ value * 2^p ≤ hi. -/
abbrev Encl := Nat → Int × Int

/-- Precisions tried, ascending. -/
def precisions : List Nat := [96, 192, 320, 512, 768, 1280, 2304]

/-- Rounds the real an enclosure holds: the first precision whose two ends round alike decides; where none does, the
value nearer to zero with a rest (log 24). -/
def roundEnclGo (rc : Rc) (t : Ty) (enc : Encl) : List Nat → Nat
  | [] => nanOut t
  | p :: r =>
    let (lo, hi) := enc p
    let side (x : Int) : Nat := roundReal rc t (decide (x < 0)) (((x.natAbs.log2 : Nat) : Int) - p) (fun k =>
      let (n, _) := scaleDyadic x.natAbs (-(p : Int)) k; (n, true))
    if r = [] then
      (if 0 < lo then side lo else if hi < 0 then side hi
       else if 0 ≤ lo then roundReal rc t false (-(p : Int)) (fun _ => (0, true))
       else roundReal rc t true (-(p : Int)) (fun _ => (0, true)))
    else if (0 < lo ∨ hi < 0) ∧ side lo = side hi then side lo
    else roundEnclGo rc t enc r

def roundEncl (rc : Rc) (t : Ty) (enc : Encl) : Nat := roundEnclGo rc t enc precisions

/-- Floor and ceiling division of integers by a positive number. -/
def fdiv (a b : Int) : Int := Int.fdiv a b
def cdivI (a b : Int) : Int := -(Int.fdiv (-a) b)

/-- 2^(2^-i) for i = 1 to n, as enclosures at precision p. -/
def roots2 : Nat → Nat → Nat × Nat → List (Nat × Nat)
  | 0, _, _ => []
  | n + 1, p, (lo, hi) =>
    let l := isqrt (lo * 2 ^ p)
    let h := isqrt (hi * 2 ^ p) + 1
    (l, h) :: roots2 n p (l, h)

/-- The product of the roots at the set bits of a fraction: `fr` has `n` bits after the point. -/
def prodRoots (p n fr : Nat) : List (Nat × Nat) → Nat → Nat × Nat → Nat × Nat
  | [], _, acc => acc
  | (l, h) :: r, i, (al, ah) =>
    if bit fr (n - 1 - i) then prodRoots p n fr r (i + 1) (al * l / 2 ^ p, (ah * h + 2 ^ p - 1) / 2 ^ p)
    else prodRoots p n fr r (i + 1) (al, ah)

/-- Shifts an enclosure of a positive number by a power of two. -/
def shiftE (lo hi : Int) (k : Int) : Int × Int :=
  if 0 ≤ k then (lo * 2 ^ k.toNat, hi * 2 ^ k.toNat)
  else (fdiv lo (2 ^ (-k).toNat), cdivI hi (2 ^ (-k).toNat))

/-- Encloses 2^(x / 2^n) at precision p, for an integer x. -/
def exp2E (p n : Nat) (x : Int) : Int × Int :=
  let q := fdiv x (2 ^ n)
  let fr := (x - q * 2 ^ n).toNat
  let one : Nat := 2 ^ p
  let (l, h) := prodRoots p n fr (roots2 n p (2 * one, 2 * one)) 0 (one, one)
  shiftE l h q

/-- The bits of log2 of a number in [1, 2), by squaring; enclosures keep the decision safe. -/
def log2Bits : Nat → Nat → Nat → Nat → Nat → Option Nat
  | 0, _, _, _, acc => some acc
  | n + 1, p, lo, hi, acc =>
    let l := lo * lo / 2 ^ p
    let h := (hi * hi + 2 ^ p - 1) / 2 ^ p
    if 2 * 2 ^ p ≤ l then log2Bits n p (l / 2) ((h + 1) / 2) (2 * acc + 1)
    else if h < 2 * 2 ^ p then log2Bits n p l h (2 * acc)
    else none

/-- Encloses log2 of m * 2^e at precision p. -/
def log2E (m : Nat) (e : Int) (p : Nat) : Int × Int :=
  let k := m.log2
  let p2 := 2 * p + 64
  let y := (m * 2 ^ p2) / 2 ^ k
  let base : Int := ((k : Int) + e) * 2 ^ p
  match log2Bits p p2 y (y + (if m * 2 ^ p2 % 2 ^ k = 0 then 0 else 1)) 0 with
  | some b => (base + b, base + b + 1)
  | none => (base, base + 2 ^ p)

/-- Encloses 2^x for x = ±m * 2^e at precision p. -/
def exp2D (neg : Bool) (m : Nat) (e : Int) (p : Nat) : Int × Int :=
  let x : Int := if neg then -(m : Int) else m
  if 0 ≤ e then shiftE (2 ^ p) (2 ^ p) (x * 2 ^ e.toNat)
  else exp2E (p + 16) (-e).toNat x |> fun (l, h) => shiftE l h (-16)

/-- Encloses 1 / sqrt(m * 2^e) at precision p. -/
def rsqE (m : Nat) (e : Int) (p : Nat) : Int × Int :=
  let (m', e') := if e % 2 = 0 then (m, e) else (2 * m, e - 1)
  let g := m'.log2 + p + 8
  let r : Int := isqrt (2 ^ (2 * g) / m')
  let k : Int := p - g - e' / 2
  let (l, h) := shiftE r (r + 2) k
  (l, h)

/-- log2(e) at precision p: 1 / ln 2 with ln 2 = sum of 1 / (k 2^k). -/
def ln2Go : Nat → Nat → Nat → Nat
  | 0, _, acc => acc
  | n + 1, p, acc => ln2Go n p (acc + 2 ^ p / ((n + 1) * 2 ^ (n + 1)))

/-- Encloses log2(e) at precision p. -/
def log2eE (p : Nat) : Int × Int :=
  let q := p + 16
  let l := ln2Go (q + 8) q 0
  let h := l + q + 16
  (fdiv (2 ^ (2 * q)) h |> fun x => fdiv x (2 ^ 16), cdivI (cdivI (2 ^ (2 * q)) l) (2 ^ 16))

/-- The atan series of 1 / n at scale 2^p, `k` terms: (lower, upper) by its alternating sum. -/
def atanGo : Nat → Nat → Nat → Nat → Int
  | 0, _, _, _ => 0
  | k + 1, j, pw, n2 => ((pw / (2 * j + 1) : Nat) : Int) - atanGo k (j + 1) (pw / n2) n2

/-- Encloses pi at precision p by Machin's formula. -/
def piE (p : Nat) : Int × Int :=
  let q := p + 32
  let a := atanGo (q / 2 + 4) 0 (2 ^ q / 5) 25
  let b := atanGo (q / 2 + 4) 0 (2 ^ q / 239) 57121
  let v := 16 * a - 4 * b
  let err : Int := 32 * (q + 8)
  (fdiv (v - err) (2 ^ 32), cdivI (v + err) (2 ^ 32))

/-- Encloses sqrt(2 / pi) at precision p (the constant of R230). -/
def sqrt2piE (p : Nat) : Int × Int :=
  let (l, h) := piE (p + 8)
  let x := (2 * 2 ^ (2 * p + p + 8) / h.toNat)
  let y := (2 * 2 ^ (2 * p + p + 8) / l.toNat) + 1
  (isqrt x, isqrt (y + 1) + 1)

/-- The product of an enclosure and an exact signed integer. -/
def mulE (a : Int × Int) (k : Int) : Int × Int := if 0 ≤ k then (a.1 * k, a.2 * k) else (a.2 * k, a.1 * k)

/-- Encloses 1 / (1 + e^-w) at precision p, where w is enclosed at precision p. -/
def sigmoidE (w : Int × Int) (p : Nat) : Int × Int :=
  let (cl, ch) := log2eE p
  -- x = -w log2 e, enclosed at precision p
  let prod (a : Int) (up : Bool) : Int :=
    let c := if up = decide (0 ≤ a) then ch else cl
    if up then cdivI (a * c) (2 ^ p) else fdiv (a * c) (2 ^ p)
  let xl := prod (-w.2) false
  let xh := prod (-w.1) true
  let cap : Int := (8 * (p : Int)) * 2 ^ p
  let el := if xl < -cap then 0 else if cap < xl then 2 ^ (9 * p) else (exp2E p p (max xl (-cap))).1
  let eh := if cap < xh then 2 ^ (64 * p) else (exp2E p p (max xh (-cap))).2
  (fdiv (2 ^ (2 * p)) (2 ^ p + eh), cdivI (2 ^ (2 * p)) (2 ^ p + el))

/-- Encloses v * sigmoid(w) for v = ±m * 2^e and w enclosed by `wE`. -/
def gateE (neg : Bool) (m : Nat) (e : Int) (wE : Encl) (p : Nat) : Int × Int :=
  let extra := (m.log2 + 8) + (max e 0).toNat
  let q := p + extra
  let (l, h) := sigmoidE (wE q) q
  let v : Int := if neg then -(m : Int) else m
  let (a, b) := mulE (l, h) v
  shiftE a b (e - extra)

/-- SILU's argument: v itself, enclosed exactly. -/
def selfE (neg : Bool) (m : Nat) (e : Int) : Encl := fun p =>
  let v : Int := if neg then -(m : Int) else m
  shiftE v v (e + p)

/-- GELU_TANH's argument 2 sqrt(2/pi) (v + 0.044715 v^3) (R230). -/
def geluE (neg : Bool) (m : Nat) (e : Int) : Encl := fun p =>
  -- v + 44715 v^3 / 10^6, exactly num * 2^(3e) / 10^6 when e < 0, else num / 10^6
  let v : Int := if neg then -(m : Int) else m
  let (num, ex) : Int × Int :=
    if e < 0 then (v * 1000000 * 2 ^ (2 * (-e)).toNat + 44715 * v * v * v, 3 * e)
    else ((v * 2 ^ e.toNat) * 1000000 + 44715 * (v * 2 ^ e.toNat) ^ 3, 0)
  let q := p + num.natAbs.log2 + 32
  let (a, b) := mulE (sqrt2piE q) (2 * num)
  let (l, h) := (fdiv a 1000000, cdivI b 1000000)
  shiftE l h (ex + p - q)

/-- An enclosure plus an exact value. -/
def addE (enc : Encl) (neg : Bool) (m : Nat) (e : Int) : Encl := fun p =>
  let (l, h) := enc p
  let v : Int := if neg then -(m : Int) else m
  let (a, b) := shiftE v v (e + p)
  (l + a, h + b)

/-! The counter-based generator (R78). -/

def mix64 (z : BitVec 64) : BitVec 64 :=
  let z := z ^^^ (z >>> 31)
  let z := z * 0x8F3C6A1D5B27E94B#64
  let z := z ^^^ (z >>> 29)
  let z := z * 0xC2A53F917D06B8E5#64
  z ^^^ (z >>> 32)

/-- Rand (R78). -/
def rand (seed : Word) (stream : Nat) (x : Word) (y z : Nat) : BitVec 64 :=
  let h := mix64 (seed + BitVec.ofNat 64 (stream + 1) * 0xB5E72C491F8D3A67#64)
  let h := mix64 (h ^^^ x)
  mix64 (h + BitVec.ofNat 64 (y * 2 ^ 32 + z))

/-- The Draw of a rounding: bits [63:40] (R73, R79). -/
def draw (r : BitVec 64) : Nat := r.toNat / 2 ^ 40

/-! FMT (R87). -/

def fmtMode (f : Nat) : Nat := fld f 2 0
def fmtXmode (f : Nat) : Nat := fld f 5 4
def fmtFtz (f : Nat) : Bool := bit f 8
def fmtSatf (f : Nat) : Bool := bit f 9
def fmtBsa (f : Nat) : Bool := bit f 10
def fmtBsb (f : Nat) : Bool := bit f 11
def fmtXval (f : Nat) : Nat := fld f 31 24

/-- A new FMT value that SETFMT takes (R88). -/
def fmtOk (f : Nat) : Bool :=
  fld f 23 12 == 0 && fld f 7 6 == 0 && fld f 3 3 == 0 && fmtMode f != 0 && fmtMode f < 6 && fmtXmode f != 3

/-- The rounding of an instruction: its rnd field, or FMT.RMODE (R42, R186). -/
def rndMode (r : Rnd) (fmt : Nat) : Nat :=
  match r with
  | .fmt => fmtMode fmt | .rne => 1 | .rz => 2 | .ru => 3 | .rd => 4 | .sr => 5

def rcOf (fmt mode dr : Nat) : Rc := { mode := mode, draw := dr, ftz := fmtFtz fmt, satf := fmtSatf fmt }

/-! Block scales and quantisation (R69 to R72). -/

/-- An element of a block-scaled operand (R70): S is the scale byte, X the extra value. -/
def decodeScaled (ftz : Bool) (fmt : Nat) (t : Ty) (hdr code : Nat) : Num :=
  let s := if t = .e2m1 then fld hdr 15 8 else fld hdr 7 0
  let x := fld hdr 7 0
  if s = 255 then .nan else
  let v := if t = .e2m1 ∧ code % 16 = 8 ∧ (fmtXmode fmt = 1 ∨ fmtXmode fmt = 2) then decodeF ftz .e4m3 x
    else decodeF ftz t code
  mulN v (.fin false 1 ((s : Int) - 127))

/-- |a| as an exact value. -/
def absN : Num → Num
  | .nan => .nan
  | .inf _ => .inf false
  | .fin _ m e => .fin false m e

/-- The largest magnitude of a block, NaN left out (R72). -/
def maxAbs (l : List Num) : Num :=
  l.foldl (fun a v => if isNan v then a else if ltN a (absN v) then absN v else a) (.fin false 0 0)

/-- EMax of a narrow format (R72). -/
def emaxOf : Ty → Int
  | .e4m3 => 8
  | .e5m2 => 15
  | _ => 2

/-- The distance of two finite values. -/
def distN (a b : Num) : Num := absN (addN false a (negN b))

/-- Nearest16 (R72): the code among the fifteen fixed ones and X nearest to w. -/
def nearest16 (w : Num) (x : Nat) : Nat :=
  match w with
  | .nan => 0
  | .inf neg =>
    -- an infinite element is nearest to the largest value of its sign
    let xv := decodeF false .e4m3 x
    if neg then (if ltN xv (.fin true 6 0) then 8 else 15) else (if ltN (.fin false 6 0) xv then 8 else 7)
  | .fin .. =>
    let cands := (List.range 16).filter (fun c => c ≠ 8)
    let best := cands.foldl (fun (b : Nat) c =>
      let dc := distN w (decodeF false .e2m1 c)
      let db := distN w (decodeF false .e2m1 b)
      if ltN dc db then c else if eqN dc db ∧ c % 2 = 0 ∧ b % 2 = 1 then c else b) 0
    let xv := decodeF false .e4m3 x
    if isNan xv then best
    else if ltN (distN w xv) (distN w (decodeF false .e2m1 best)) then 8 else best

/-- Position of the first element of largest magnitude. -/
def firstMax (a : Num) : List Num → Nat
  | [] => 0
  | v :: r => if eqN (absN v) a then 0 else 1 + firstMax a r

/-- QuantBlock (R72): the header and the 32 codes. `rcs` gives each element its rounding. -/
def quantBlock (fmt : Nat) (t : Ty) (v : List Num) (rcs : Nat → Rc) : Nat × List Nat :=
  let a := maxAbs v
  let s : Nat := match a with
    | .fin _ 0 _ => 127
    | .fin _ m e => (min (max ((m.log2 : Int) + e - emaxOf t + 127) 0) 254).toNat
    | _ => 254
  let w := v.map (fun x => mulN x (.fin false 1 (127 - (s : Int))))
  if t = .e2m1 ∧ fmtXmode fmt ≠ 0 then
    let p := firstMax a v
    let two := fmtXmode fmt = 2
    let x := if two then (if p < v.length then roundTo { mode := 1 } .e4m3 (w.getD p .nan) else (Config.nanExtra fmt).toNat)
      else fmtXval fmt
    (s * 256 + x, (List.range v.length).map (fun i => if two ∧ i = p then 8 else nearest16 (w.getD i .nan) x))
  else
    (if t = .e2m1 then s * 256 else s, (List.range v.length).map (fun i => roundTo (rcs i) t (w.getD i .nan)))

end Sys2Proof.Machine
end

