-- ==== Sys2Proof/Decode.lean ====
section
/-! DEFINITION. Decoding a slot word, total on every word, rejecting by name (R38 to R54, R61 to R63), and after it
the encoder, written from the same encoding tables. -/

namespace Sys2Proof

/-- Why a slot word is no instruction (R61). -/
inductive Reject where
  | illegalSlot | reservedOpcode | reservedField | privOpcode
  deriving DecidableEq, Repr

/-! Codes of the sub-operation fields (R40 to R42). -/

/-- The types by their codes, from 0; codes 19 to 31 are reserved (R40). -/
def tyTable : List Ty :=
  [.f64, .f32, .tf32, .bf16, .f16, .e4m3, .e5m2, .e2m1, .s32, .s16, .s8, .s4, .n32, .n16, .n8, .b64, .b32, .b16, .b8]

def tyCode (t : Ty) : BitVec 5 := BitVec.ofNat 5 (tyTable.idxOf t)

/-- The type of a code (R40). -/
def tyOf (c : BitVec 5) : Option Ty := tyTable[c.toNat]?

/-- The type of a code among those an entry lists. -/
def tyIn (ok : Ty → Bool) (c : BitVec 5) : Option Ty :=
  match tyOf c with
  | some t => if ok t then some t else none
  | none => none

def scopeCode : Scope → BitVec 3
  | .strand => 0 | .core => 1 | .cluster => 2 | .die => 3 | .package => 4 | .domain => 5 | .system => 6

def scopeOf (c : BitVec 3) : Option Scope :=
  match c.toNat with
  | 0 => some .strand | 1 => some .core | 2 => some .cluster | 3 => some .die | 4 => some .package
  | 5 => some .domain | 6 => some .system | _ => none

def ccCode : CC → BitVec 4
  | .eq => 0 | .ne => 1 | .lt => 2 | .ge => 3 | .le => 4 | .gt => 5 | .ltn => 6 | .gen => 7 | .len => 8 | .gtn => 9

def ccOf (c : BitVec 4) : Option CC :=
  match c.toNat with
  | 0 => some .eq | 1 => some .ne | 2 => some .lt | 3 => some .ge | 4 => some .le | 5 => some .gt | 6 => some .ltn
  | 7 => some .gen | 8 => some .len | 9 => some .gtn | _ => none

def vccCode : VCC → BitVec 4
  | .eq => 0 | .ne => 1 | .lt => 2 | .ge => 3 | .le => 4 | .gt => 5 | .un => 6 | .ord => 7

def vccOf (c : BitVec 4) : Option VCC :=
  match c.toNat with
  | 0 => some .eq | 1 => some .ne | 2 => some .lt | 3 => some .ge | 4 => some .le | 5 => some .gt | 6 => some .un
  | 7 => some .ord | _ => none

def aopCode : AOp → BitVec 4
  | .add => 0 | .fadd => 1 | .min => 2 | .max => 3 | .and => 4 | .or => 5 | .xor => 6 | .xchg => 7 | .cas => 8

def aopOf (c : BitVec 4) : Option AOp :=
  match c.toNat with
  | 0 => some .add | 1 => some .fadd | 2 => some .min | 3 => some .max | 4 => some .and | 5 => some .or
  | 6 => some .xor | 7 => some .xchg | 8 => some .cas | _ => none

def ordCode : Ord → BitVec 2
  | .none => 0 | .acq => 1 | .rel => 2

def ordOf (c : BitVec 2) : Option Ord :=
  match c.toNat with
  | 0 => some .none | 1 => some .acq | 2 => some .rel | _ => Option.none

def rndCode : Rnd → BitVec 3
  | .fmt => 0 | .rne => 1 | .rz => 2 | .ru => 3 | .rd => 4 | .sr => 5

def rndOf (c : BitVec 3) : Option Rnd :=
  match c.toNat with
  | 0 => some .fmt | 1 => some .rne | 2 => some .rz | 3 => some .ru | 4 => some .rd | 5 => some .sr | _ => none

def spaceCode : Space → BitVec 3
  | .sp => 0 | .gl => 1 | .cl => 2

def spaceOf (c : BitVec 3) : Option Space :=
  match c.toNat with
  | 0 => some .sp | 1 => some .gl | 2 => some .cl | _ => none

def sizeCode : Size → BitVec 3
  | .b1 => 0 | .b2 => 1 | .b4 => 2 | .b8 => 3 | .b16 => 4

def sizeOf' (c : BitVec 3) : Option Size :=
  match c.toNat with
  | 0 => some .b1 | 1 => some .b2 | 2 => some .b4 | 3 => some .b8 | 4 => some .b16 | _ => none

def redCode : RedOp → BitVec 4
  | .add => 0 | .adds => 1 | .min => 2 | .max => 3 | .and => 4 | .or => 5 | .xor => 6

def redOf (c : BitVec 4) : Option RedOp :=
  match c.toNat with
  | 0 => some .add | 1 => some .adds | 2 => some .min | 3 => some .max | 4 => some .and | 5 => some .or
  | 6 => some .xor | _ => none

def credCode : CRedOp → BitVec 4
  | .add => 0 | .adds => 1 | .min => 2 | .max => 3

def credOf (c : BitVec 4) : Option CRedOp :=
  match c.toNat with
  | 0 => some .add | 1 => some .adds | 2 => some .min | 3 => some .max | _ => none

def ropCode : ROp → BitVec 4
  | .add => 1 | .adds => 2 | .min => 3 | .max => 4

def ropOf (c : BitVec 4) : Option ROp :=
  match c.toNat with
  | 1 => some .add | 2 => some .adds | 3 => some .min | 4 => some .max | _ => none

def mulhCode : MulhKind → BitVec 4
  | .signed => 0 | .natural => 1 | .signedNatural => 2

def mulhOf (c : BitVec 4) : Option MulhKind :=
  match c.toNat with
  | 0 => some .signed | 1 => some .natural | 2 => some .signedNatural | _ => none

def b1 (b : Bool) : BitVec 1 := if b then 1 else 0

/-! The formats of R43 to R47. -/

/-- Format CB: BR, BR.cc, BRI, LOOP, CALL, CALLI (R43 to R47); `z` is reserved. -/
structure FmtCB where
  land : BitVec 1 := 0
  cc : BitVec 4 := 0
  a : BitVec 6 := 0
  b : BitVec 6 := 0
  w : BitVec 6 := 0
  z : BitVec 9 := 0
  tgt : BitVec 24 := 0
  deriving DecidableEq, Repr

/-- Fields of a slot word in format CB. -/
def unpackCB (w : Word) : FmtCB where
  land := w.extractLsb' 55 1
  cc := w.extractLsb' 51 4
  a := w.extractLsb' 45 6
  b := w.extractLsb' 39 6
  w := w.extractLsb' 33 6
  z := w.extractLsb' 24 9
  tgt := w.extractLsb' 0 24

/-- The slot word of a major opcode and fields in format CB. -/
def packCB (maj : BitVec 8) (f : FmtCB) : Word :=
  maj ++ f.land ++ f.cc ++ f.a ++ f.b ++ f.w ++ f.z ++ f.tgt

/-- Format CN: RET, YIELD, EXIT, ERET (and NOP, R49) (R43 to R47); `z` is reserved. -/
structure FmtCN where
  land : BitVec 1 := 0
  z : BitVec 55 := 0
  deriving DecidableEq, Repr

/-- Fields of a slot word in format CN. -/
def unpackCN (w : Word) : FmtCN where
  land := w.extractLsb' 55 1
  z := w.extractLsb' 0 55

/-- The slot word of a major opcode and fields in format CN. -/
def packCN (maj : BitVec 8) (f : FmtCN) : Word :=
  maj ++ f.land ++ f.z

/-- Format CW: WAIT (R43 to R47); `z` is reserved. -/
structure FmtCW where
  land : BitVec 1 := 0
  k0 : BitVec 6 := 0
  k1 : BitVec 6 := 0
  k2 : BitVec 6 := 0
  k3 : BitVec 6 := 0
  z : BitVec 31 := 0
  deriving DecidableEq, Repr

/-- Fields of a slot word in format CW. -/
def unpackCW (w : Word) : FmtCW where
  land := w.extractLsb' 55 1
  k0 := w.extractLsb' 49 6
  k1 := w.extractLsb' 43 6
  k2 := w.extractLsb' 37 6
  k3 := w.extractLsb' 31 6
  z := w.extractLsb' 0 31

/-- The slot word of a major opcode and fields in format CW. -/
def packCW (maj : BitVec 8) (f : FmtCW) : Word :=
  maj ++ f.land ++ f.k0 ++ f.k1 ++ f.k2 ++ f.k3 ++ f.z

/-- Format CS: barriers (R43 to R47); `z` is reserved. -/
structure FmtCS where
  land : BitVec 1 := 0
  b : BitVec 4 := 0
  z : BitVec 51 := 0
  deriving DecidableEq, Repr

/-- Fields of a slot word in format CS. -/
def unpackCS (w : Word) : FmtCS where
  land := w.extractLsb' 55 1
  b := w.extractLsb' 51 4
  z := w.extractLsb' 0 51

/-- The slot word of a major opcode and fields in format CS. -/
def packCS (maj : BitVec 8) (f : FmtCS) : Word :=
  maj ++ f.land ++ f.b ++ f.z

/-- Format CR: SETFMT, MFC, MTC (R43 to R47); `z` is reserved. -/
structure FmtCR where
  land : BitVec 1 := 0
  a : BitVec 6 := 0
  cr : BitVec 12 := 0
  z : BitVec 4 := 0
  i : BitVec 1 := 0
  imm : BitVec 32 := 0
  deriving DecidableEq, Repr

/-- Fields of a slot word in format CR. -/
def unpackCR (w : Word) : FmtCR where
  land := w.extractLsb' 55 1
  a := w.extractLsb' 49 6
  cr := w.extractLsb' 37 12
  z := w.extractLsb' 33 4
  i := w.extractLsb' 32 1
  imm := w.extractLsb' 0 32

/-- The slot word of a major opcode and fields in format CR. -/
def packCR (maj : BitVec 8) (f : FmtCR) : Word :=
  maj ++ f.land ++ f.a ++ f.cr ++ f.z ++ f.i ++ f.imm

/-- Format CK of RGN.BEGIN (R43 to R47); `z` is reserved. -/
structure FmtKB where
  land : BitVec 1 := 0
  rid : BitVec 8 := 0
  retry : BitVec 3 := 0
  abm : BitVec 3 := 0
  fs : BitVec 14 := 0
  z : BitVec 3 := 0
  tgt : BitVec 24 := 0
  deriving DecidableEq, Repr

/-- Fields of a slot word in format KB. -/
def unpackKB (w : Word) : FmtKB where
  land := w.extractLsb' 55 1
  rid := w.extractLsb' 47 8
  retry := w.extractLsb' 44 3
  abm := w.extractLsb' 41 3
  fs := w.extractLsb' 27 14
  z := w.extractLsb' 24 3
  tgt := w.extractLsb' 0 24

/-- The slot word of a major opcode and fields in format KB. -/
def packKB (maj : BitVec 8) (f : FmtKB) : Word :=
  maj ++ f.land ++ f.rid ++ f.retry ++ f.abm ++ f.fs ++ f.z ++ f.tgt

/-- Format CK of RGN.KEEP (R43 to R47); `z` is reserved. -/
structure FmtKK where
  land : BitVec 1 := 0
  kind : BitVec 3 := 0
  z : BitVec 4 := 0
  mask : BitVec 48 := 0
  deriving DecidableEq, Repr

/-- Fields of a slot word in format KK. -/
def unpackKK (w : Word) : FmtKK where
  land := w.extractLsb' 55 1
  kind := w.extractLsb' 52 3
  z := w.extractLsb' 48 4
  mask := w.extractLsb' 0 48

/-- The slot word of a major opcode and fields in format KK. -/
def packKK (maj : BitVec 8) (f : FmtKK) : Word :=
  maj ++ f.land ++ f.kind ++ f.z ++ f.mask

/-- Format CK of RGN.END (R43 to R47); `z` is reserved. -/
structure FmtKE where
  land : BitVec 1 := 0
  rid : BitVec 8 := 0
  c : BitVec 1 := 0
  z : BitVec 46 := 0
  deriving DecidableEq, Repr

/-- Fields of a slot word in format KE. -/
def unpackKE (w : Word) : FmtKE where
  land := w.extractLsb' 55 1
  rid := w.extractLsb' 47 8
  c := w.extractLsb' 46 1
  z := w.extractLsb' 0 46

/-- The slot word of a major opcode and fields in format KE. -/
def packKE (maj : BitVec 8) (f : FmtKE) : Word :=
  maj ++ f.land ++ f.rid ++ f.c ++ f.z

/-- Format CK of RGN.ABORT (R43 to R47); `z` is reserved. -/
structure FmtKA where
  land : BitVec 1 := 0
  z : BitVec 47 := 0
  code : BitVec 8 := 0
  deriving DecidableEq, Repr

/-- Fields of a slot word in format KA. -/
def unpackKA (w : Word) : FmtKA where
  land := w.extractLsb' 55 1
  z := w.extractLsb' 8 47
  code := w.extractLsb' 0 8

/-- The slot word of a major opcode and fields in format KA. -/
def packKA (maj : BitVec 8) (f : FmtKA) : Word :=
  maj ++ f.land ++ f.z ++ f.code

/-- Format CV: CHK, CHK.V (R43 to R47); `z` is reserved. -/
structure FmtCV where
  land : BitVec 1 := 0
  a : BitVec 6 := 0
  b : BitVec 6 := 0
  m : BitVec 3 := 0
  ty : BitVec 5 := 0
  z : BitVec 35 := 0
  deriving DecidableEq, Repr

/-- Fields of a slot word in format CV. -/
def unpackCV (w : Word) : FmtCV where
  land := w.extractLsb' 55 1
  a := w.extractLsb' 49 6
  b := w.extractLsb' 43 6
  m := w.extractLsb' 40 3
  ty := w.extractLsb' 35 5
  z := w.extractLsb' 0 35

/-- The slot word of a major opcode and fields in format CV. -/
def packCV (maj : BitVec 8) (f : FmtCV) : Word :=
  maj ++ f.land ++ f.a ++ f.b ++ f.m ++ f.ty ++ f.z

/-- Format CT: TRAP, DICT.LOAD (R43 to R47); `z` is reserved. -/
structure FmtCT where
  land : BitVec 1 := 0
  a : BitVec 6 := 0
  e0 : BitVec 12 := 0
  n : BitVec 12 := 0
  z : BitVec 9 := 0
  imm : BitVec 16 := 0
  deriving DecidableEq, Repr

/-- Fields of a slot word in format CT. -/
def unpackCT (w : Word) : FmtCT where
  land := w.extractLsb' 55 1
  a := w.extractLsb' 49 6
  e0 := w.extractLsb' 37 12
  n := w.extractLsb' 25 12
  z := w.extractLsb' 16 9
  imm := w.extractLsb' 0 16

/-- The slot word of a major opcode and fields in format CT. -/
def packCT (maj : BitVec 8) (f : FmtCT) : Word :=
  maj ++ f.land ++ f.a ++ f.e0 ++ f.n ++ f.z ++ f.imm

/-- Format XR (R43 to R47); `z` is reserved. -/
structure FmtXR where
  land : BitVec 1 := 0
  d : BitVec 6 := 0
  a : BitVec 6 := 0
  b : BitVec 6 := 0
  c : BitVec 6 := 0
  fn : BitVec 4 := 0
  z : BitVec 27 := 0
  deriving DecidableEq, Repr

/-- Fields of a slot word in format XR. -/
def unpackXR (w : Word) : FmtXR where
  land := w.extractLsb' 55 1
  d := w.extractLsb' 49 6
  a := w.extractLsb' 43 6
  b := w.extractLsb' 37 6
  c := w.extractLsb' 31 6
  fn := w.extractLsb' 27 4
  z := w.extractLsb' 0 27

/-- The slot word of a major opcode and fields in format XR. -/
def packXR (maj : BitVec 8) (f : FmtXR) : Word :=
  maj ++ f.land ++ f.d ++ f.a ++ f.b ++ f.c ++ f.fn ++ f.z

/-- Format XS (R43 to R47); `z` is reserved. -/
structure FmtXS where
  land : BitVec 1 := 0
  d : BitVec 6 := 0
  a : BitVec 6 := 0
  b : BitVec 6 := 0
  i : BitVec 1 := 0
  sh : BitVec 6 := 0
  w : BitVec 6 := 0
  z : BitVec 24 := 0
  deriving DecidableEq, Repr

/-- Fields of a slot word in format XS. -/
def unpackXS (w : Word) : FmtXS where
  land := w.extractLsb' 55 1
  d := w.extractLsb' 49 6
  a := w.extractLsb' 43 6
  b := w.extractLsb' 37 6
  i := w.extractLsb' 36 1
  sh := w.extractLsb' 30 6
  w := w.extractLsb' 24 6
  z := w.extractLsb' 0 24

/-- The slot word of a major opcode and fields in format XS. -/
def packXS (maj : BitVec 8) (f : FmtXS) : Word :=
  maj ++ f.land ++ f.d ++ f.a ++ f.b ++ f.i ++ f.sh ++ f.w ++ f.z

/-- Format XI (R43 to R47); `z` is reserved. -/
structure FmtXI where
  land : BitVec 1 := 0
  d : BitVec 6 := 0
  a : BitVec 6 := 0
  z : BitVec 11 := 0
  imm : BitVec 32 := 0
  deriving DecidableEq, Repr

/-- Fields of a slot word in format XI. -/
def unpackXI (w : Word) : FmtXI where
  land := w.extractLsb' 55 1
  d := w.extractLsb' 49 6
  a := w.extractLsb' 43 6
  z := w.extractLsb' 32 11
  imm := w.extractLsb' 0 32

/-- The slot word of a major opcode and fields in format XI. -/
def packXI (maj : BitVec 8) (f : FmtXI) : Word :=
  maj ++ f.land ++ f.d ++ f.a ++ f.z ++ f.imm

/-- Format XQ (R43 to R47); `z` is reserved. -/
structure FmtXQ where
  y : BitVec 1 := 0
  q : BitVec 5 := 0
  r : BitVec 6 := 0
  bm : BitVec 2 := 0
  z : BitVec 30 := 0
  pool : BitVec 12 := 0
  deriving DecidableEq, Repr

/-- Fields of a slot word in format XQ. -/
def unpackXQ (w : Word) : FmtXQ where
  y := w.extractLsb' 55 1
  q := w.extractLsb' 50 5
  r := w.extractLsb' 44 6
  bm := w.extractLsb' 42 2
  z := w.extractLsb' 12 30
  pool := w.extractLsb' 0 12

/-- The slot word of a major opcode and fields in format XQ. -/
def packXQ (maj : BitVec 8) (f : FmtXQ) : Word :=
  maj ++ f.y ++ f.q ++ f.r ++ f.bm ++ f.z ++ f.pool

/-- Format MS (R43 to R47); `z` is reserved. -/
structure FmtMS where
  t : BitVec 6 := 0
  a : BitVec 6 := 0
  c : BitVec 6 := 0
  cls : BitVec 4 := 0
  sc : BitVec 3 := 0
  as_ : BitVec 3 := 0
  sz : BitVec 3 := 0
  s : BitVec 1 := 0
  aop : BitVec 4 := 0
  ord : BitVec 2 := 0
  off : BitVec 18 := 0
  deriving DecidableEq, Repr

/-- Fields of a slot word in format MS. -/
def unpackMS (w : Word) : FmtMS where
  t := w.extractLsb' 50 6
  a := w.extractLsb' 44 6
  c := w.extractLsb' 38 6
  cls := w.extractLsb' 34 4
  sc := w.extractLsb' 31 3
  as_ := w.extractLsb' 28 3
  sz := w.extractLsb' 25 3
  s := w.extractLsb' 24 1
  aop := w.extractLsb' 20 4
  ord := w.extractLsb' 18 2
  off := w.extractLsb' 0 18

/-- The slot word of a major opcode and fields in format MS. -/
def packMS (maj : BitVec 8) (f : FmtMS) : Word :=
  maj ++ f.t ++ f.a ++ f.c ++ f.cls ++ f.sc ++ f.as_ ++ f.sz ++ f.s ++ f.aop ++ f.ord ++ f.off

/-- Format MV (R43 to R47); `z` is reserved. -/
structure FmtMV where
  v : BitVec 6 := 0
  q : BitVec 5 := 0
  m : BitVec 3 := 0
  cls : BitVec 4 := 0
  sc : BitVec 3 := 0
  ty : BitVec 5 := 0
  z : BitVec 30 := 0
  deriving DecidableEq, Repr

/-- Fields of a slot word in format MV. -/
def unpackMV (w : Word) : FmtMV where
  v := w.extractLsb' 50 6
  q := w.extractLsb' 45 5
  m := w.extractLsb' 42 3
  cls := w.extractLsb' 38 4
  sc := w.extractLsb' 35 3
  ty := w.extractLsb' 30 5
  z := w.extractLsb' 0 30

/-- The slot word of a major opcode and fields in format MV. -/
def packMV (maj : BitVec 8) (f : FmtMV) : Word :=
  maj ++ f.v ++ f.q ++ f.m ++ f.cls ++ f.sc ++ f.ty ++ f.z

/-- Format MF (R43 to R47); `z` is reserved. -/
structure FmtMF where
  mask : BitVec 16 := 0
  sc : BitVec 3 := 0
  z : BitVec 37 := 0
  deriving DecidableEq, Repr

/-- Fields of a slot word in format MF. -/
def unpackMF (w : Word) : FmtMF where
  mask := w.extractLsb' 40 16
  sc := w.extractLsb' 37 3
  z := w.extractLsb' 0 37

/-- The slot word of a major opcode and fields in format MF. -/
def packMF (maj : BitVec 8) (f : FmtMF) : Word :=
  maj ++ f.mask ++ f.sc ++ f.z

/-- Format MX (R43 to R47); `z` is reserved. -/
structure FmtMX where
  a : BitVec 6 := 0
  b : BitVec 6 := 0
  c : BitVec 6 := 0
  d : BitVec 6 := 0
  cls : BitVec 4 := 0
  sc : BitVec 3 := 0
  w : BitVec 3 := 0
  z : BitVec 22 := 0
  deriving DecidableEq, Repr

/-- Fields of a slot word in format MX. -/
def unpackMX (w : Word) : FmtMX where
  a := w.extractLsb' 50 6
  b := w.extractLsb' 44 6
  c := w.extractLsb' 38 6
  d := w.extractLsb' 32 6
  cls := w.extractLsb' 28 4
  sc := w.extractLsb' 25 3
  w := w.extractLsb' 22 3
  z := w.extractLsb' 0 22

/-- The slot word of a major opcode and fields in format MX. -/
def packMX (maj : BitVec 8) (f : FmtMX) : Word :=
  maj ++ f.a ++ f.b ++ f.c ++ f.d ++ f.cls ++ f.sc ++ f.w ++ f.z

/-- Format VR (R43 to R47); `z` is reserved. -/
structure FmtVR where
  d : BitVec 6 := 0
  a : BitVec 6 := 0
  b : BitVec 6 := 0
  c : BitVec 6 := 0
  m : BitVec 3 := 0
  ty : BitVec 5 := 0
  ty2 : BitVec 5 := 0
  rnd : BitVec 3 := 0
  fn : BitVec 4 := 0
  imm : BitVec 12 := 0
  deriving DecidableEq, Repr

/-- Fields of a slot word in format VR. -/
def unpackVR (w : Word) : FmtVR where
  d := w.extractLsb' 50 6
  a := w.extractLsb' 44 6
  b := w.extractLsb' 38 6
  c := w.extractLsb' 32 6
  m := w.extractLsb' 29 3
  ty := w.extractLsb' 24 5
  ty2 := w.extractLsb' 19 5
  rnd := w.extractLsb' 16 3
  fn := w.extractLsb' 12 4
  imm := w.extractLsb' 0 12

/-- The slot word of a major opcode and fields in format VR. -/
def packVR (maj : BitVec 8) (f : FmtVR) : Word :=
  maj ++ f.d ++ f.a ++ f.b ++ f.c ++ f.m ++ f.ty ++ f.ty2 ++ f.rnd ++ f.fn ++ f.imm

/-- Format EC (R43 to R47); `z` is reserved. -/
structure FmtEC where
  qd : BitVec 5 := 0
  qs : BitVec 5 := 0
  kp : BitVec 6 := 0
  ka : BitVec 6 := 0
  kb : BitVec 6 := 0
  kc : BitVec 6 := 0
  cls : BitVec 4 := 0
  sc : BitVec 3 := 0
  fn : BitVec 4 := 0
  ty : BitVec 5 := 0
  x : BitVec 6 := 0
  deriving DecidableEq, Repr

/-- Fields of a slot word in format EC. -/
def unpackEC (w : Word) : FmtEC where
  qd := w.extractLsb' 51 5
  qs := w.extractLsb' 46 5
  kp := w.extractLsb' 40 6
  ka := w.extractLsb' 34 6
  kb := w.extractLsb' 28 6
  kc := w.extractLsb' 22 6
  cls := w.extractLsb' 18 4
  sc := w.extractLsb' 15 3
  fn := w.extractLsb' 11 4
  ty := w.extractLsb' 6 5
  x := w.extractLsb' 0 6

/-- The slot word of a major opcode and fields in format EC. -/
def packEC (maj : BitVec 8) (f : FmtEC) : Word :=
  maj ++ f.qd ++ f.qs ++ f.kp ++ f.ka ++ f.kb ++ f.kc ++ f.cls ++ f.sc ++ f.fn ++ f.ty ++ f.x

/-- Format EK (R43 to R47); `z` is reserved. -/
structure FmtEK where
  y : BitVec 3 := 0
  qa : BitVec 5 := 0
  qb : BitVec 5 := 0
  kp : BitVec 6 := 0
  ka : BitVec 6 := 0
  kb : BitVec 6 := 0
  kc : BitVec 6 := 0
  cls : BitVec 4 := 0
  sc : BitVec 3 := 0
  tya : BitVec 5 := 0
  tyb : BitVec 5 := 0
  i : BitVec 1 := 0
  x : BitVec 1 := 0
  deriving DecidableEq, Repr

/-- Fields of a slot word in format EK. -/
def unpackEK (w : Word) : FmtEK where
  y := w.extractLsb' 53 3
  qa := w.extractLsb' 48 5
  qb := w.extractLsb' 43 5
  kp := w.extractLsb' 37 6
  ka := w.extractLsb' 31 6
  kb := w.extractLsb' 25 6
  kc := w.extractLsb' 19 6
  cls := w.extractLsb' 15 4
  sc := w.extractLsb' 12 3
  tya := w.extractLsb' 7 5
  tyb := w.extractLsb' 2 5
  i := w.extractLsb' 1 1
  x := w.extractLsb' 0 1

/-- The slot word of a major opcode and fields in format EK. -/
def packEK (maj : BitVec 8) (f : FmtEK) : Word :=
  maj ++ f.y ++ f.qa ++ f.qb ++ f.kp ++ f.ka ++ f.kb ++ f.kc ++ f.cls ++ f.sc ++ f.tya ++ f.tyb ++ f.i ++ f.x

/-- Format EH (R43 to R47); `z` is reserved. -/
structure FmtEH where
  n : BitVec 6 := 0
  q : BitVec 5 := 0
  kp : BitVec 6 := 0
  ka : BitVec 6 := 0
  kb : BitVec 6 := 0
  kc : BitVec 6 := 0
  cls : BitVec 4 := 0
  sc : BitVec 3 := 0
  fn : BitVec 4 := 0
  ty : BitVec 5 := 0
  z : BitVec 5 := 0
  deriving DecidableEq, Repr

/-- Fields of a slot word in format EH. -/
def unpackEH (w : Word) : FmtEH where
  n := w.extractLsb' 50 6
  q := w.extractLsb' 45 5
  kp := w.extractLsb' 39 6
  ka := w.extractLsb' 33 6
  kb := w.extractLsb' 27 6
  kc := w.extractLsb' 21 6
  cls := w.extractLsb' 17 4
  sc := w.extractLsb' 14 3
  fn := w.extractLsb' 10 4
  ty := w.extractLsb' 5 5
  z := w.extractLsb' 0 5

/-- The slot word of a major opcode and fields in format EH. -/
def packEH (maj : BitVec 8) (f : FmtEH) : Word :=
  maj ++ f.n ++ f.q ++ f.kp ++ f.ka ++ f.kb ++ f.kc ++ f.cls ++ f.sc ++ f.fn ++ f.ty ++ f.z

/-! Decoding. -/

/-- The answer of a check sequence: a reserved opcode value first, then a reserved field (R62). -/
def answer (opc fld : Bool) (i : Instr) : Except Reject Instr :=
  if !opc then .error .reservedOpcode else if !fld then .error .reservedField else .ok i

/-- A value that must decode, or the reserved-opcode answer. -/
def orOpc {α : Type} (o : Option α) (f : α → Except Reject Instr) : Except Reject Instr :=
  match o with
  | some a => f a
  | none => .error .reservedOpcode

/-- A value that must decode, or the reserved-field answer. -/
def orFld {α : Type} (o : Option α) (f : α → Except Reject Instr) : Except Reject Instr :=
  match o with
  | some a => f a
  | none => .error .reservedField

def toB (b : BitVec 1) : Bool := b == 1

/-- The attributes of an M-slot encoding (R41). -/
def mattr (cls : BitVec 4) (sc : BitVec 3) : Option MAttr := (scopeOf sc).map (fun s => { cls := cls, sc := s })

/-- An M3 operand in a 6-bit field (R186). -/
def m3 (f : BitVec 6) : Option MReg := if f.toNat < 8 then some (f.extractLsb' 0 3) else none

/-- Register or immediate by the I bit (R44, R88). -/
def rsh (f : FmtXS) : Option RegOrSh :=
  if toB f.i then (if f.b == 0 then some (.imm f.sh) else none) else (if f.sh == 0 then some (.reg f.b) else none)

def rimm (f : FmtCR) : Option RegOrImm :=
  if toB f.i then (if f.a == 0 then some (.imm f.imm) else none) else (if f.imm == 0 then some (.reg f.a) else none)

/-- The C-slot majors 0x01 to 0x2F (R50). `sys` is the system bit of the code segment's handle (R61). -/
def decodeC (sys : Bool) (maj : Nat) (w : Word) : Except Reject Instr :=
  let cb := unpackCB w
  let cn := unpackCN w
  let cr := unpackCR w
  let cv := unpackCV w
  let ct := unpackCT w
  match maj with
  | 0x01 => answer true (cb.cc == 0 && cb.a == 0 && cb.b == 0 && cb.w == 0 && cb.z == 0) (.br (toB cb.land) cb.tgt)
  | 0x02 => orOpc (ccOf cb.cc) fun cc => answer true (cb.w == 0 && cb.z == 0) (.brCc (toB cb.land) cc cb.a cb.b cb.tgt)
  | 0x03 => answer true (cb.cc == 0 && cb.b == 0 && cb.w == 0 && cb.z == 0 && cb.tgt == 0) (.bri (toB cb.land) cb.a)
  | 0x04 => answer true (cb.cc == 0 && cb.b == 0 && cb.w == 0 && cb.z == 0) (.loop (toB cb.land) cb.a cb.tgt)
  | 0x05 => answer true (cb.cc == 0 && cb.a == 0 && cb.b == 0 && cb.z == 0 && decide (1 ≤ cb.w.toNat ∧ cb.w.toNat ≤ 48))
      (.call (toB cb.land) cb.w cb.tgt)
  | 0x06 => answer true (cb.cc == 0 && cb.b == 0 && cb.z == 0 && cb.tgt == 0 && decide (1 ≤ cb.w.toNat ∧ cb.w.toNat ≤ 48))
      (.calli (toB cb.land) cb.a cb.w)
  | 0x07 => answer true (cn.z == 0) (.ret (toB cn.land))
  | 0x08 => let f := unpackCW w; answer true (f.z == 0) (.wait (toB f.land) f.k0 f.k1 f.k2 f.k3)
  | 0x09 => let f := unpackCS w; answer true (f.z == 0) (.barArrive (toB f.land) f.b)
  | 0x0A => let f := unpackCS w; answer true (f.z == 0) (.barWait (toB f.land) f.b)
  | 0x0B => let f := unpackCS w; answer true (f.z == 0) (.barSs (toB f.land) f.b)
  | 0x0C => answer true (cn.z == 0) (.yield (toB cn.land))
  | 0x0D => answer true (cn.z == 0) (.exit (toB cn.land))
  | 0x10 => orFld (rimm cr) fun src => answer true (cr.cr == 0 && cr.z == 0) (.setfmt (toB cr.land) src)
  | 0x11 => answer true (cr.i == 0 && cr.imm == 0 && cr.z == 0 && crKnown cr.cr.toNat) (.mfc (toB cr.land) cr.a cr.cr)
  | 0x12 => orFld (rimm cr) fun src => answer true (cr.z == 0 && crWritable cr.cr.toNat) (.mtc (toB cr.land) cr.cr src)
  | 0x18 => let f := unpackKB w; answer true (f.z == 0 && f.fs != 0) (.rgnBegin (toB f.land) f.rid f.retry f.abm f.fs f.tgt)
  | 0x19 =>
    let f := unpackKK w
    match f.kind.toNat with
    | 0 => answer true (f.z == 0 && f.mask.extractLsb' 16 32 == 0) (.rgnKeep (toB f.land) (.g (f.mask.extractLsb' 0 16)))
    | 1 => answer true (f.z == 0) (.rgnKeep (toB f.land) (.s f.mask))
    | 2 => answer true (f.z == 0 && f.mask.extractLsb' 32 16 == 0) (.rgnKeep (toB f.land) (.vlo (f.mask.extractLsb' 0 32)))
    | 3 => answer true (f.z == 0 && f.mask.extractLsb' 32 16 == 0) (.rgnKeep (toB f.land) (.vhi (f.mask.extractLsb' 0 32)))
    | 4 => answer true (f.z == 0 && f.mask.extractLsb' 8 40 == 0) (.rgnKeep (toB f.land) (.y (f.mask.extractLsb' 0 8)))
    | 5 => answer true (f.z == 0 && f.mask.extractLsb' 0 31 == 0)
        (.rgnKeep (toB f.land) (.p (f.mask.extractLsb' 43 5) (f.mask.extractLsb' 37 6) (f.mask.extractLsb' 31 6)))
    | _ => .error .reservedOpcode
  | 0x1A => let f := unpackKE w
    answer true (f.z == 0) (if toB f.c then .rgnEndC (toB f.land) f.rid else .rgnEnd (toB f.land) f.rid)
  | 0x1B => let f := unpackKA w; answer true (f.z == 0) (.rgnAbort (toB f.land) f.code)
  | 0x1C => answer true (cv.m == 0 && cv.ty == 0 && cv.z == 0) (.chk (toB cv.land) cv.a cv.b)
  | 0x1D => orOpc (tyIn Ty.isB4 cv.ty) fun ty => answer true (cv.z == 0) (.chkV (toB cv.land) cv.a cv.b cv.m ty)
  | 0x20 => answer true (ct.a == 0 && ct.e0 == 0 && ct.n == 0 && ct.z == 0) (.trap (toB ct.land) ct.imm)
  | 0x21 => if cn.z == 0 then (if sys then .ok (.eret (toB cn.land)) else .error .privOpcode) else .error .reservedField
  | 0x22 => if ct.z == 0 && ct.imm.extractLsb' 1 15 == 0
      then (if sys then .ok (.dictLoad (toB ct.land) ct.a ct.e0 ct.n (toB (ct.imm.extractLsb' 0 1))) else .error .privOpcode)
      else .error .reservedField
  | _ => .error .reservedOpcode

/-- LAND of a C/X operation: reserved in X (R44, R48). -/
def cxUnit (sl : Slot) (land : BitVec 1) : Option CxUnit :=
  if sl == .C then some (.inC (toB land)) else if land == 0 then some .inX else none

/-- The C-or-X majors 0x30 to 0x5F (R51, R175 to R178). -/
def decodeCX (sl : Slot) (maj : Nat) (w : Word) : Except Reject Instr :=
  let r := unpackXR w
  let s := unpackXS w
  let i := unpackXI w
  let fn := r.fn.toNat
  let r3 (mk : CxUnit → SReg → SReg → SReg → Instr) : Except Reject Instr :=
    orFld (cxUnit sl r.land) fun u => answer true (r.c == 0 && r.z == 0) (mk u r.d r.a r.b)
  let r3f (mk : CxUnit → SReg → SReg → SReg → Instr) : Except Reject Instr :=
    if fn == 0 then r3 mk else .error .reservedOpcode
  let r4 (mk : CxUnit → SReg → SReg → SReg → SReg → Instr) : Except Reject Instr :=
    if fn == 0 then orFld (cxUnit sl r.land) fun u => answer true (r.z == 0) (mk u r.d r.a r.b r.c)
    else .error .reservedOpcode
  let r2 (mk : CxUnit → SReg → SReg → Instr) : Except Reject Instr :=
    if fn == 0 then orFld (cxUnit sl r.land) fun u => answer true (r.b == 0 && r.c == 0 && r.z == 0) (mk u r.d r.a)
    else .error .reservedOpcode
  let rn (mk : CxUnit → Bool → SReg → SReg → SReg → Instr) : Except Reject Instr :=
    if fn == 0 then r3 (fun u => mk u false) else if fn == 1 then r3 (fun u => mk u true) else .error .reservedOpcode
  let sh (mk : CxUnit → SReg → SReg → RegOrSh → Instr) : Except Reject Instr :=
    orFld (cxUnit sl s.land) fun u => orFld (rsh s) fun p => answer true (s.w == 0 && s.z == 0) (mk u s.d s.a p)
  let bf (mk : CxUnit → SReg → SReg → RegOrSh → BitVec 6 → Instr) : Except Reject Instr :=
    orFld (cxUnit sl s.land) fun u => orFld (rsh s) fun p => answer true (s.z == 0 && p.fits s.w) (mk u s.d s.a p s.w)
  match maj with
  | 0x30 => r3f .add | 0x31 => r3f .sub
  | 0x32 => orFld (cxUnit sl i.land) fun u => answer true (i.z == 0) (.addi u i.d i.a i.imm)
  | 0x33 => r3f .mul
  | 0x34 => orOpc (mulhOf r.fn) fun k => r3 (fun u => .mulh u k)
  | 0x35 => rn .div | 0x36 => rn .rem | 0x37 => r4 .madd | 0x38 => r3f .and | 0x39 => r3f .or | 0x3A => r3f .xor
  | 0x3B => r3f .andn | 0x3C => sh .shl | 0x3D => sh .shr | 0x3E => sh .sar | 0x3F => sh .rot | 0x40 => r2 .clz
  | 0x41 => r2 .popc | 0x42 => rn .min | 0x43 => rn .max | 0x44 => r4 .sel
  | 0x45 => orOpc (ccOf r.fn) fun cc => r3 (fun u => .cmpCc u cc)
  | 0x46 => orFld (cxUnit sl i.land) fun u => answer true (i.a == 0 && i.z == 0) (.li u i.d i.imm)
  | 0x47 => orFld (cxUnit sl i.land) fun u => answer true (i.z == 0) (.lih u i.d i.a i.imm)
  | 0x48 => bf .bfx | 0x49 => bf .bfi
  | _ => .error .reservedOpcode

/-- The X-only majors 0x60 to 0x6F (R51, R129, R132). -/
def decodeX (maj : Nat) (w : Word) : Except Reject Instr :=
  let q := unpackXQ w
  match maj with
  | 0x60 =>
    match q.bm.toNat with
    | 0 => answer true (q.y == 0 && q.r == 0 && q.z == 0) (.qset q.q .none q.pool)
    | 1 => answer true (q.y == 0 && q.z == 0) (.qset q.q (.base q.r) q.pool)
    | 2 => answer true (q.y == 0 && q.z == 0) (.qset q.q (.origin q.r) q.pool)
    | _ => .error .reservedField
  | 0x61 => answer true (q.y == 0 && q.r == 0 && q.bm == 0 && q.z == 0 && q.pool == 0) (.qclr q.q)
  | 0x62 =>
    let r := unpackXR w
    if r.fn.toNat ≤ 1 then answer true (r.land == 0 && r.c == 0 && r.z == 0) (.symix (r.fn.toNat == 1) r.d r.a r.b)
    else .error .reservedOpcode
  | _ => .error .reservedOpcode

/-- The M majors 0x70 to 0x8F (R52, R131, R133, R137, R179 to R183, R208). -/
def decodeM (maj : Nat) (w : Word) : Except Reject Instr :=
  let s := unpackMS w
  let v := unpackMV w
  let x := unpackMX w
  let mv (vm : Bool) (mk : VReg → QReg → MReg → Ty → MAttr → Instr) : Except Reject Instr :=
    orOpc (tyIn Ty.isMV v.ty) fun ty => orFld (mattr v.cls v.sc) fun at_ =>
      answer true (v.z == 0 && (vm || (v.v == 0 && v.m == 0))) (mk v.v v.q v.m ty at_)
  match maj with
  | 0x70 => orFld (spaceOf s.as_) fun as_ => orFld (sizeOf' s.sz) fun sz => orFld (mattr s.cls s.sc) fun at_ =>
      answer true (s.c == 0 && s.aop == 0 && s.ord == 0 && wellFormedOp (.ld as_ sz (toB s.s) s.t s.a s.off at_))
        (.ld as_ sz (toB s.s) s.t s.a s.off at_)
  | 0x71 => orFld (spaceOf s.as_) fun as_ => orFld (sizeOf' s.sz) fun sz => orFld (mattr s.cls s.sc) fun at_ =>
      answer true (s.c == 0 && s.aop == 0 && s.ord == 0 && s.s == 0 && wellFormedOp (.st as_ sz s.t s.a s.off at_))
        (.st as_ sz s.t s.a s.off at_)
  | 0x72 => orOpc (aopOf s.aop) fun aop => orFld (spaceOf s.as_) fun as_ => orFld (sizeOf' s.sz) fun sz =>
      orFld (ordOf s.ord) fun ord => orFld (mattr s.cls s.sc) fun at_ =>
        answer true (wellFormedOp (.atom as_ sz aop ord (toB s.s) s.t s.a s.c s.off at_))
          (.atom as_ sz aop ord (toB s.s) s.t s.a s.c s.off at_)
  | 0x73 => let f := unpackMF w; orFld (scopeOf f.sc) fun sc => answer true (f.z == 0) (.fence f.mask sc)
  | 0x74 => orFld (spaceOf s.as_) fun as_ => orFld (mattr s.cls s.sc) fun at_ =>
      answer true (s.t.toNat < 32 && s.c == 0 && s.sz == 0 && s.s == 0 && s.aop == 0 && s.ord == 0)
        (.qld as_ (s.t.extractLsb' 0 5) s.a s.off at_)
  | 0x78 => mv true .ldv | 0x79 => mv true .stv | 0x7A => mv true .ldvT | 0x7B => mv true .stvT | 0x7C => mv true .vstPack
  | 0x7D => mv false (fun _ q _ ty at_ => .vpackEnd q ty at_)
  | 0x7E => mv true .vldExpand
  | 0x80 => orFld (mattr x.cls x.sc) fun at_ => answer true (x.d == 0 && x.z == 0) (.stashMap x.w x.a x.b x.c at_)
  | 0x81 => orFld (mattr x.cls x.sc) fun at_ =>
      answer true (x.a == 0 && x.b == 0 && x.c == 0 && x.d == 0 && x.z == 0) (.stashFlush x.w at_)
  | 0x82 => orFld (mattr x.cls x.sc) fun at_ =>
      answer true (x.a == 0 && x.b == 0 && x.c == 0 && x.d == 0 && x.z == 0) (.stashInv x.w at_)
  | 0x84 => orFld (mattr x.cls x.sc) fun at_ =>
      answer true (x.w.toNat < 2 && x.z == 0) (.leaseGet x.d x.a x.b x.c (x.w == 1) at_)
  | 0x85 => orFld (mattr x.cls x.sc) fun at_ =>
      answer true (x.b == 0 && x.c == 0 && x.d == 0 && x.w == 0 && x.z == 0) (.leaseFree x.a at_)
  | _ => .error .reservedOpcode

/-- The V majors 0x90 to 0xCF (R53, R184 to R206). A non-zero `fn`, `ty` or `ty2` of an instruction whose entry uses no such field gives
RESERVED_FIELD, a value that an entry does not list RESERVED_OPCODE: the model's choice between two readings of R61 and R186 (log 112). -/
def decodeV (u : VUnit) (maj : Nat) (w : Word) : Except Reject Instr :=
  let f := unpackVR w
  let z2 := f.ty2 == 0
  let zf := f.fn == 0
  let zi := f.imm == 0
  let zr := f.rnd == 0
  -- d, a, b and the mask; types by `ok`; no rounding
  let v3 (ok : Ty → Bool) (mk : VUnit → Ty → VReg → VReg → VReg → MReg → Instr) : Except Reject Instr :=
    orOpc (tyIn ok f.ty) fun ty => answer true (f.c == 0 && z2 && zf && zi && zr) (mk u ty f.d f.a f.b f.m)
  let v2 (ok : Ty → Bool) (mk : VUnit → Ty → VReg → VReg → MReg → Instr) : Except Reject Instr :=
    orOpc (tyIn ok f.ty) fun ty => answer true (f.b == 0 && f.c == 0 && z2 && zf && zi && zr) (mk u ty f.d f.a f.m)
  let v3r (mk : VUnit → Ty → Rnd → VReg → VReg → VReg → MReg → Instr) : Except Reject Instr :=
    orOpc (tyIn Ty.isF4 f.ty) fun ty => orFld (rndOf f.rnd) fun r =>
      answer true (f.c == 0 && z2 && zf && zi) (mk u ty r f.d f.a f.b f.m)
  let v2r (mk : VUnit → Ty → Rnd → VReg → VReg → MReg → Instr) : Except Reject Instr :=
    orOpc (tyIn Ty.isF3 f.ty) fun ty => orFld (rndOf f.rnd) fun r =>
      answer true (f.b == 0 && f.c == 0 && z2 && zf && zi) (mk u ty r f.d f.a f.m)
  let v4 (mk : VUnit → Ty → VReg → VReg → VReg → VReg → MReg → Instr) : Except Reject Instr :=
    orOpc (tyIn Ty.isI6 f.ty) fun ty => answer true (z2 && zf && zi && zr) (mk u ty f.d f.a f.b f.c f.m)
  let shift (mk : VUnit → Ty → VReg → VReg → VCount → MReg → Instr) : Except Reject Instr :=
    orOpc (tyIn Ty.isB4 f.ty) fun ty =>
      match f.fn.toNat with
      | 0 => answer true (f.c == 0 && z2 && zi && zr) (mk u ty f.d f.a (.reg f.b) f.m)
      | 1 => answer true (f.b == 0 && f.c == 0 && z2 && zr && f.imm.extractLsb' 7 5 == 0)
          (mk u ty f.d f.a (.imm (f.imm.extractLsb' 0 7)) f.m)
      | _ => .error .reservedOpcode
  let lane (ok : LaneSel → Except Reject Instr) : Except Reject Instr :=
    match f.fn.toNat with
    | 0 => if f.b == 0 then ok (.imm f.imm) else .error .reservedField
    | 1 => if zi then ok (.reg f.b) else .error .reservedField
    | _ => .error .reservedOpcode
  let half (ok : HalfRow → Except Reject Instr) : Except Reject Instr :=
    match f.fn.toNat with
    | 0 => if f.b == 0 && f.imm.extractLsb' 8 4 == 0 then ok (.imm (f.imm.extractLsb' 0 7) (f.imm.extractLsb' 7 1))
        else .error .reservedField
    | 1 => if zi then ok (.reg f.b) else .error .reservedField
    | _ => .error .reservedOpcode
  match maj with
  | 0x90 => v3r .fadd | 0x91 => v3r .fsub | 0x92 => v3r .fmul
  | 0x93 => orOpc (tyIn Ty.isF4 f.ty) fun ty => orFld (rndOf f.rnd) fun r =>
      answer true (z2 && zf && zi) (.fma u ty r f.d f.a f.b f.c f.m)
  | 0x94 => v3 Ty.isF4 .fmin | 0x95 => v3 Ty.isF4 .fmax | 0x96 => v2 Ty.isF4 .fabs | 0x97 => v2 Ty.isF4 .fneg
  | 0x98 => v2r .frcp | 0x99 => v2r .frsq | 0x9A => v2r .fexp2 | 0x9B => v2r .flog2
  | 0x9C => orOpc (vccOf f.fn) fun cc => orOpc (tyIn Ty.isF4 f.ty) fun ty => orFld (m3 f.d) fun d =>
      answer true (f.c == 0 && z2 && zi && zr) (.fcmp u cc ty d f.a f.b f.m)
  | 0xA0 =>
    let p := f.imm.extractLsb' 0 4
    let zp := f.imm.extractLsb' 4 8 == 0
    if 2 < f.fn.toNat then .error .reservedOpcode else
    orOpc (tyIn Ty.isCvtD f.ty) fun td => orOpc (tyIn Ty.isCvtS f.ty2) fun ts => orFld (rndOf f.rnd) fun r =>
      match f.fn.toNat with
      | 0 => answer true (f.b == 0 && f.c == 0 && zp && wellFormedOp (.cvt u td ts r f.d f.a f.m p)) (.cvt u td ts r f.d f.a f.m p)
      | 1 => answer true (f.b == 0 && zp && wellFormedOp (.cvtQ u td ts r f.d f.c f.a f.m p)) (.cvtQ u td ts r f.d f.c f.a f.m p)
      | _ => answer true (f.c == 0 && zp && wellFormedOp (.cvtDq u td ts r f.d f.a f.b f.m p)) (.cvtDq u td ts r f.d f.a f.b f.m p)
  | 0xA4 => v3 Ty.isI6 .iadd | 0xA5 => v3 Ty.isI6 .isub | 0xA6 => v3 Ty.isI6 .imul | 0xA7 => v4 .imad
  | 0xA8 => v3 Ty.isI6 .iaddSat | 0xA9 => v3 Ty.isI6 .isubSat
  | 0xAA => orOpc (tyIn Ty.isI8 f.ty) fun ta => orOpc (tyIn Ty.isI8 f.ty2) fun tb =>
      answer true (f.c == 0 && zf && zr && f.imm.extractLsb' 2 10 == 0) (.vmacI8 u ta tb f.d f.a f.b f.m (f.imm.extractLsb' 0 2))
  | 0xAB => orOpc (tyIn Ty.isI8 f.ty) fun ta => orOpc (tyIn Ty.isI8 f.ty2) fun tb =>
      answer true (f.c == 0 && zf && zr && zi) (.vdot4I8 u ta tb f.d f.a f.b f.m)
  | 0xAC => orOpc (tyIn Ty.isI6 f.ty) fun ty =>
      if f.ty2 == tyCode .s32 then
        answer true (f.c == 0 && zf && zr && f.imm.extractLsb' 7 5 == 0 && decide ((f.imm.extractLsb' 5 2).toNat < 32 / ty.bits))
          (.vrshr u ty f.d f.a f.b f.m (f.imm.extractLsb' 0 5) (f.imm.extractLsb' 5 2))
      else .error .reservedOpcode
  | 0xB0 => v3 Ty.isB4 .vand | 0xB1 => v3 Ty.isB4 .vor | 0xB2 => v3 Ty.isB4 .vxor | 0xB3 => v3 Ty.isB4 .vandn
  | 0xB4 => shift .vshl | 0xB5 => shift .vshr | 0xB6 => shift .vsar
  | 0xB8 => if f.fn.toNat ≤ 1 then orOpc (tyIn Ty.isB4 f.ty) fun ty =>
        answer true ((ty != .b8 || f.c == 0) && z2 && zi && zr) (.vperm u (f.fn == 1) ty f.d f.a f.b f.c f.m)
      else .error .reservedOpcode
  | 0xB9 => orOpc (tyIn Ty.isB4 f.ty) fun ty =>
      match f.fn.toNat with
      | 0 => answer true (f.b == 0 && f.c == 0 && z2 && zr && decide (f.imm.toNat < ty.lanes)) (.vbcast u ty f.d (.lane f.a f.imm) f.m)
      | 1 => answer true (f.b == 0 && f.c == 0 && z2 && zr && zi) (.vbcast u ty f.d (.scalar f.a) f.m)
      | _ => .error .reservedOpcode
  | 0xBA => v3 Ty.isB4 .vsel
  | 0xBC => orOpc (redOf f.fn) fun op => orOpc (tyIn op.tyOk f.ty) fun ty => orFld (rndOf f.rnd) fun r =>
      answer true (f.b == 0 && f.c == 0 && z2 && zi && (op.rounds ty || r == .fmt)) (.vred u op ty r f.d f.a f.m)
  | 0xBD => orOpc (redOf f.fn) fun op => orOpc (tyIn op.tyOk f.ty) fun ty => orFld (rndOf f.rnd) fun r =>
      answer true (f.b == 0 && f.c == 0 && z2 && f.imm.extractLsb' 1 11 == 0 && (op.rounds ty || r == .fmt))
        (.vscan u op (toB (f.imm.extractLsb' 0 1)) ty r f.d f.a f.m)
  | 0xBE => orOpc (vccOf f.fn) fun cc => if cc == .un || cc == .ord then .error .reservedOpcode else
      orOpc (tyIn (fun t => t.isI6 || t.isB4) f.ty) fun ty => orFld (m3 f.d) fun d =>
        answer true (f.c == 0 && z2 && zi && zr) (.vcmp u cc ty d f.a f.b f.m)
  | 0xC0 => orFld (m3 f.d) fun d => orFld (m3 f.a) fun a => orFld (m3 f.b) fun b =>
      answer true (f.c == 0 && f.m == 0 && f.ty == 0 && z2 && zr && zf && zi) (.mand u d a b)
  | 0xC1 => orFld (m3 f.d) fun d => orFld (m3 f.a) fun a => orFld (m3 f.b) fun b =>
      answer true (f.c == 0 && f.m == 0 && f.ty == 0 && z2 && zr && zf && zi) (.mor u d a b)
  | 0xC2 => orFld (m3 f.d) fun d => orFld (m3 f.a) fun a =>
      answer true (f.b == 0 && f.c == 0 && f.m == 0 && f.ty == 0 && z2 && zr && zf && zi) (.mnot u d a)
  | 0xC3 => orOpc (tyIn Ty.isB4 f.ty) fun ty => orFld (m3 f.a) fun a =>
      answer true (f.b == 0 && f.c == 0 && f.m == 0 && z2 && zr && zf && zi) (.mpopc u ty f.d a)
  | 0xC4 => orOpc (tyIn Ty.isW8 f.ty) fun ty => lane fun l =>
      answer true (f.c == 0 && f.m == 0 && z2 && zr && l.ok ty) (.vmovS u ty f.d f.a l)
  | 0xC5 => orOpc (tyIn Ty.isW8 f.ty) fun ty => lane fun l =>
      answer true (f.c == 0 && f.m == 0 && z2 && zr && l.ok ty) (.vmovV u ty f.d f.a l)
  | 0xC6 => orOpc (tyIn Ty.isB4 f.ty) fun ty =>
      answer true (f.a == 0 && f.b == 0 && f.c == 0 && z2 && zr && zf) (.vrand u ty f.d f.m f.imm)
  | 0xC8 => orOpc (tyIn Ty.is32 f.ty) fun ty => half fun h => orFld (m3 f.a) fun y =>
      answer true (f.c == 0 && z2 && zr) (.accRd u ty f.d y h f.m)
  | 0xC9 => orOpc (tyIn Ty.is32 f.ty) fun ty => half fun h => orFld (m3 f.d) fun y =>
      answer true (f.c == 0 && z2 && zr) (.accWr u ty y f.a h f.m)
  | _ => .error .reservedOpcode

/-- Tokens, class and scope of an E-slot encoding (R47). -/
def eattr (kp ka kb kc : BitVec 6) (cls : BitVec 4) (sc : BitVec 3) : Option EAttr :=
  (scopeOf sc).map (fun s => { kp := kp, ka := ka, kb := kb, kc := kc, cls := cls, sc := s })

/-- The E majors 0xD0 to 0xFE (R54). A non-zero `fn`, `ty` or `ty2` of an instruction whose entry uses no such field gives RESERVED_FIELD
(log 112). -/
def decodeE (maj : Nat) (w : Word) : Except Reject Instr :=
  let c := unpackEC w
  let k := unpackEK w
  let h := unpackEH w
  let ec (f : EAttr → Except Reject Instr) := orFld (eattr c.kp c.ka c.kb c.kc c.cls c.sc) f
  let ek (f : EAttr → Except Reject Instr) := orFld (eattr k.kp k.ka k.kb k.kc k.cls k.sc) f
  let eh (f : EAttr → Except Reject Instr) := orFld (eattr h.kp h.ka h.kb h.kc h.cls h.sc) f
  let i := toB k.i
  let x := toB k.x
  match maj with
  | 0xD0 => ec fun e => answer true (c.fn == 0 && c.ty == 0 && c.x == 0) (.cpy c.qd c.qs e)
  | 0xD1 => ec fun e => answer true (c.fn == 0 && c.ty == 0 && c.x == 0) (.cpyL c.qd c.qs e)
  | 0xD2 => orOpc (credOf c.fn) fun op => orOpc (tyIn op.tyOk c.ty) fun ty => ec fun e =>
      answer true (c.x == 0) (.cpyRed op ty c.qd c.qs e)
  | 0xD3 => ec fun e => answer true (c.ty == 0) (.trig c.x c.fn c.qd c.qs e)
  | 0xD4 => answer true (c.qd == 0 && c.qs == 0 && c.cls == 0 && c.sc == 0 && c.fn == 0 && c.ty == 0 && c.x == 0)
      (.tokClr c.kp c.ka c.kb c.kc)
  | 0xD8 => ek fun e => answer true (!x) (.mma i k.tya k.tyb k.y k.qa k.qb e)
  | 0xD9 => ek fun e => .ok (.mmaG x i k.tya k.tyb k.y k.qa k.qb e)
  | 0xDA => ek fun e => answer true (!x) (.mmaW i k.tya k.tyb k.y k.qa k.qb e)
  | 0xDB => ek fun e => answer true (!i && !x) (.tgemm k.tya k.tyb k.y k.qa k.qb e)
  | 0xDC => ek fun e => answer true (!x) (.tcon i k.tya k.tyb k.y k.qa k.qb e)
  | 0xDD => ek fun e => .ok (.drain i x k.tya k.tyb k.qa k.y k.qb e)
  | 0xDE => ek fun e => answer true (!i && !x && k.qa == 0 && k.qb == 0 && k.tya == 0 && k.tyb == 0) (.accZero k.y e)
  | 0xE0 => if c.fn.toNat ≤ 1 then orOpc (tyIn Ty.isW8 c.ty) fun ty => ec fun e =>
        answer true (c.x.toNat < 32) (.gath (c.fn == 1) ty c.qd c.qs (c.x.extractLsb' 0 5) e)
      else .error .reservedOpcode
  | 0xE1 => if c.fn.toNat ≤ 3 then
        orOpc (tyIn (fun t => t.isW8 && (!(c.fn.getLsbD 0) || t.is32)) c.ty) fun ty => ec fun e =>
          answer true (c.x.toNat < 32) (.scat (c.fn.getLsbD 0) (c.fn.getLsbD 1) ty c.qd c.qs (c.x.extractLsb' 0 5) e)
      else .error .reservedOpcode
  | 0xE8 => eh fun e => answer true (h.fn == 0 && h.ty == 0 && h.z == 0) (.chSend h.n h.q e)
  | 0xE9 =>
    match h.fn.toNat with
    | 0 => eh fun e => answer true (h.ty == 0 && h.z == 0) (.chRecv h.n h.q e)
    | 1 => eh fun e => answer true (h.ty == 0 && h.z == 0 && h.q == 0) (.chRecvRel h.n e)
    | _ => .error .reservedOpcode
  | 0xEA => orOpc (ropOf h.fn) fun op => orOpc (tyOf h.ty) fun ty => eh fun e =>
      answer true (h.z == 0) (.chRed op ty h.n h.q e)
  | 0xEB => eh fun e => answer true (h.fn == 0 && h.ty == 0 && h.z == 0) (.chFwd h.n h.q e)
  | 0xEC => eh fun e => answer true (h.fn == 0 && h.ty == 0 && h.z == 0) (.chStat h.n h.q e)
  | _ => .error .reservedOpcode

/-- Decodes the word of a slot (R62, step 2). `sys`: the code segment's handle carries the system bit. -/
def decodeSlot (sys : Bool) (sl : Slot) (w : Word) : Except Reject Instr :=
  let maj := (w.extractLsb' 56 8).toNat
  if maj == 0 then
    if sl == .C then (let f := unpackCN w; answer true (f.z == 0) (.nop sl (toB f.land)))
    else answer true (w == 0) (.nop sl false)
  else if maj == 0xFF then .error .reservedOpcode
  else if maj < 0x30 then (if sl == .C then decodeC sys maj w else .error .illegalSlot)
  else if maj < 0x60 then (if sl == .C || sl == .X then decodeCX sl maj w else .error .illegalSlot)
  else if maj < 0x70 then (if sl == .X then decodeX maj w else .error .illegalSlot)
  else if maj < 0x90 then (if sl == .M then decodeM maj w else .error .illegalSlot)
  else if maj < 0xD0 then
    (match sl with
     | .V0 => decodeV .v0 maj w
     | .V1 => decodeV .v1 maj w
     | _ => .error .illegalSlot)
  else (if sl == .E then decodeE maj w else .error .illegalSlot)

/-- The slots in their order (R36). -/
def slots : List Slot := [.C, .X, .M, .V0, .V1, .E]

/-- The number of a slot (R36). -/
def Slot.num : Slot → Nat
  | .C => 0 | .X => 1 | .M => 2 | .V0 => 3 | .V1 => 4 | .E => 5

/-- The slot word of a bundle (R36). -/
def slotWord (b : Bundle) (sl : Slot) : Word := b.extractLsb' (64 * sl.num) 64

/-- Decodes a bundle: the first slot that fails decides (R62). -/
def decodeSlots (sys : Bool) (b : Bundle) : List Slot → Except (Reject × Slot) (List Instr)
  | [] => .ok []
  | sl :: r =>
    match decodeSlot sys sl (slotWord b sl) with
    | .error e => .error (e, sl)
    | .ok i =>
      match decodeSlots sys b r with
      | .error e => .error e
      | .ok l => .ok (i :: l)

/-- Decodes a bundle of six slots. -/
def decodeBundle (sys : Bool) (b : Bundle) : Except (Reject × Slot) (List Instr) := decodeSlots sys b slots

/-- Whether a bundle carries LAND (R60). -/
def bundleLand (b : Bundle) : Bool := (slotWord b .C).getLsbD 55

/-- A natural slot of a major opcode, for a word given without its slot (R50 to R54). -/
def homeSlot (maj : Nat) : Slot :=
  if maj < 0x60 then .C else if maj < 0x70 then .X else if maj < 0x90 then .M else if maj < 0xD0 then .V0 else .E

/-- The instruction of a table word: one slot word (64 bits), or a bundle of which one slot is not NOP (384 bits). -/
def decodeTableWord (nbits w : Nat) : Option Instr :=
  if nbits ≤ 64 then
    match decodeSlot true (homeSlot (w >>> 56 % 256)) (BitVec.ofNat 64 w) with
    | .ok i => some i
    | .error _ => none
  else
    match decodeBundle true (BitVec.ofNat 384 w) with
    | .error _ => none
    | .ok l =>
      match l.filter (fun i => match i with | .nop _ false => false | _ => true) with
      | [] => some (.nop .C false)
      | [i] => some i
      | _ => none

/-! The encoder. -/

/-- Slot and LAND bit of a C-or-X operation. -/
def CxUnit.slot : CxUnit → Slot
  | .inC _ => .C
  | .inX => .X

def CxUnit.land : CxUnit → BitVec 1
  | .inC l => b1 l
  | .inX => 0

def VUnit.slot : VUnit → Slot
  | .v0 => .V0
  | .v1 => .V1

def encR3 (maj : BitVec 8) (fn : BitVec 4) (u : CxUnit) (d a b c : SReg) : Slot × Word :=
  (u.slot, packXR maj { land := u.land, d := d, a := a, b := b, c := c, fn := fn })

def encXS (maj : BitVec 8) (u : CxUnit) (d a : SReg) (p : RegOrSh) (w : BitVec 6) : Slot × Word :=
  match p with
  | .reg b => (u.slot, packXS maj { land := u.land, d := d, a := a, b := b, w := w })
  | .imm sh => (u.slot, packXS maj { land := u.land, d := d, a := a, i := 1, sh := sh, w := w })

def encMV (maj : BitVec 8) (v : VReg) (q : QReg) (m : MReg) (ty : Ty) (at_ : MAttr) : Slot × Word :=
  (.M, packMV maj { v := v, q := q, m := m, cls := at_.cls, sc := scopeCode at_.sc, ty := tyCode ty })

def encVR (maj : BitVec 8) (u : VUnit) (f : FmtVR) : Slot × Word := (u.slot, packVR maj f)

def encEC (maj : BitVec 8) (e : EAttr) (qd qs : QReg) (fn : BitVec 4) (ty : BitVec 5) (x : BitVec 6) : Slot × Word :=
  (.E, packEC maj { qd := qd, qs := qs, kp := e.kp, ka := e.ka, kb := e.kb, kc := e.kc, cls := e.cls, sc := scopeCode e.sc, fn := fn, ty := ty, x := x })

def encEK (maj : BitVec 8) (e : EAttr) (y : YReg) (qa qb : QReg) (tya tyb : BitVec 5) (i x : Bool) : Slot × Word :=
  (.E, packEK maj { y := y, qa := qa, qb := qb, kp := e.kp, ka := e.ka, kb := e.kb, kc := e.kc, cls := e.cls, sc := scopeCode e.sc, tya := tya, tyb := tyb, i := b1 i, x := b1 x })

def encEH (maj : BitVec 8) (e : EAttr) (n : NReg) (q : QReg) (fn : BitVec 4) (ty : BitVec 5) : Slot × Word :=
  (.E, packEH maj { n := n, q := q, kp := e.kp, ka := e.ka, kb := e.kb, kc := e.kc, cls := e.cls, sc := scopeCode e.sc, fn := fn, ty := ty })

def encCR (maj : BitVec 8) (land : Bool) (cr : BitVec 12) (src : RegOrImm) : Slot × Word :=
  match src with
  | .reg a => (.C, packCR maj { land := b1 land, a := a, cr := cr })
  | .imm v => (.C, packCR maj { land := b1 land, cr := cr, i := 1, imm := v })

/-- The mask field of RGN.KEEP (R43). -/
def keepMask : Keep → BitVec 3 × BitVec 48
  | .g m => (0, (0#32) ++ m)
  | .s m => (1, m)
  | .vlo m => (2, (0#16) ++ m)
  | .vhi m => (3, (0#16) ++ m)
  | .y m => (4, (0#40) ++ m)
  | .p q kp ka => (5, q ++ kp ++ ka ++ (0#31))

def encShift (maj : BitVec 8) (u : VUnit) (ty : Ty) (d a : VReg) (n : VCount) (m : MReg) : Slot × Word :=
  match n with
  | .reg b => encVR maj u { d := d, a := a, b := b, m := m, ty := tyCode ty }
  | .imm k => encVR maj u { d := d, a := a, m := m, ty := tyCode ty, fn := 1, imm := (0#5) ++ k }

def encLane (maj : BitVec 8) (u : VUnit) (ty : Ty) (d a : BitVec 6) (l : LaneSel) : Slot × Word :=
  match l with
  | .imm i => encVR maj u { d := d, a := a, ty := tyCode ty, imm := i }
  | .reg b => encVR maj u { d := d, a := a, b := b, ty := tyCode ty, fn := 1 }

def encHalf (maj : BitVec 8) (u : VUnit) (ty : Ty) (d a : BitVec 6) (h : HalfRow) (m : MReg) : Slot × Word :=
  match h with
  | .imm r k => encVR maj u { d := d, a := a, m := m, ty := tyCode ty, imm := (0#4) ++ k ++ r }
  | .reg b => encVR maj u { d := d, a := a, b := b, m := m, ty := tyCode ty, fn := 1 }

def ext6 (m : BitVec 3) : BitVec 6 := (0#3) ++ m

/-- The slot and slot word of a slot operation (R43 to R54); an event or an idle bundle has none. -/
def encode (i : Instr) : Option (Slot × Word) :=
  let v3 (maj : BitVec 8) (u : VUnit) (ty : Ty) (r : Rnd) (d a b c : BitVec 6) (m : MReg) : Slot × Word :=
    encVR maj u { d := d, a := a, b := b, c := c, m := m, ty := tyCode ty, rnd := rndCode r }
  match i with
  | .nop sl land => some (sl, if sl == .C then packCN 0x00 { land := b1 land } else 0)
  | .br l t => some (.C, packCB 0x01 { land := b1 l, tgt := t })
  | .brCc l cc a b t => some (.C, packCB 0x02 { land := b1 l, cc := ccCode cc, a := a, b := b, tgt := t })
  | .bri l a => some (.C, packCB 0x03 { land := b1 l, a := a })
  | .loop l a t => some (.C, packCB 0x04 { land := b1 l, a := a, tgt := t })
  | .call l w t => some (.C, packCB 0x05 { land := b1 l, w := w, tgt := t })
  | .calli l a w => some (.C, packCB 0x06 { land := b1 l, a := a, w := w })
  | .ret l => some (.C, packCN 0x07 { land := b1 l })
  | .wait l k0 k1 k2 k3 => some (.C, packCW 0x08 { land := b1 l, k0 := k0, k1 := k1, k2 := k2, k3 := k3 })
  | .barArrive l b => some (.C, packCS 0x09 { land := b1 l, b := b })
  | .barWait l b => some (.C, packCS 0x0A { land := b1 l, b := b })
  | .barSs l b => some (.C, packCS 0x0B { land := b1 l, b := b })
  | .yield l => some (.C, packCN 0x0C { land := b1 l })
  | .exit l => some (.C, packCN 0x0D { land := b1 l })
  | .setfmt l src => some (encCR 0x10 l 0 src)
  | .mfc l a cr => some (.C, packCR 0x11 { land := b1 l, a := a, cr := cr })
  | .mtc l cr src => some (encCR 0x12 l cr src)
  | .rgnBegin l rid retry abm fs tgt =>
    some (.C, packKB 0x18 { land := b1 l, rid := rid, retry := retry, abm := abm, fs := fs, tgt := tgt })
  | .rgnKeep l k => some (.C, packKK 0x19 { land := b1 l, kind := (keepMask k).1, mask := (keepMask k).2 })
  | .rgnEnd l rid => some (.C, packKE 0x1A { land := b1 l, rid := rid })
  | .rgnEndC l rid => some (.C, packKE 0x1A { land := b1 l, rid := rid, c := 1 })
  | .rgnAbort l code => some (.C, packKA 0x1B { land := b1 l, code := code })
  | .chk l a b => some (.C, packCV 0x1C { land := b1 l, a := a, b := b })
  | .chkV l a b m ty => some (.C, packCV 0x1D { land := b1 l, a := a, b := b, m := m, ty := tyCode ty })
  | .trap l imm => some (.C, packCT 0x20 { land := b1 l, imm := imm })
  | .eret l => some (.C, packCN 0x21 { land := b1 l })
  | .dictLoad l a e0 n clr => some (.C, packCT 0x22 { land := b1 l, a := a, e0 := e0, n := n, imm := (0#15) ++ b1 clr })
  | .add u d a b => some (encR3 0x30 0 u d a b 0)
  | .sub u d a b => some (encR3 0x31 0 u d a b 0)
  | .addi u d a imm => some (u.slot, packXI 0x32 { land := u.land, d := d, a := a, imm := imm })
  | .mul u d a b => some (encR3 0x33 0 u d a b 0)
  | .mulh u k d a b => some (encR3 0x34 (mulhCode k) u d a b 0)
  | .div u n d a b => some (encR3 0x35 (if n then 1 else 0) u d a b 0)
  | .rem u n d a b => some (encR3 0x36 (if n then 1 else 0) u d a b 0)
  | .madd u d a b c => some (encR3 0x37 0 u d a b c)
  | .and u d a b => some (encR3 0x38 0 u d a b 0)
  | .or u d a b => some (encR3 0x39 0 u d a b 0)
  | .xor u d a b => some (encR3 0x3A 0 u d a b 0)
  | .andn u d a b => some (encR3 0x3B 0 u d a b 0)
  | .shl u d a p => some (encXS 0x3C u d a p 0)
  | .shr u d a p => some (encXS 0x3D u d a p 0)
  | .sar u d a p => some (encXS 0x3E u d a p 0)
  | .rot u d a p => some (encXS 0x3F u d a p 0)
  | .clz u d a => some (encR3 0x40 0 u d a 0 0)
  | .popc u d a => some (encR3 0x41 0 u d a 0 0)
  | .min u n d a b => some (encR3 0x42 (if n then 1 else 0) u d a b 0)
  | .max u n d a b => some (encR3 0x43 (if n then 1 else 0) u d a b 0)
  | .sel u d a b c => some (encR3 0x44 0 u d a b c)
  | .cmpCc u cc d a b => some (encR3 0x45 (ccCode cc) u d a b 0)
  | .li u d imm => some (u.slot, packXI 0x46 { land := u.land, d := d, imm := imm })
  | .lih u d a imm => some (u.slot, packXI 0x47 { land := u.land, d := d, a := a, imm := imm })
  | .bfx u d a p w => some (encXS 0x48 u d a p w)
  | .bfi u d a p w => some (encXS 0x49 u d a p w)
  | .qset q bm pool =>
    some (.X, match bm with
      | .none => packXQ 0x60 { q := q, pool := pool }
      | .base r => packXQ 0x60 { q := q, r := r, bm := 1, pool := pool }
      | .origin r => packXQ 0x60 { q := q, r := r, bm := 2, pool := pool })
  | .qclr q => some (.X, packXQ 0x61 { q := q })
  | .symix mu d a b => some (.X, packXR 0x62 { d := d, a := a, b := b, fn := if mu then 1 else 0 })
  | .ld as_ sz sgn t a off at_ => some (.M, packMS 0x70 { t := t, a := a, cls := at_.cls, sc := scopeCode at_.sc, as_ := spaceCode as_, sz := sizeCode sz, s := b1 sgn, off := off })
  | .st as_ sz t a off at_ => some (.M, packMS 0x71 { t := t, a := a, cls := at_.cls, sc := scopeCode at_.sc, as_ := spaceCode as_, sz := sizeCode sz, off := off })
  | .atom as_ sz aop ord sgn t a c off at_ => some (.M, packMS 0x72 { t := t, a := a, c := c, cls := at_.cls, sc := scopeCode at_.sc, as_ := spaceCode as_, sz := sizeCode sz, s := b1 sgn, aop := aopCode aop, ord := ordCode ord, off := off })
  | .fence mask sc => some (.M, packMF 0x73 { mask := mask, sc := scopeCode sc })
  | .qld as_ q a off at_ => some (.M, packMS 0x74 { t := (0#1) ++ q, a := a, cls := at_.cls, sc := scopeCode at_.sc, as_ := spaceCode as_, off := off })
  | .ldv v q m ty at_ => some (encMV 0x78 v q m ty at_)
  | .stv v q m ty at_ => some (encMV 0x79 v q m ty at_)
  | .ldvT v q m ty at_ => some (encMV 0x7A v q m ty at_)
  | .stvT v q m ty at_ => some (encMV 0x7B v q m ty at_)
  | .vstPack v q m ty at_ => some (encMV 0x7C v q m ty at_)
  | .vpackEnd q ty at_ => some (encMV 0x7D 0 q 0 ty at_)
  | .vldExpand v q m ty at_ => some (encMV 0x7E v q m ty at_)
  | .stashMap w a b c at_ => some (.M, packMX 0x80 { a := a, b := b, c := c, cls := at_.cls, sc := scopeCode at_.sc, w := w })
  | .stashFlush w at_ => some (.M, packMX 0x81 { cls := at_.cls, sc := scopeCode at_.sc, w := w })
  | .stashInv w at_ => some (.M, packMX 0x82 { cls := at_.cls, sc := scopeCode at_.sc, w := w })
  | .leaseGet d a b c fill at_ => some (.M, packMX 0x84 { a := a, b := b, c := c, d := d, cls := at_.cls, sc := scopeCode at_.sc, w := if fill then 1 else 0 })
  | .leaseFree a at_ => some (.M, packMX 0x85 { a := a, cls := at_.cls, sc := scopeCode at_.sc })
  | .fadd u ty r d a b m => some (v3 0x90 u ty r d a b 0 m)
  | .fsub u ty r d a b m => some (v3 0x91 u ty r d a b 0 m)
  | .fmul u ty r d a b m => some (v3 0x92 u ty r d a b 0 m)
  | .fma u ty r d a b c m => some (v3 0x93 u ty r d a b c m)
  | .fmin u ty d a b m => some (v3 0x94 u ty .fmt d a b 0 m)
  | .fmax u ty d a b m => some (v3 0x95 u ty .fmt d a b 0 m)
  | .fabs u ty d a m => some (v3 0x96 u ty .fmt d a 0 0 m)
  | .fneg u ty d a m => some (v3 0x97 u ty .fmt d a 0 0 m)
  | .frcp u ty r d a m => some (v3 0x98 u ty r d a 0 0 m)
  | .frsq u ty r d a m => some (v3 0x99 u ty r d a 0 0 m)
  | .fexp2 u ty r d a m => some (v3 0x9A u ty r d a 0 0 m)
  | .flog2 u ty r d a m => some (v3 0x9B u ty r d a 0 0 m)
  | .fcmp u cc ty d a b m => some (encVR 0x9C u { d := ext6 d, a := a, b := b, m := m, ty := tyCode ty, fn := vccCode cc })
  | .cvt u td ts r d a m p => some (encVR 0xA0 u { d := d, a := a, m := m, ty := tyCode td, ty2 := tyCode ts, rnd := rndCode r, imm := (0#8) ++ p })
  | .cvtQ u td ts r d c a m p => some (encVR 0xA0 u { d := d, a := a, c := c, m := m, ty := tyCode td, ty2 := tyCode ts, rnd := rndCode r, fn := 1, imm := (0#8) ++ p })
  | .cvtDq u td ts r d a b m p => some (encVR 0xA0 u { d := d, a := a, b := b, m := m, ty := tyCode td, ty2 := tyCode ts, rnd := rndCode r, fn := 2, imm := (0#8) ++ p })
  | .iadd u ty d a b m => some (v3 0xA4 u ty .fmt d a b 0 m)
  | .isub u ty d a b m => some (v3 0xA5 u ty .fmt d a b 0 m)
  | .imul u ty d a b m => some (v3 0xA6 u ty .fmt d a b 0 m)
  | .imad u ty d a b c m => some (v3 0xA7 u ty .fmt d a b c m)
  | .iaddSat u ty d a b m => some (v3 0xA8 u ty .fmt d a b 0 m)
  | .isubSat u ty d a b m => some (v3 0xA9 u ty .fmt d a b 0 m)
  | .vmacI8 u ta tb d a b m p => some (encVR 0xAA u { d := d, a := a, b := b, m := m, ty := tyCode ta, ty2 := tyCode tb, imm := (0#10) ++ p })
  | .vdot4I8 u ta tb d a b m => some (encVR 0xAB u { d := d, a := a, b := b, m := m, ty := tyCode ta, ty2 := tyCode tb })
  | .vrshr u ty d a b m sh p => some (encVR 0xAC u { d := d, a := a, b := b, m := m, ty := tyCode ty, ty2 := tyCode .s32, imm := (0#5) ++ p ++ sh })
  | .vand u ty d a b m => some (v3 0xB0 u ty .fmt d a b 0 m)
  | .vor u ty d a b m => some (v3 0xB1 u ty .fmt d a b 0 m)
  | .vxor u ty d a b m => some (v3 0xB2 u ty .fmt d a b 0 m)
  | .vandn u ty d a b m => some (v3 0xB3 u ty .fmt d a b 0 m)
  | .vshl u ty d a n m => some (encShift 0xB4 u ty d a n m)
  | .vshr u ty d a n m => some (encShift 0xB5 u ty d a n m)
  | .vsar u ty d a n m => some (encShift 0xB6 u ty d a n m)
  | .vperm u z ty d a b c m => some (encVR 0xB8 u { d := d, a := a, b := b, c := c, m := m, ty := tyCode ty, fn := if z then 1 else 0 })
  | .vbcast u ty d src m =>
    some (match src with
      | .lane a i => encVR 0xB9 u { d := d, a := a, m := m, ty := tyCode ty, imm := i }
      | .scalar a => encVR 0xB9 u { d := d, a := a, m := m, ty := tyCode ty, fn := 1 })
  | .vsel u ty d a b m => some (v3 0xBA u ty .fmt d a b 0 m)
  | .vred u op ty r d a m => some (encVR 0xBC u { d := d, a := a, m := m, ty := tyCode ty, rnd := rndCode r, fn := redCode op })
  | .vscan u op ex ty r d a m => some (encVR 0xBD u { d := d, a := a, m := m, ty := tyCode ty, rnd := rndCode r, fn := redCode op, imm := (0#11) ++ b1 ex })
  | .vcmp u cc ty d a b m => some (encVR 0xBE u { d := ext6 d, a := a, b := b, m := m, ty := tyCode ty, fn := vccCode cc })
  | .mand u d a b => some (encVR 0xC0 u { d := ext6 d, a := ext6 a, b := ext6 b })
  | .mor u d a b => some (encVR 0xC1 u { d := ext6 d, a := ext6 a, b := ext6 b })
  | .mnot u d a => some (encVR 0xC2 u { d := ext6 d, a := ext6 a })
  | .mpopc u ty d a => some (encVR 0xC3 u { d := d, a := ext6 a, ty := tyCode ty })
  | .vmovS u ty d a l => some (encLane 0xC4 u ty d a l)
  | .vmovV u ty d a l => some (encLane 0xC5 u ty d a l)
  | .vrand u ty d m seq => some (encVR 0xC6 u { d := d, m := m, ty := tyCode ty, imm := seq })
  | .accRd u ty d y h m => some (encHalf 0xC8 u ty d (ext6 y) h m)
  | .accWr u ty y a h m => some (encHalf 0xC9 u ty (ext6 y) a h m)
  | .cpy qd qs e => some (encEC 0xD0 e qd qs 0 0 0)
  | .cpyL qd qs e => some (encEC 0xD1 e qd qs 0 0 0)
  | .cpyRed op ty qd qs e => some (encEC 0xD2 e qd qs (credCode op) (tyCode ty) 0)
  | .trig n count qd qs e => some (encEC 0xD3 e qd qs count 0 n)
  | .tokClr k0 k1 k2 k3 => some (.E, packEC 0xD4 { kp := k0, ka := k1, kb := k2, kc := k3 })
  | .mma i ta tb y qa qb e => some (encEK 0xD8 e y qa qb ta tb i false)
  | .mmaG f i ta tb y qa qb e => some (encEK 0xD9 e y qa qb ta tb i f)
  | .mmaW i ta tb y qa qb e => some (encEK 0xDA e y qa qb ta tb i false)
  | .tgemm ta tb y qa qb e => some (encEK 0xDB e y qa qb ta tb false false)
  | .tcon i ta tb y qa qb e => some (encEK 0xDC e y qa qb ta tb i false)
  | .drain z bs tt tz qa y qb e => some (encEK 0xDD e y qa qb tt tz z bs)
  | .accZero y e => some (encEK 0xDE e y 0 0 0 0 false false)
  | .gath f ty qd qs qx e => some (encEC 0xE0 e qd qs (if f then 1 else 0) (tyCode ty) ((0#1) ++ qx))
  | .scat add f ty qd qs qx e =>
    some (encEC 0xE1 e qd qs ((0#2) ++ b1 f ++ b1 add) (tyCode ty) ((0#1) ++ qx))
  | .chSend n q e => some (encEH 0xE8 e n q 0 0)
  | .chRecv n q e => some (encEH 0xE9 e n q 0 0)
  | .chRecvRel n e => some (encEH 0xE9 e n 0 1 0)
  | .chRed op ty n q e => some (encEH 0xEA e n q (ropCode op) (tyCode ty))
  | .chFwd n q e => some (encEH 0xEB e n q 0 0)
  | .chStat n q e => some (encEH 0xEC e n q 0 0)
  | _ => none

/-- A bundle that holds one slot operation and NOP in its other slots. -/
def soloBundle (sl : Slot) (w : Word) : Bundle := (w.setWidth 384) <<< (64 * sl.num)

end Sys2Proof
end

