-- ==== Sys2Proof/Machine/Boot.lean ====
section
/-! DEFINITION. Firmware banks and what a reset does with them (R365, R391): the check of the image that is to run, the fall back to
the other bank, and the measurements. -/

namespace Sys2Proof.Machine

/-- A firmware's banks (R391): the two images (security version and hash), the bank that runs since the last boot, the bank marked
pending, resets in a row that failed on it, and the anti-rollback fuse count; whether the image tried last failed its check, and whether
the last boot fell back from a pending bank and its function is not ready yet. -/
structure Firmware where
  img0    : Nat × BitVec 512 := (0, 0)
  img1    : Nat × BitVec 512 := (0, 0)
  cur     : Bool := false
  pend    : Option Bool := none
  tries   : Nat := 0
  fuse    : Nat := 0
  failed  : Bool := false
  fell    : Bool := false
  deriving DecidableEq, Repr

/-- The image of a bank. -/
def Firmware.img (f : Firmware) (b : Bool) : Nat × BitVec 512 := if b then f.img1 else f.img0

/-- The check of an image (R365): its signature under the fused key, and its security version against the fuse count. -/
def Firmware.passes (f : Firmware) (x : Nat × BitVec 512) : Bool := Config.imageSigned Config.fusedKeyHash x.2 && decide (f.fuse ≤ x.1)

/-- What a reset makes of a firmware's banks (R365, R391): a pending bank that passes its check boots; one that has failed it, or has
not set its ready bit, on three resets in a row gives way to the other bank, which is checked in its turn. -/
def Firmware.boot (f : Firmware) : Firmware :=
  match f.pend with
  | none => { f with failed := !f.passes (f.img f.cur), fell := false }
  | some b =>
    let ok := f.passes (f.img b)
    let tries := if !ok ∨ f.cur = b then f.tries + 1 else f.tries
    if 3 ≤ tries then { f with pend := none, tries := 0, cur := !b, failed := !f.passes (f.img (!b)), fell := true }
    else { f with tries := tries, cur := if ok then b else !b, failed := !ok, fell := false }

/-- The image a boot has tried: version and hash. -/
def Firmware.image (f : Firmware) : Nat × BitVec 512 := f.img (f.pend.getD f.cur)

/-- A function whose ready bit comes up on a pending bank keeps that bank; a boot that fell back has succeeded (R391). -/
def Firmware.keep (f : Firmware) : Firmware :=
  if f.pend = some f.cur then { f with pend := none, tries := 0, fell := false } else { f with fell := false }

/-- FW_STAGE's image goes into the bank that does not run, marked pending (R391). -/
def Firmware.stage (f : Firmware) (x : Nat × BitVec 512) : Firmware :=
  if f.cur then { f with img0 := x, pend := some false, tries := 0 } else { f with img1 := x, pend := some true, tries := 0 }

/-- The hash of a measured image with its security version (R365). -/
def measure (x : Nat × BitVec 512) : BitVec 512 := Config.sha3 (natBytes 64 x.2.toNat ++ natBytes 8 x.1)

/-- A firmware of the three: 1 Kryel, 2 housekeeping, 3 signal box. -/
def fwOf (fw : Tbl Firmware) (k : Nat) : Firmware := tget {} fw k

/-- The boot of the three firmwares (R365): the Kryel ROM checks the Kryel firmware, and that one, where it runs, the other two. -/
def bootAll (fw : Tbl Firmware) : Tbl Firmware :=
  let fw := tput {} fw 1 (fwOf fw 1).boot
  if (fwOf fw 1).failed then fw else [2, 3].foldl (fun t k => tput {} t k (fwOf t k).boot) fw

/-- A function runs after a boot: its firmware has passed its check, and so has the Kryel firmware that makes the check (R365). -/
def runs (fw : Tbl Firmware) (k : Nat) : Bool := !(fwOf fw 1).failed && !(fwOf fw k).failed

/-- Measurements 1 to 5 (R365) after a boot: ROM, the firmwares that were measured, the fuses (lifecycle, counts, stepping). -/
def bootMeas (fw : Tbl Firmware) : Tbl (BitVec 512) :=
  let f := fwOf fw
  let fuses := natBytes 8 Config.lifecycle ++ [1, 2, 3].flatMap (fun k => natBytes 8 (f k).fuse) ++ natBytes 8 Config.stepping
  let others := if (f 1).failed then [] else [(3, measure (f 2).image), (4, measure (f 3).image)]
  [(1, Config.romMeasurement), (2, measure (f 1).image)] ++ others ++ [(5, Config.sha3 fuses)]

/-- Measurement 6 (R365): one result byte per function, in the order of READY's bits: 1 where the function has failed (log 8). -/
def bootStatus (fail : Nat) : BitVec 512 := BitVec.ofNat 512 (bytesNat ((List.range 26).map (fun i => if bit fail i then 1 else 0)))

/-- FAIL after a boot (R386, R391): a firmware whose check failed, or which has fallen back: Kryel 1, housekeeping 2, signal boxes 3. -/
def bootFail (fw : Tbl Firmware) : Nat :=
  let f (k : Nat) : Bool := ((fwOf fw k).failed || (fwOf fw k).fell) && (k == 1 || !(fwOf fw 1).failed)
  [1, 2, 3].foldl (fun n k => n + (f k).toNat * 2 ^ k) 0

/-- The firmware a package is shipped with; its images pass their check (log 8). -/
def shipped : Tbl Firmware := [1, 2, 3].map (fun k => (k, { img0 := (0, Config.shippedHash k) }))

end Sys2Proof.Machine
end

