-- ==== Sys2Proof/Machine/State.lean ====
section
/-! DEFINITION. The state of the package: plain data, holding every piece of state the spec names, and the state
after reset. A table's default is the value right after reset. -/

namespace Sys2Proof.Machine

/-- Reasons a step stops the model. -/
inductive Fault where
  /-- Raised by no meaning of this model: the package itself never stops (R8). Safe. -/
  | packageStopped
  deriving DecidableEq, Repr

/-- Reasons the model gives an instruction no meaning. -/
inductive Refusal where
  /-- The instruction has no meaning in this model yet; raised by `exec`'s own arms only. Safe. -/
  | notModelled (mnemonic : String)
  deriving DecidableEq, Repr

/-- The causes of R322, with MIXED_SIZE among them. -/
inductive Cause where
  | illegalIndex | illegalSlot | reservedOpcode | reservedField | privOpcode | landingMiss | branchTarget | typeCombo
  | bankGroup | tokenReuse | tokenError | collision | patternDegenerate | copyOverlap | symViolation | gatherRange
  | packOverrun | mixedSize | earlyRead | watchpoint | regionEffect | regionFull | regionDepth | checkFail
  | uncorrectable | retryExhausted | align | access | translationFatal | software | fatal
  deriving DecidableEq, Repr

/-- The causes with their 8-bit codes (R322). -/
def causeCodes : List (Cause × Nat) :=
  [(.illegalIndex, 0x01), (.illegalSlot, 0x02), (.reservedOpcode, 0x03), (.reservedField, 0x04), (.privOpcode, 0x05),
   (.landingMiss, 0x06), (.branchTarget, 0x07), (.typeCombo, 0x08), (.bankGroup, 0x09), (.tokenReuse, 0x0A),
   (.tokenError, 0x0B), (.collision, 0x0C)] ++
  [(.patternDegenerate, 0x10), (.copyOverlap, 0x11), (.symViolation, 0x12), (.gatherRange, 0x13), (.packOverrun, 0x14),
   (.mixedSize, 0x16), (.earlyRead, 0x17), (.watchpoint, 0x18), (.regionEffect, 0x19), (.regionFull, 0x1A),
   (.regionDepth, 0x1B), (.checkFail, 0x1C), (.uncorrectable, 0x1D), (.retryExhausted, 0x1E)] ++
  [(.align, 0x20), (.access, 0x21), (.translationFatal, 0x22)] ++
  [(.software, 0x30), (.fatal, 0x3F)]

def Cause.code (c : Cause) : Nat := ((causeCodes.find? (fun e => e.1 == c)).map (·.2)).getD 0

/-- A cause with its AUX (R338), the slot of its instruction, and RGN.CAUSE's CODE (R332). -/
structure Exc where
  cause : Cause
  aux   : Nat := 0
  slot  : Nat := 0
  /-- RGN.ABORT's code, or the cause recorded with the token; otherwise none and the slot is recorded. -/
  code  : Option Nat := none
  /-- For TOKEN_ERROR: the recorded cause (R278). -/
  inner : Option Cause := none
  deriving DecidableEq, Repr

/-- A place of an access: scratchpad of a core, or a global virtual address (R164). -/
inductive Loc where
  | sp (core off : Nat)
  | gl (va : Nat)
  deriving DecidableEq, Repr

/-- A single-copy atomic piece of an access: `n` bytes at a place (R304). -/
structure Piece where
  loc  : Loc
  n    : Nat
  /-- the lane or part of the register the piece serves -/
  lane : Nat := 0
  /-- the sign of a tensor element is -1 (R127) -/
  neg  : Bool := false
  deriving DecidableEq, Repr

/-- A write of a landing result (R55, R169, R185): the register is named by its field, an s register by its entry. -/
inductive RegWrite where
  | g (field : Nat) (v : Word)
  | s (field entry : Nat) (v : Word)
  | v (field : Nat) (val mask : VWord)
  | m (field : Nat) (val mask : MWord)
  | q (field : Nat) (img : QWord)
  /-- ACC.WR's half-row of tile `y` (R205); a tile is no strand register (R206) -/
  | t (y hr : Nat) (val mask : VWord)
  deriving DecidableEq, Repr

/-- How a variable result is made from its pieces. -/
inductive LoadKind where
  | scalar (t : SReg) (entry : Nat) (sgn : Bool)
  | pair (t : SReg) (entry : Nat)
  | atom (t : SReg) (entry : Nat) (aop : AOp) (sgn : Bool) (c old : Word)
  | lanes (v : VReg) (ty : Ty) (keep : VWord)
  | image (q : QReg)
  | expand (v : VReg) (q : QReg) (ty : Ty) (active : MWord) (img : QWord)
  | lease (d : SReg) (entry : Nat) (va len ttl : Nat) (fill : Bool)
  /-- the fill of lease `n`, next its line `i` (R138) -/
  | fill (d : SReg) (entry : Nat) (n va len i : Nat)
  deriving DecidableEq, Repr

/-- The access of a variable result (R56). -/
structure LoadOp where
  kind   : LoadKind
  pieces : List Piece
  cls    : Nat
  sc     : Scope
  acq    : Bool := false
  rel    : Bool := false
  /-- addressed through the remote path of a CL access (R165) -/
  cl     : Bool := false
  handle : Nat := 0
  /-- bytes it may read beside its pieces: the values that VLD.EXPAND's bitmask may select (R211) -/
  more   : List (Loc × Nat) := []
  deriving DecidableEq, Repr

/-- A counted touch of a line (R112): line, kind 0 home die, 1 another die, 2 another package; frame if counted. -/
structure Touch where
  line  : Nat
  kind  : Nat
  frame : Option Nat := none
  deriving DecidableEq, Repr

/-- A result under way or arrived (R55 to R58). -/
structure Result where
  issue   : Nat
  slot    : Nat
  due     : Nat
  /-- arithmetic clock at issue, and latency: when a fixed result completes in real time (R57) -/
  issueCy : Nat
  lat     : Nat
  seq     : Nat
  epc     : Nat
  writes  : List RegWrite := []
  load    : Option LoadOp := none
  arrived : Bool := false
  exc     : Option Exc := none
  /-- SEQs of the fault records that elements of the access have joined (R102, R182) -/
  faults  : List Nat := []
  /-- a page fault of it was answered FAIL -/
  failed  : Bool := false
  /-- failed transmissions of its flit between packages (R243) -/
  tries   : Nat := 0
  /-- pieces read before the rest, with the address of poison met, and the lines they touched (R112, R304) -/
  got     : List (Piece × List Byte × Option Nat) := []
  gotT    : List Touch := []
  deriving DecidableEq, Repr

/-- A pending redirect (R59) with its frame change (R273, R274). -/
structure Redirect where
  due    : Nat
  target : Nat
  /-- a register target whose bits [63:24] are not 0 (R271) -/
  wide   : Bool := false
  land   : Bool := false
  frame  : Option Nat := none
  /-- the link CALL and CALLI write (R273): entry and window size; its position is where the fetch then stands -/
  link   : Option (Nat × Nat) := none
  from_  : Nat
  slot   : Nat := 0
  deriving DecidableEq, Repr

/-- One store piece: bytes at a place (R304). -/
structure SPiece where
  loc   : Loc
  bytes : List Byte
  /-- the element the piece is part of -/
  lane  : Nat := 0
  /-- SEQ of the fault record the element has joined (R102, R182) -/
  fault : Option Nat := none
  deriving DecidableEq, Repr

/-- A store-queue entry (R166). -/
structure Store where
  seq    : Nat
  /-- program order at issue, kept when a release gives a new `seq` (R318) -/
  pos    : Nat
  pieces : List SPiece
  cls    : Nat
  sc     : Scope
  rel    : Bool := false
  cl     : Bool := false
  pc     : Nat
  slot   : Nat := 2
  /-- held in the region store gate at this depth; 0 is no gate (R326) -/
  depth  : Nat := 0
  /-- region store gate entries it holds; 0 for an entry of the store queue (R326) -/
  gate   : Nat := 0
  /-- the write-backs of STASH.FLUSH (window + 1, no lines), STASH.INV (0, the lines) or LEASE.FREE (9, the lines) (R139, R142) -/
  act    : Option (Nat × List Nat) := none
  handle : Nat := 0
  /-- failed transmissions of its flit between packages (R243) -/
  tries  : Nat := 0
  /-- places written before the rest, the 64-byte lines (by number) that the store covers in full and that were poisoned then, and the lines
  they touched (R96, R112, R304) -/
  done   : List (Loc × Nat) := []
  clean  : List Nat := []
  touch  : List Touch := []
  /-- rows it has read or written before the rest (R163) -/
  passes : List (Nat × Nat) := []
  deriving DecidableEq, Repr

/-- A FENCE whose effect is not over (R183). -/
structure Fence where
  seq  : Nat
  mask : Nat
  sc   : Scope
  deriving DecidableEq, Repr

/-- A token (R277); an ERROR token carries its cause (R214). -/
inductive Tok where
  | empty | armed | done
  | error (c : Cause)
  deriving DecidableEq, Repr

/-- An open region's frame (R324), with what its entries keep (R325). -/
inductive KeepEntry where
  | g (r : Nat) (v : Word)
  | s (entry : Nat) (v : Word)
  | v (r : Nat) (v : VWord)
  | y (r : Nat) (tile : Tbl (BitVec 32)) (poison overrun : Bool)
  /-- a run of scratchpad bytes: value, the bits kept, poison -/
  | p (off : Nat) (cells : List (Nat × Nat × Bool))
  /-- a y or p keep whose command has not completed yet -/
  | pending (id : Nat)
  deriving DecidableEq, Repr

structure Frame where
  rid    : Nat
  budget : Nat
  abm    : Nat
  tgt    : Nat
  start  : Nat
  end_   : Nat
  fill   : Nat
  fmt    : Nat
  rseed  : Word
  rctr   : Word
  fb     : Nat
  low    : Nat
  /-- order count of the RGN.BEGIN: work that issued later is inside the region -/
  seq    : Nat
  keeps  : List KeepEntry := []
  deriving DecidableEq, Repr

/-- Scalar, vector, mask and pattern registers of a strand (R167). -/
structure Regs where
  g   : Tbl Word := []
  /-- the physical scalar store by logical entry (R169) -/
  s   : Tbl Word := []
  fb  : Nat := 0
  low : Nat := 0
  v   : Tbl VWord := []
  m   : Tbl MWord := []
  q   : Tbl QWord := []
  k   : Tbl Tok := []
  deriving DecidableEq, Repr

/-- Control registers of a strand (R171). -/
structure Ctl where
  spillBase  : Nat := 0
  spillSize  : Nat := 0
  regionBase : Nat := 0
  regionSize : Nat := 0
  cf         : Bool := false
  fmt        : Nat := 1
  rseed      : Word := 0
  rctr       : Word := 0
  sherr      : Nat := 0
  rgnCause   : Nat := 0
  ttbase     : Nat := 0
  ttcount    : Nat := 0
  dbase      : Nat := 0
  deriving DecidableEq, Repr

/-- What the platform holds for a strand (R56, R89, R269). -/
structure Plat where
  results   : List Result := []
  redirects : List Redirect := []
  /-- pending SETFMT changes: due cy and value (R89) -/
  fmts      : List (Nat × Nat) := []
  deriving DecidableEq, Repr

/-- Why a strand does not issue (R268): real cy at which a freeze began, if it is one. -/
inductive Hold where
  | run
  | blocked
  | frozen (since : Nat)
  deriving DecidableEq, Repr

/-- Handler state (R334): the shadow platform and what ERET needs. -/
structure Shadow where
  plat   : Plat
  sclk   : Nat
  record : Nat
  /-- the handler segment the trap entered: VA, stream length, start map (R334, R380) -/
  seg    : Nat × Nat × Nat := (0, 0, 0)
  cause  : Cause
  tpc    : Nat
  epc    : Nat
  slot   : Nat
  code   : Option Nat
  /-- idle run under way at the trap, causes reported and not yet taken -/
  idle   : Nat
  reports : List (Exc × Nat) := []
  deriving DecidableEq, Repr

/-- The flags of the debug policy a gang samples at its start (R373). -/
structure Debug where
  early  : Bool := false
  strict : Bool := false
  mixchk : Bool := false
  deriving DecidableEq, Repr

/-- A strand context (R265). -/
structure Strand where
  resident : Bool := false
  exited   : Bool := false
  part     : Nat := 0
  lid      : Nat := 0
  gang     : Nat := 0
  sid      : Nat := 0
  regs     : Regs := {}
  ctl      : Ctl := {}
  pc       : Nat := 0
  /-- position of the bundle being issued -/
  bpos     : Nat := 0
  /-- idle bundles left of the idle run under way (R27) -/
  idle     : Nat := 0
  sclk     : Nat := 0
  hold     : Hold := .run
  /-- stopped by fdb (R26) -/
  stopped  : Bool := false
  step1    : Bool := false
  plat     : Plat := {}
  stores   : List Store := []
  fences   : List Fence := []
  /-- program-order count of the strand's M-slot accesses and commands -/
  seq      : Nat := 0
  frames   : List Frame := []
  handler  : Option Shadow := none
  /-- a trap whose record or handler waits (a page fault on its slot, or TRAP.SEGSTAT 1): cause, TPC, EPC, and whether the
  record is written (R334, R380) -/
  trapping : Option (Exc × Nat × Nat × Bool) := none
  /-- a rollback that waits for keep commands (R330): cause, EPC, escalations, and whether the region closes (R331) -/
  rolling  : Option (Exc × Nat × Nat × Bool) := none
  /-- an ERET that has issued and not yet read its record (R339) -/
  eret     : Bool := false
  /-- the transfer whose target the next fetch is (R60) -/
  enter    : Option Redirect := none
  /-- order count of the command that last armed each token, and the region depth at which that command stands (R330) -/
  kseq     : Tbl Nat := []
  kdep     : Tbl Nat := []
  /-- ATOMs whose result is discarded and whose write is still to be performed (R319) -/
  atoms    : List Result := []
  /-- causes reported by stores and remote refusals, not yet taken (R323): cause and EPC -/
  reports  : List (Exc × Nat) := []
  /-- barriers: OUT and g of R280; bit set 64 + b is the wait half of BAR.SS -/
  out      : Tbl (Option Nat) := []
  /-- order count at the strand's last arrival at each barrier (R282) -/
  arrSeq   : Tbl Nat := []
  /-- arrivals before which accesses were open, and completed waits: barrier, generation, order count (R310) -/
  arrs     : List (Nat × Nat × Nat) := []
  waits    : List (Nat × Nat × Nat) := []
  /-- accesses that a later one has been performed before, though an edge of this scope orders them, while no other agent of the scope
  was there (R305, R307): order count, scope -/
  passed   : List (Nat × Scope) := []
  ssWait   : Option Nat := none
  /-- entries of DICT.LOAD still to be written: next, end, VA of the next entry (R34) -/
  dict     : Option (Nat × Nat × Nat) := none
  /-- fault record of a code fetch, DICT.LOAD or descriptor read (R30, R34, R114) -/
  fault    : Option Nat := none
  /-- the descriptor the next bundle waits for: store (0 layout unit, 1 Shunter, 2 Kiln) and handle; and handles whose read met poison,
  with their VA (R114) -/
  want     : Option (Nat × Nat) := none
  wantBad  : List (Nat × Nat) := []
  /-- failed transmissions of a flit of that read, or of the entry under way, between packages (R243) -/
  tries    : Nat := 0
  dbg    : Debug := {}
  /-- tokens named by a WAIT issued since the command that armed them (R279) -/
  waited   : List Nat := []
  /-- within a bundle: the MTC that takes effect after it (R171), draws so far (R80), and what happens after it:
  1 EXIT, 2 YIELD, 3 ERET -/
  pend     : Option (Nat × Word) := none
  drawn    : Nat := 0
  post     : Nat := 0
  deriving DecidableEq, Repr

/-- The kinds of engine command. -/
inductive CmdKind where
  | copy (l : Bool)
  | copyRed (op : CRedOp) (ty : Ty)
  | trig (n target : Nat)
  | keepP (id : Nat)
  | keepY (id mask : Nat)
  | mma (i : Bool) (tya tyb : Nat) (y : Nat)
  | mmaG (f i : Bool) (tya tyb : Nat) (y : Nat)
  | mmaW (i : Bool) (tya tyb : Nat) (y : Nat)
  | tgemm (tya tyb : Nat) (y : Nat)
  | tcon (i : Bool) (tya tyb : Nat) (y : Nat)
  | drain (z bs : Bool) (tyt tyo : Nat) (y : Nat)
  | accZero (y : Nat)
  | gath (f : Bool) (ty : Ty)
  | scat (add f : Bool) (ty : Ty)
  | chSend (n : Nat)
  | chRecv (n : Nat) (rel : Bool)
  | chRed (op : ROp) (ty : Ty) (n : Nat)
  | chFwd (n : Nat)
  | chStat (n : Nat)
  deriving DecidableEq, Repr

/-- Where a command stands. -/
inductive Phase where
  | queued | active | ended
  deriving DecidableEq, Repr

/-- An engine command (R143, R213, R249) with its snapshots (R125, R89), tokens (R144) and cursor (R154, R239). -/
structure Cmd where
  kind   : CmdKind
  part   : Nat
  lid    : Nat
  gang   : Nat
  ctx    : Nat
  sid    : Nat
  /-- destination or first pattern, source or second pattern, and the auxiliary patterns -/
  pd     : QWord := 0
  ps     : QWord := 0
  pd1    : QWord := 0
  ps1    : QWord := 0
  fmt    : Nat
  rseed  : Word
  kp     : Nat
  /-- consumed tokens still to be waited for; a sampled ERROR fails the command -/
  waits  : List Nat := []
  failed : Bool := false
  cls    : Nat
  sc     : Scope
  seq    : Nat
  /-- program-order counts of the accesses that must be performed first (R308) -/
  after  : List Nat := []
  /-- region depth at issue; held until release when set (R156, R240) -/
  depth  : Nat := 0
  held   : Bool := false
  phase  : Phase := .queued
  cursor : Nat := 0
  /-- inner cursor: K steps or terms done in the unit under way -/
  sub    : Nat := 0
  parked : Option Nat := none
  err    : Option Cause := none
  errAt  : Nat := 0
  /-- counts of the Glaze (R232) -/
  viol   : Nat := 0
  mism   : Nat := 0
  /-- outputs of a command in a region that wait for release (R240, R264) -/
  outbox : List SPiece := []
  /-- channel slot or arrival index taken -/
  slot   : Option Nat := none
  /-- descriptors of the tensor-form patterns, read at issue: destination or first, source or second, auxiliary -/
  dd     : Option QWord := none
  ds     : Option QWord := none
  dd1    : Option QWord := none
  ds1    : Option QWord := none
  /-- position of the issuing bundle, for fault records -/
  pc     : Nat := 0
  /-- counted in its segments' busy counts (R108, R155) -/
  busy   : Bool := false
  /-- tensor or byte sectors run from the last to the first (R149) -/
  down   : Bool := false
  /-- arithmetic clock at issue: the order of commands of different strands -/
  born   : Nat := 0
  /-- the GLZ word or window block read at the start (R224, R229), and the rows an index pattern names, 0 for a row of zeros
  (R222, R237) -/
  aux    : Nat := 0
  rows   : List Nat := []
  /-- outputs of the block under way: row, column, bits (R231) -/
  buf    : List (Nat × Nat × Nat) := []
  /-- bytes of the sector under way that are still to be written: place, value, bits, poison (R147) -/
  left   : Tbl (Nat × Nat × Bool) := []
  /-- lines that the unit under way has touched, counted with its last write (R112) -/
  leftT  : List Touch := []
  /-- 64-byte lines (by number) that the unit under way covers in full and that were poisoned when a part of it was written (R96) -/
  clean  : List Nat := []
  /-- elements of the unit under way that have been read: source, destination, value, poison; how many have been read or refused, and how many
  have been combined in place (R304) -/
  got    : List (Nat × Nat × Nat × Bool) := []
  taken  : Nat := 0
  rmw    : Nat := 0
  /-- cancelled within a sector, which it still writes whole (R147) -/
  ended  : Bool := false
  /-- lines that the rows read ahead touched, row by row (R112, R149) -/
  seen   : List (List Touch) := []
  /-- failed transmissions of its flit between packages (R243) -/
  tries  : Nat := 0
  deriving DecidableEq, Repr

/-- A tensor descriptor in a store of a core (R114): whose store (0 layout unit, 1 Shunter, 2 Kiln), partition, TTBASE, handle, image. -/
structure DescEntry where
  unit : Nat
  part : Nat
  tt   : Nat
  h    : Nat
  img  : QWord
  deriving DecidableEq, Repr

/-- A stash window (R140). -/
structure Stash where
  mapped : Bool := false
  part   : Nat := 0
  base   : Nat := 0
  va     : Nat := 0
  len    : Nat := 0
  cls    : Nat := 0
  sc     : Scope := .core
  /-- the gang that mapped it (R285) -/
  lid    : Nat := 0
  gang   : Nat := 0
  /-- valid lines: index in the window to (physical line, dirty) -/
  lines  : Tbl (Option (Nat × Bool)) := []
  deriving DecidableEq, Repr

/-- A dictionary entry (R31). -/
structure DictEntry where
  valid  : Bool := false
  word   : Bundle := 0
  source : Nat := 0
  deriving DecidableEq, Repr

/-- A core's barrier-free state: scratchpad, tiles, dictionary, engines and counters. -/
structure Core where
  strands : Tbl Strand := []
  active  : Option Nat := none
  /-- the context that was active last (R268) -/
  last    : Nat := 3
  sp      : Tbl Byte := []
  /-- poisoned 16-byte rows (R160) -/
  spBad   : Tbl Bool := []
  tiles   : Tbl (BitVec 32) := []
  tPoison : Tbl Bool := []
  tOver   : Tbl Bool := []
  /-- ACC.WR of the last cy that saw one: cy, rank of the strand, half-row written, lanes (R206) -/
  accWr   : List (Nat × Nat × Nat × VWord) := []
  dict    : Tbl DictEntry := []
  pool    : Tbl QWord := []
  poolN   : Nat := 0
  /-- digest of the image the dictionary holds (R32) -/
  image   : Option (BitVec 512) := none
  owner   : Option Nat := none
  descs   : List DescEntry := []
  copies  : List Cmd := []
  trigs   : List Cmd := []
  kiln    : List Cmd := []
  gath    : List Cmd := []
  chans   : List Cmd := []
  stash   : Tbl Stash := []
  /-- 128-byte lines marked by unfinished engine work: line to marks (context, token, order count) (R279) -/
  marks   : List (Nat × Nat × Nat × Nat) := []
  stall   : Word := 0
  /-- banks that the device's own traffic has used since the core was empty; marked where it ranks with the M slots (R162) -/
  dev     : List (Nat × Bool) := []
  l2loc   : Word := 0
  l2rem   : Word := 0
  l2dom   : Word := 0
  ecc     : Nat := 0
  /-- soft errors not met yet (R33, R126, R160): a half row of scratchpad (mark 1), or 2^20 + dictionary entry, or 2^21 + pool entry: the
  words with a single-bit error, 9 and more for a double-bit error -/
  soft    : Tbl Nat := []
  /-- VA of the pool's image (R126) -/
  poolSrc : Nat := 0
  /-- no issue before this cy: a switch under way (R268), or throttling (R389) -/
  portAt  : Nat := 0
  stopped : Bool := false
  deriving DecidableEq, Repr

/-- A cluster barrier (R280). -/
structure Barrier where
  expect : Nat := 0
  count  : Nat := 0
  gen    : Nat := 0
  anySS  : Bool := false
  held   : Bool := false
  deriving DecidableEq, Repr

/-- A cluster: barriers, the partition that uses it while it is unshared, sharing (R297): partition and weight. -/
structure Cluster where
  bars   : Tbl Barrier := []
  part   : Option Nat := none
  share  : List (Nat × Nat) := []
  slice  : Nat := 2000000
  /-- sharer holding the cluster and the cy at which its share began -/
  holder : Option (Nat × Nat) := none
  deriving DecidableEq, Repr

/-- A lease (R138). -/
structure Lease where
  part   : Nat
  lid    : Nat
  gang   : Nat
  va     : Nat
  len    : Nat
  expiry : Nat
  cls    : Nat
  sc     : Scope
  deriving DecidableEq, Repr

/-- Who holds a line the home slice records (R136). -/
inductive Owner where
  | home
  | lease (die n : Nat)
  /-- a lease of the die that LEASE.FREE has ended, until the line's write-back is performed (R139) -/
  | ended (die : Nat)
  | stash (core w line : Nat)
  deriving DecidableEq, Repr

/-- A 128-byte line in the L2 (R134): its bytes, key slot, dirty and poison bits, owner and last use. -/
structure L2Line where
  data   : BitVec 1024 := 0
  slot   : Nat := 0
  dirty  : Bool := false
  poison : BitVec 2 := 0
  owner  : Owner := .home
  slice  : Nat := 0
  used   : Nat := 0
  /-- of each half, the count of map changes and saves of its unit that its bytes stand after (R92, R301) -/
  map    : Nat × Nat := (0, 0)
  deriving DecidableEq, Repr

/-- What a 64-byte line's metadata holds (R94, R95): stored key slot with the generation of its key, poison, and the count of
map changes and saves of its unit when it was written (R92, R301). -/
structure LineMeta where
  slot   : Option (Nat × Nat) := none
  poison : Bool := false
  map    : Nat := 0
  deriving DecidableEq, Repr

/-- What has made 4 MiB of HBM undefined: how often; and, newest first, as a save slot with its key slot and generation (R301), and by a
change of the map for the partitions that mapped it then (R92). -/
structure Remap where
  n     : Nat := 0
  saves : List (Nat × Nat × Nat) := []
  maps  : List (Nat × List Nat) := []
  deriving DecidableEq, Repr

/-- A stack's scrub registers (R97). -/
structure Scrub where
  period : Nat := 24
  ce     : Nat := 0
  ue     : Nat := 0
  tagf   : Nat := 0
  last   : Nat := 0
  deriving DecidableEq, Repr

/-- A domain window (R242). -/
structure DomWindow where
  node  : Nat
  gid   : Nat
  write : Bool
  base  : Nat
  len   : Nat
  /-- the key slot it grants the range under -/
  slot  : Nat := 0
  deriving DecidableEq, Repr

/-- A channel endpoint (R248, R261). -/
structure Endpoint where
  /-- slots that are FULL, and slots that are FILLING -/
  full    : List Nat := []
  filling : List Nat := []
  cnt     : Nat := 0
  rseq    : Nat := 0
  sseq    : Nat := 0
  tseq    : Nat := 0
  /-- arrival places reserved so far -/
  arrIdx  : Nat := 0
  dstep   : Nat := 0
  lasterr : Nat := 0
  path    : Nat := 0
  /-- slots whose payload was dropped (R262), and slots whose forwarding is not complete (R260) -/
  bad     : List Nat := []
  fwding  : List Nat := []
  /-- steps this member has opened (R257) -/
  opened  : Nat := 0
  /-- a strand has received while the region of another held a release: that one's SID, the region's depth, and whether it has rolled back, so
  that what it then receives is undefined (R264) -/
  mess    : List (Nat × Nat × Bool) := []
  deriving DecidableEq, Repr

/-- The command a payload or contribution came from: LID, gang, SID, order count. -/
abbrev Sender := Nat × Nat × Nat × Nat

/-- A payload under way to a channel (R248). -/
structure Flight where
  part    : Nat
  lid     : Nat
  gang    : Nat
  ch      : Nat
  /-- arrival index reserved -/
  idx     : Nat
  /-- payload bytes with their poison, and contributor counts (R258) -/
  bytes   : List (Byte × Bool)
  counts  : List Nat := []
  /-- dropped: its slot is marked FULL with every half poisoned (R262) -/
  bad     : Bool := false
  /-- 1 DIRECT, 2 SWITCH, 3 PUGMILL (R261) -/
  path    : Nat := 1
  /-- distance from the origin on a ring (R260) -/
  dist    : Nat := 0
  /-- SEQ of the fault record it waits on (R262) -/
  fault   : Option Nat := none
  sender  : Option Sender := none
  /-- the slot it is forwarded from: gang and slot (R260) -/
  from_   : Option (Nat × Nat) := none
  /-- between packages, and leaving this one (R243) -/
  remote  : Bool := false
  out     : Bool := false
  /-- the package it goes to, where it leaves this one -/
  dest    : Nat := 0
  /-- failed transmissions of its flit under way (R243) -/
  tries   : Nat := 0
  /-- bytes that stand in its slot, and the poisoned lines and rows that it covers in full (R96, R160, R304) -/
  staged  : Nat := 0
  clean   : List Nat := []
  /-- who writes it, as an agent (R305), with its node and core (R342), whether under MIXCHECK, and its class and scope (R251) -/
  agent   : Nat := 0
  node    : Option Nat := none
  core    : Nat := 0
  mixchk  : Bool := false
  cls     : Nat := 15
  sc      : Scope := .package
  deriving DecidableEq, Repr

/-- A running value of a reduction (R256, R258): each element in its running format, none while no contribution of it was
present; its poison; the counts; the ranks combined. -/
structure RedVal where
  vals   : List (Option Int × Bool) := []
  counts : List Nat := []
  ranks  : List Nat := []
  deriving DecidableEq, Repr

/-- A contribution: its rank, its payload with poison, where it came from, and whether a reducer has accepted it. -/
structure Contrib where
  rank   : Nat
  bytes  : List (Byte × Bool)
  sender : Option Sender := none
  taken  : Bool := false
  /-- failed transmissions of its flit between packages (R243) -/
  tries  : Nat := 0
  deriving DecidableEq, Repr

/-- One reduction step of a group (R255, R257). -/
structure RedStep where
  step  : Nat
  /-- the path it opened on: SWITCH, otherwise PUGMILL -/
  sw    : Bool := false
  /-- contributions, kept as retransmit copies -/
  subs  : List Contrib := []
  /-- partial of each switch, and of each receiver's Pugmill -/
  sws   : List (Nat × RedVal) := []
  pugs  : List (Nat × RedVal) := []
  /-- contributions in Pugmill queues, oldest first: stack, receiver, rank (R255) -/
  wait  : List (Nat × Nat × Nat) := []
  /-- receivers that have a complete delivery -/
  done  : List Nat := []
  resent : Bool := false
  deriving DecidableEq, Repr

/-- A reduction group or ring of a launch's channel (R245, R257). -/
structure Group where
  gid     : Nat
  lid     : Nat
  ch      : Nat
  /-- node, gang index and RECV of each rank -/
  members : List (Nat × Nat × Bool) := []
  /-- switches of the tree, those holding the key, those being re-attested -/
  tree    : List Nat := []
  att     : List Nat := []
  join    : List Nat := []
  /-- what reaches each switch of the tree: a rank, or P + a switch whose partial it takes (R255) -/
  kids    : List (Nat × List Nat) := []
  /-- TIME at which each switch's next measurement is due, by the period read as it was scheduled (R257, R367) -/
  remeasure : List (Nat × Nat) := []
  f       : Nat := 0xFFFFFFFF
  /-- first step of each path, SWITCH if set, newest first -/
  trans   : List (Nat × Bool) := []
  /-- removals of switches, newest first: their TIME, and F once it is known (R257) -/
  removals : List (Nat × Option Nat) := []
  /-- members have acknowledged a change and wait for F -/
  waitF   : Bool := false
  steps   : List RedStep := []
  deriving DecidableEq, Repr

/-- A launch's phase (R290, R293). -/
inductive LPhase where
  | accepted | started | complete | refused | aborted
  deriving DecidableEq, Repr

/-- A gang of a launch (R266). -/
inductive GPhase where
  | waiting | running | saved | ended
  deriving DecidableEq, Repr

structure Gang where
  phase  : GPhase := .waiting
  /-- first core, and the context of each strand: (core, context) in strand order -/
  place  : List (Nat × Nat) := []
  /-- cores in gang-core order -/
  cores  : List Nat := []
  ends   : Tbl Endpoint := []
  /-- bytes that arrived for scratchpad staging before the gang started (R252, R263) -/
  early  : Tbl (Nat × Nat × Bool) := []
  dbg  : Debug := {}
  deriving DecidableEq, Repr

/-- A launch (R289). -/
structure Launch where
  lid      : Nat
  queue    : Nat
  phase    : LPhase := .accepted
  code     : Nat := 0
  codeLen  : Nat := 0
  /-- start map, bit i for halfword i; where the dictionary image and the pool lie, with their counts (R29, R377) -/
  starts   : Nat := 0
  dictOff  : Nat := 0
  dictN    : Nat := 0
  poolOff  : Nat := 0
  poolN    : Nat := 0
  digest   : BitVec 512 := 0
  system   : Bool := false
  irq      : Bool := false
  cor      : Bool := false
  /-- the cluster sets of its trial placement, where it is co-resident without barriers (R295) -/
  sets     : List (List Nat) := []
  bars     : Nat := 0
  c        : Nat := 1
  s        : Nat := 1
  g        : Nat := 1
  ttbase   : Nat := 0
  dbase    : Nat := 0
  ttcount  : Nat := 0
  chtab    : Tbl QWord := []
  spill    : Nat × Nat := (0, 0)
  region   : Nat × Nat := (0, 0)
  rseed    : Word := 0
  bufs     : List (Nat × Nat × Nat) := []
  /-- DEPs: predecessor, by its position among the partition's launches, phase and count (R294) -/
  deps     : List (Nat × Nat × Nat) := []
  /-- implicit predecessors, by position, and whether every earlier launch is one (R292) -/
  impl     : List Nat := []
  wide     : Bool := false
  status   : Nat := 0
  ginit    : List Word := []
  gangs    : Tbl Gang := []
  started  : Nat := 0
  ended    : Nat := 0
  usable   : Nat := 4
  /-- an abort under way: CODE (R335) -/
  abort    : Option Nat := none
  /-- its completion steps are over and its record is owed; its record has been performed: it is final (R292, R293) -/
  closed   : Bool := false
  final    : Bool := false
  deriving DecidableEq, Repr

/-- A command queue's registers (R287). -/
structure Queue where
  base : Nat := 0
  ctl  : Nat := 0
  tail : Nat := 0
  head : Nat := 0
  deriving DecidableEq, Repr

/-- A watchpoint's registers (R341). -/
structure Watch where
  base  : Nat := 0
  ctl   : Nat := 0
  armed : Bool := false
  hit   : Nat := 0
  haddr : Nat := 0
  deriving DecidableEq, Repr

/-- A fault record outstanding or held for want of ring space (R103, R105). -/
structure FaultRec where
  seq     : Nat := 0
  va      : Nat
  kind    : Nat
  rwx     : Nat
  level   : Nat
  agent   : Nat
  core    : Nat
  strand  : Nat
  gidx    : Nat
  cls     : Nat
  sc      : Scope
  pc      : Nat
  handle  : Nat
  cursor  : Nat
  time    : Nat
  joined  : Nat := 1
  /-- HEAD when the ring took it; none while held and once the ring has moved -/
  ringAt  : Option Nat := none
  /-- a migration has served its accesses; it waits for its FRESP alone (R108, log 98) -/
  served  : Bool := false
  deriving DecidableEq, Repr

/-- A migration under way (R108). -/
structure Migration where
  vas   : List Nat
  pl    : Nat
  pln   : Nat
  /-- 0 held, 1 copying, 2 copied -/
  stage : Nat := 0
  /-- new frames by page -/
  frames : List (Nat × Nat) := []
  host  : Bool := false
  reqs  : Nat := 0
  deriving DecidableEq, Repr

/-- TDISP states (R368). -/
inductive Tdisp where
  | unlocked | locked | run | error
  deriving DecidableEq, Repr

/-- The last writer of a range (R292); a launch by its position among the partition's. -/
inductive Writer where
  | none | external
  | launch (i : Nat)
  deriving DecidableEq, Repr

/-- A range of the buffer table (R292): RCNT is the number of readers. -/
structure BufRange where
  base    : Nat
  len     : Nat
  writer  : Writer := .none
  readers : List Nat := []
  deriving DecidableEq, Repr

/-- A completion record still to be performed (R290): the launch by its position, none for a record refused for its LID. -/
structure OwedRecord where
  lid    : Nat
  index  : Option Nat
  status : Nat
  word0  : Nat
  irq    : Bool
  fault  : Option Nat := none
  /-- its fault was answered FAIL -/
  failed : Bool := false
  deriving DecidableEq, Repr

/-- A saved cluster set (R301). -/
structure SavedSet where
  lid     : Nat
  gangs   : List Nat
  cluster : Nat
  /-- the set's cores at their cluster positions, with their strands and engines -/
  cores   : List (Nat × Core) := []
  bars    : Tbl Barrier := []
  /-- its save slots, by number (R301) -/
  slots   : List Nat := []
  deriving DecidableEq, Repr

/-- A partition's fault unit (R104 to R110). -/
structure FaultUnit where
  base    : Nat := 0
  head    : Nat := 0
  tail    : Nat := 0
  ovf     : Bool := false
  nextSeq : Nat := 1
  recs    : List FaultRec := []
  heldQ   : List FaultRec := []
  floor   : Nat := 100000
  migres  : Nat := 0
  tlbDone : Bool := true
  /-- TLBINVs not yet completed: first page, count -/
  tlbReq  : List (Nat × Nat) := []
  ptbase  : Nat := 0
  /-- migration locks: page VA, held by the device side (R109) -/
  locks   : List (Nat × Bool) := []
  /-- host-side grants: page, TIME of arrival; the page of the last MIGREQ (R109) -/
  grants  : List (Nat × Nat) := []
  migPage : Nat := 0
  /-- floor table: page VA, expiry TIME (R110) -/
  floors  : List (Nat × Nat) := []
  migs    : List Migration := []
  /-- device-side moves that wait for a lock, a floor entry or a stack: pages, PL, PLN, REQS (R109, R110, R387) -/
  waiting : List (List Nat × Nat × Nat × Nat) := []
  /-- cached translations: page number to leaf entry (R101) -/
  tlb     : Tbl (Option (Nat × Nat)) := []
  /-- pages whose ATS translations are cached, and pages requested (R111) -/
  ats     : List Nat := []
  pri     : List Nat := []
  /-- ATS invalidations that wait for a sector under way: first page, count (R111, R147) -/
  atsReq  : List (Nat × Nat) := []
  deriving DecidableEq, Repr

/-- A partition (R363). -/
structure Part where
  created : Bool := false
  /-- the clusters ASSIGN has given it, bit by cluster (R363, R390) -/
  clusters : Nat := 0
  fu      : FaultUnit := {}
  plogBase : Nat := 0
  plogHead : Nat := 0
  plogTail : Nat := 0
  plogLost : Nat := 0
  /-- placement log records that wait for their stack (R387) -/
  plogWait : List Nat := []
  placeCtl : Nat := 0x000F424000100001
  saveBase : Nat := 0
  saveSlots : Nat := 0
  trapBase : Nat := 0
  trapSeg  : Nat := 0
  /-- stream length and start map of the checked handler segment (R380) -/
  segLen   : Nat := 0
  segStarts : Nat := 0
  segStat  : Nat := 0
  winBase  : Nat := 0
  queues   : Tbl Queue := []
  watches  : Tbl Watch := []
  polAddr  : Nat := 0
  polOpen  : Nat := 0
  polRes   : Nat := 0
  polBusy  : Bool := false
  polCtr   : Nat := 0
  polExp   : Nat := 0
  polBlob  : Option (BitVec 512) := none
  policyKey : Option (BitVec 512) := none
  tdisp    : Tdisp := .unlocked
  config   : BitVec 512 := 0
  measPeriod : Nat := 60
  /-- fdb's breakpoints: LID, bundle position, and the gang and the strand it stops where it names them (R355, R359, R373, R374) -/
  breaks   : List (Nat × Nat × Option Nat × Option Nat) := []
  ideKey   : Option (BitVec 256) := none
  launches : List Launch := []
  bufTable : List BufRange := []
  records  : List OwedRecord := []
  saved    : List SavedSet := []
  /-- interrupts raised: vector numbers, newest first (R375) -/
  irqs     : List Nat := []
  groups   : List Group := []
  /-- the queue each PRIO serves next (R296) -/
  nextRR   : Tbl Nat := []
  /-- pre-emptions that wait for a save slot: cluster + 64 times why, 0 PRE, 1 sharing, 2 a thermal limit; and for whom: the waiting gang and
  its launch by position, 2^20 times the position and the gang, or the sharer (R301) -/
  deferred : List (Nat × Nat) := []
  /-- TIME of the last PLACEMENT_PERIOD (R299) -/
  placedAt : Nat := 0
  deriving DecidableEq, Repr

/-- A frame pool's registers (R393). -/
structure Pool where
  base : Nat := 0
  tail : Nat := 0
  head : Nat := 0
  deriving DecidableEq, Repr

/-- The housekeeping processor (R386 to R394). -/
structure Housekeeping where
  ready   : Nat := 0
  fail    : Nat := 0
  sensors : Tbl Word := []
  wear    : Tbl Word := []
  /-- limits in force (R389): throttled dies, throttled package, stopped dies, doubled and stopped stacks -/
  throttle : Tbl Bool := []
  pkgThrottle : Bool := false
  dieStop : Tbl Bool := []
  refresh2 : Tbl Bool := []
  stackStop : Tbl Bool := []
  arg0    : Word := 0
  arg1    : Word := 0
  /-- the status the command under way ends with -/
  result  : Nat := 0
  busy    : Bool := false
  /-- a command whose memory lies on a stack that is not ready (R387, R390) -/
  pend    : Option Nat := none
  /-- ready bits that a limit has cleared (R389) -/
  cooling : Nat := 0
  status  : Nat := 0
  logBase : Nat := 0
  logHead : Nat := 0
  logTail : Nat := 0
  sigBase : Nat := 0
  chain   : BitVec 512 := 0
  nextSeq : Nat := 1
  dropped : Nat := 0
  sinceCk : Nat := 0
  /-- log records that wait for their stack: KIND, SRC, DATA, TIME (R387) -/
  logWait : List (Nat × Nat × Nat × Nat) := []
  pools   : Tbl Pool := []
  fw      : Tbl Firmware := []
  deriving DecidableEq, Repr

/-- An SPDM session (R366). -/
structure Session where
  id    : Nat
  fn    : FnRef
  open_ : Bool := false
  key   : Nat := 0
  deriving DecidableEq, Repr

/-- A reply of the device to the outside world. -/
inductive Reply where
  | spdm (code : Nat) (data : List (BitVec 512))
  /-- a register, or bytes of memory with their poison, as fdb reads them; none while the policy has not opened DBG (R26, R373) -/
  | fdbReg (v : Option Nat)
  | fdbMem (v : Option (List Byte × Bool))
  | read (data : List Byte) (ep : Bool)
  | remote (data : List Byte) (ok poisoned : Bool)
  deriving DecidableEq, Repr

/-- A request the package sends over the host link (R100, R111): a read, a write, or a translation request; with the T bit in RUN (R368). -/
structure HostReq where
  part  : Nat
  va    : Nat
  n     : Nat
  bytes : List Byte := []
  wr    : Bool := false
  ats   : Bool := false
  t     : Bool
  deriving DecidableEq, Repr

/-- What a function asks of its device window (R375, R376). -/
inductive WinOp where
  | read (n : Nat) (noSnoop : Bool)
  | write (bytes : List Byte) (noSnoop : Bool)
  | atomic (n : Nat) (op : PcieAtomic) (a b : Word)
  /-- a posted write of BAR0, an event of the opcode table, behind posted writes of BAR2 that wait (R376) -/
  | reg (i : Instr)
  deriving DecidableEq, Repr

/-- A request of a function: offset in the window, operation, and the VA once no earlier posted write of the function waits. -/
structure WinReq where
  fn  : FnRef
  off : Nat
  op  : WinOp
  va  : Option Nat := none
  deriving DecidableEq, Repr

/-- What fdb reads of a strand (R26, R373): a register, a token, a control register, an element of its core's tiles, the fetch position, the
schedule clock, and of the dump's header the state, the region depth and the platform's occupancy. -/
inductive FdbReg where
  | g (i : Nat) | s (i : Nat) | v (i : Nat) | m (i : Nat) | q (i : Nat) | k (i : Nat) | cr (n : Nat)
  | y (tile row col : Nat) | pc | sclk | state | depth | plat
  deriving DecidableEq, Repr

/-- An operation of fdb under DBG (R26, R355, R359, R373): a breakpoint at a bundle of a launch, for one gang or one strand where it names
them; a register or memory of the strand in a context of a core. -/
inductive FdbOp where
  | break_ (lid pos : Nat) (gang strand : Option Nat) (on : Bool)
  | get (c x : Nat) (r : FdbReg)
  | set (c x : Nat) (r : FdbReg) (v : Nat)
  | read (c x : Nat) (at_ : Loc) (n : Nat)
  | write (c x : Nat) (at_ : Loc) (bytes : List Byte)
  deriving DecidableEq, Repr

/-- The Kryel processor (R364 to R374). -/
structure Kryel where
  meas     : Tbl (BitVec 512) := []
  sessions : List Session := []
  nextId   : Nat := 1
  draws    : Nat := 0
  /-- generation of each slot's keys; 0 is no key (R364) -/
  keyGen   : Tbl Nat := []
  gens     : Nat := 0
  /-- the PF's IDE key (R369) -/
  pfKey    : Option (BitVec 256) := none
  deriving DecidableEq, Repr

/-- An access of a mixed pair (R316): store or result `i` of a strand, or what part `n` of unit `i` of a core's engines touches next. -/
inductive Mix where
  | store (core ctx i : Nat)
  | result (core ctx i : Nat)
  | unit (core i n : Nat)
  deriving DecidableEq, Repr

/-- Who moves at a step (log 1). -/
inductive Turn where
  | issue (core : Nat)
  /-- a part of the next unit of an engine (R146, R304, R321): of a sector or a row, the next `n` of its elements that are read, then of those
  that it combines in place or of the bytes that it writes, a whole number of 16-byte pieces; such bytes of the matrix engine; `n` elements
  of a command of the channel queue -/
  | part (core i n : Nat)
  /-- the next `n` bytes of payload `i` under way reach their slot, a whole number of 16-byte pieces (R251, R304) -/
  | stage (i n : Nat)
  /-- the first `n` pieces of an access of a strand: store `i`, or with `load` result `i` (R304) -/
  | piece (core ctx i n : Nat) (load : Bool)
  /-- a mixed pair: the common bytes of the one access's write that `mask` selects, then the other access, then the rest of the write (R316) -/
  | mixed (a : Mix) (mask : Nat) (b : Mix)
  | event (i : Instr)
  /-- the device window tries the requests that wait (R376) -/
  | window
  /-- fdb asks something of a partition (R373, log 101) -/
  | fdb (p : Nat) (op : FdbOp)
  /-- a message of an SPDM session fails its integrity at the DOE mailbox of a function (R368, log 102) -/
  | doe (f : FnRef) (sess : Nat)
  | tick (n : Nat)
  deriving DecidableEq, Repr

/-- Main memory: a list of (address, byte) in canonical form. -/
abbrev Memory := List Host.Cell

/-- What a byte that nothing has written reads as (log 4). -/
def Memory.blank : Byte := 0

/-- The canonical form of main memory: rising addresses, and no byte equal to an unwritten one. -/
def Memory.wf (m : Memory) : Bool := twf Memory.blank m

/-- The package. -/
structure State where
  /-- the model's own: who moves next (log 1) -/
  agenda  : List Turn := []
  cur     : Nat := 0
  /-- the model's own: steps taken with an empty agenda (log 1) -/
  rota    : Nat := 0
  /-- index of the next free value (log 6) -/
  free    : Nat := 0
  /-- arithmetic clock (log 5) -/
  cy      : Nat := 0
  node    : Nat := 0
  hbm     : Memory := []
  lines   : Tbl LineMeta := []
  pmap    : Tbl Nat := []
  /-- by 4 MiB: changes of the map entry under a valid page entry, and uses as a save slot; what was not written since is undefined, after
  the first for the partitions that mapped it (R92, R301) -/
  remaps  : Tbl Remap := []
  l2      : Tbl (Option L2Line) := []
  uses    : Nat := 0
  scrub   : Tbl Scrub := []
  windows : Tbl (List DomWindow) := []
  frames  : Tbl Nat := []
  leases  : Tbl (Option Lease) := []
  cores   : Tbl Core := []
  clusters : Tbl Cluster := []
  parts   : Tbl Part := []
  flights : List Flight := []
  hk      : Housekeeping := {}
  kryel   : Kryel := {}
  /-- replies sent to the outside world, newest first -/
  replies : List Reply := []
  /-- requests sent over the host link, newest first -/
  dma     : List HostReq := []
  /-- window requests not yet performed, oldest first (R376, R387) -/
  win     : List WinReq := []
  /-- the last posted MIXCHECK pieces: cy, line, start, size, agent (R316) -/
  recent  : List (Nat × Nat × Nat × Nat × Nat) := []
  deriving DecidableEq, Repr

/-- The package right after reset (R25 and the Reset columns of the register tables; log 3), its firmware measured (R365). -/
def State.reset : State :=
  { hk := { fw := shipped, chain := measure (fwOf shipped 1).image }, kryel := { meas := bootMeas shipped } }

end Sys2Proof.Machine
end

