-- ==== Sys2Proof/Machine/Ops.lean ====
section
/-! DEFINITION. Named operations over the state: the agents' records, the registers of a strand, tokens, landing
writes, memory bytes. Register quirks (m0, the scalar frame) live here only (R167 to R169). -/

namespace Sys2Proof.Machine

/-! Records. -/

def State.core (s : State) (c : Nat) : Core := tget {} s.cores c
def State.setCore (s : State) (c : Nat) (k : Core) : State := { s with cores := tput {} s.cores c k }
def State.modCore (s : State) (c : Nat) (f : Core → Core) : State := s.setCore c (f (s.core c))
def Core.strand (k : Core) (x : Nat) : Strand := tget {} k.strands x
def Core.setStrand (k : Core) (x : Nat) (t : Strand) : Core := { k with strands := tput {} k.strands x t }
def State.strand (s : State) (c x : Nat) : Strand := (s.core c).strand x
def State.setStrand (s : State) (c x : Nat) (t : Strand) : State := s.setCore c ((s.core c).setStrand x t)
def State.modStrand (s : State) (c x : Nat) (f : Strand → Strand) : State := s.setStrand c x (f (s.strand c x))
def State.part (s : State) (p : Nat) : Part := tget {} s.parts p
def State.setPart (s : State) (p : Nat) (q : Part) : State := { s with parts := tput {} s.parts p q }
def State.modPart (s : State) (p : Nat) (f : Part → Part) : State := s.setPart p (f (s.part p))
def State.modFu (s : State) (p : Nat) (f : FaultUnit → FaultUnit) : State := s.modPart p (fun q => { q with fu := f q.fu })
def State.cluster (s : State) (c : Nat) : Cluster := tget {} s.clusters c
def State.modCluster (s : State) (c : Nat) (f : Cluster → Cluster) : State :=
  { s with clusters := tput {} s.clusters c (f (s.cluster c)) }

/-- TIME in ticks of 1 ns: two for every five arithmetic cycles (R2, log 5). -/
def State.time (s : State) : Nat := 2 * s.cy / 5

/-- The core whose port moves and its active context (R268). -/
def State.ctx (s : State) : Nat := ((s.core s.cur).active).getD 0
def State.me (s : State) : Strand := s.strand s.cur s.ctx
def State.setMe (s : State) (t : Strand) : State := s.setStrand s.cur s.ctx t
def State.modMe (s : State) (f : Strand → Strand) : State := s.modStrand s.cur s.ctx f

/-- The next free value's index (log 6). -/
def State.nextFree (s : State) : State := { s with free := s.free + 1 }

/-- Die and cluster of a core (R171, CID). -/
def dieOf (c : Nat) : Nat := c / 64
def clusterOf (c : Nat) : Nat := c / 4

/-- The launch record of a partition by LID: the youngest that bears it (R290). -/
def Part.launch (q : Part) (lid : Nat) : Option Launch := q.launches.reverse.find? (fun l => l.lid == lid)

/-- Changes the youngest launch that bears a LID. -/
def Part.modLaunch (q : Part) (lid : Nat) (f : Launch → Launch) : Part :=
  let r := q.launches.reverse
  match lfind (fun l => l.lid == lid) r with
  | none => q
  | some i => { q with launches := (lput r i (f (lget { lid := 0, queue := 0 } r i))).reverse }

def State.launch (s : State) (p lid : Nat) : Launch := ((s.part p).launch lid).getD { lid := lid, queue := 0 }
def State.modLaunch (s : State) (p lid : Nat) (f : Launch → Launch) : State := s.modPart p (fun q => q.modLaunch lid f)
def Launch.gang (l : Launch) (g : Nat) : Gang := tget {} l.gangs g
def State.modGang (s : State) (p lid g : Nat) (f : Gang → Gang) : State :=
  s.modLaunch p lid (fun l => { l with gangs := tput {} l.gangs g (f (l.gang g)) })

/-- A VA of 57 bits in its canonical 64-bit form (R101). -/
def canonVa (va : Nat) : Nat := va % 2 ^ 57 + (if bit va 56 then 2 ^ 64 - 2 ^ 57 else 0)

/-- A reply to the outside world. -/
def State.reply (s : State) (r : Reply) : State := { s with replies := r :: s.replies }

/-! Registers of a strand (R167). -/

/-- The register file's read of a scalar field: g, or the entry FB + i (R169). -/
def Strand.sreg (t : Strand) (f : SReg) : Word :=
  if f.toNat < 16 then tget 0 t.regs.g f.toNat else tget 0 t.regs.s (t.regs.fb + (f.toNat - 16))

/-- The logical entry an s field names now (R169); meaningless for g fields. -/
def Strand.entry (t : Strand) (f : SReg) : Nat := t.regs.fb + (f.toNat - 16)

/-- A landing write to a scalar field, tagged with its entry at issue (R169). -/
def Strand.wS (t : Strand) (f : SReg) (v : Word) : RegWrite :=
  if f.toNat < 16 then .g f.toNat v else .s f.toNat (t.entry f) v

def Strand.vreg (t : Strand) (f : VReg) : VWord := tget 0 t.regs.v f.toNat

/-- m0 reads as all ones (R167). -/
def Strand.mreg (t : Strand) (f : MReg) : MWord := if f = 0 then BitVec.allOnes 256 else tget 0 t.regs.m f.toNat

def Strand.qreg (t : Strand) (f : QReg) : QWord := tget 0 t.regs.q f.toNat

/-- Tok(k); encoding 0 names no token (R39). -/
def Strand.tok (t : Strand) (k : Nat) : Tok := tget .empty t.regs.k k

def Strand.setTok (t : Strand) (k : Nat) (v : Tok) : Strand :=
  if k = 0 then t else { t with regs := { t.regs with k := tput .empty t.regs.k k v } }

/-- The bit of a mask that governs element `e` of `bits`-wide elements (R168). -/
def maskBit (m : MWord) (bits e : Nat) : Bool := m.getLsbD (e * bits / 8)

/-! Lanes (R184). -/

/-- Lane `e` of a register of `w`-bit lanes. -/
def laneOf (v : VWord) (w e : Nat) : Nat := (v.toNat >>> (w * e)) % 2 ^ w

/-- The register whose lane `e` is `f e`, for `n` lanes of `w` bits. -/
def lanesBuild (w n : Nat) (f : Nat → Nat) : Nat :=
  (List.range n).foldl (fun a e => a ||| ((f e % 2 ^ w) <<< (w * e))) 0

/-- All ones in the lanes that `act` selects. -/
def lanesMask (w n : Nat) (act : Nat → Bool) : Nat := lanesBuild w n (fun e => if act e then 2 ^ w - 1 else 0)

/-- A landing write of the lanes that `act` selects (R185). -/
def wLanes (d : VReg) (w n : Nat) (act : Nat → Bool) (f : Nat → Nat) : RegWrite :=
  .v d.toNat (BitVec.ofNat 2048 (lanesBuild w n (fun e => if act e then f e else 0))) (BitVec.ofNat 2048 (lanesMask w n act))

/-! Bytes of a core's scratchpad (R159, R160). -/

def Core.spByte (k : Core) (a : Nat) : Byte := tget 0 k.sp a
def Core.spBytes (k : Core) (a n : Nat) : List Byte := (List.range n).map (fun i => k.spByte (a + i))

/-- Writes bytes; a row all of whose 16 bytes are written loses its poison (R160). -/
def Core.spWrite (k : Core) (a : Nat) (bs : List Byte) : Core :=
  let sp := (List.range bs.length).foldl (fun t i => tput 0 t (a + i) (lget 0 bs i)) k.sp
  let rows := (List.range (bs.length / 16 + 2)).map (fun i => a / 16 + i)
  let bad := rows.foldl (fun t r => if a ≤ 16 * r ∧ 16 * r + 16 ≤ a + bs.length then tput false t r false else t) k.spBad
  let soft := k.soft.filter (fun e => !(decide (a ≤ 8 * e.1) && decide (8 * e.1 + 8 ≤ a + bs.length)))
  { k with sp := sp, spBad := bad, soft := soft }

/-! Soft errors (R33, R126, R160). -/

/-- Keys of the marks of a core's dictionary and pool entries. -/
def dictKey (e : Nat) : Nat := 2 ^ 20 + e
def poolKey (e : Nat) : Nat := 2 ^ 21 + e

/-- Single-bit errors of a key, corrected and counted. -/
def Core.mend (k : Core) (key : Nat) : Core := { k with soft := tput 0 k.soft key 0, ecc := k.ecc + tget 0 k.soft key }

/-- A read of scratchpad corrects, writes back and counts the single-bit errors of the halves it reads (R160). -/
def Core.correct (k : Core) (a n : Nat) : Core :=
  ((k.soft.map (·.1)).filter (fun h => decide (8 * h < a + n) && decide (a < 8 * h + 8))).foldl Core.mend k

/-- The same on a core; nothing else of the state changes. -/
def State.correct (s : State) (c a n : Nat) : State := if (s.core c).soft = [] then s else s.modCore c (fun k => k.correct a n)

/-- Errors that strike a core: a double-bit error of scratchpad poisons its row (R160), the others are met when the word is read. -/
def Core.struck (k : Core) (es : List (Nat × Nat)) : Core :=
  es.foldl (fun k e =>
    if 8 * e.1 < Config.spBytes then
      (if e.2 < 2 then { k with soft := tput 0 k.soft e.1 e.2 } else { k with spBad := tput false k.spBad (e.1 / 2) true })
    else { k with soft := tput 0 k.soft e.1 e.2 }) k

/-- Soft errors strike a core (log 66). -/
def State.strike (s : State) (c : Nat) : State := (s.modCore c (fun k => k.struck (Config.softErrors s.free))).nextFree

/-- Notes the banks of a range that the device's own traffic uses (R162): `m` for spill, refill and undo traffic, which ranks with the M
slots, and not for the staging of payloads. -/
def Core.noteBanks (k : Core) (m : Bool) (a n : Nat) : Core :=
  if n = 0 then k
  else { k with dev := (k.dev ++ (List.range ((a % 16 + n + 15) / 16)).map (fun i => ((a / 16 + i) % 384, m))).eraseDups }

/-- The device writes bytes of a strand's spill or undo area. -/
def Core.devWrite (k : Core) (a : Nat) (bs : List Byte) : Core := (k.spWrite a bs).noteBanks true a bs.length

/-- Whether any row of a range is poisoned (R160). -/
def Core.spPoison (k : Core) (a n : Nat) : Bool :=
  k.spBad != [] && (List.range (n / 16 + 2)).any (fun i => decide (16 * (a / 16 + i) < a + n) && tget false k.spBad (a / 16 + i))

/-- Writes a run of bytes, each with the bits written and poison; a byte written in part keeps its row's poison. -/
def Core.spPut (k : Core) (a : Nat) (cs : List (Nat × Nat × Bool)) : Core :=
  let ix := List.range cs.length
  let old (i : Nat) : Nat := (k.spByte (a + i)).toNat
  let bs := ix.map (fun i => let c := lget (0, 0, false) cs i; BitVec.ofNat 8 ((old i &&& (255 ^^^ c.2.1)) ||| (c.1 &&& c.2.1)))
  let bad := ix.filter (fun i => let c := lget (0, 0, false) cs i; c.2.2 || (c.2.1 != 255 && k.spPoison (a + i) 1))
  let k := k.spWrite a bs
  { k with spBad := bad.foldl (fun t i => tput false t ((a + i) / 16) true) k.spBad }

def State.spRead64 (s : State) (c a : Nat) : Nat := bytesNat ((s.core c).spBytes a 8)

/-! Tiles (R226). -/

/-- Index of word (i, j) of tile y in a core's tile table. -/
def tileIx (y i j : Nat) : Nat := (y * 128 + i) * 128 + j

def Core.tile (k : Core) (y i j : Nat) : BitVec 32 := tget 0 k.tiles (tileIx y i j)
def Core.setTile (k : Core) (y i j : Nat) (v : BitVec 32) : Core := { k with tiles := tput 0 k.tiles (tileIx y i j) v }

/-- Clears a tile and both its bits (R227). -/
def Core.zeroTile (k : Core) (y : Nat) : Core :=
  { k with tiles := k.tiles.filter (fun e => e.1 / 16384 ≠ y), tPoison := tput false k.tPoison y false,
           tOver := tput false k.tOver y false }

/-! The scalar frame (R169). -/

/-- SetFrame (R169): spills or refills entries through the spill area, which ordinary access cannot reach. An entry that a refill
drops holds 0 when it is resident again (log 82). A refill corrects what it reads; of a poisoned row it reports UNCORRECTABLE at the next
boundary (R96, R160). -/
def setFrame (c : Nat) (f : Nat) (t : Strand) (s : State) : State × Strand :=
  let r := t.regs
  let base := t.ctl.spillBase
  if f + 48 > r.low + 192 then
    let n := f + 48 - 192 - r.low
    let s := s.modCore c (fun k => k.devWrite (base + 8 * r.low)
      ((List.range n).flatMap (fun i => natBytes 8 (tget 0 r.s (r.low + i)).toNat)))
    let keep := r.s.filter (fun e => decide (f + 48 - 192 ≤ e.1))
    (s, { t with regs := { r with s := keep, low := f + 48 - 192, fb := f } })
  else if f < r.low then
    let keep := r.s.filter (fun e => decide (e.1 ≤ f + 191))
    let filled := (List.range (r.low - f)).foldl (fun tb i =>
      tput 0 tb (f + i) (BitVec.ofNat 64 (s.spRead64 c (base + 8 * (f + i))))) keep
    let n := 8 * (r.low - f)
    let bad := (List.range (r.low - f)).find? (fun i => (s.core c).spPoison (base + 8 * (f + i)) 8)
    let t := match bad with
      | some i => { t with reports := t.reports ++ [(({ cause := .uncorrectable, aux := base + 8 * (f + i) } : Exc), t.bpos)] }
      | none => t
    ((s.correct c (base + 8 * f) n).modCore c (fun k => k.noteBanks true (base + 8 * f) n), { t with regs := { r with s := filled, low := f, fb := f } })
  else (s, { t with regs := { r with fb := f } })

/-- Lanes of a half-row that strands of a higher rank write in this cy (R206). -/
def Core.accTaken (k : Core) (cy rank at_ : Nat) : VWord :=
  k.accWr.foldl (fun m a => if a.1 = cy ∧ rank < a.2.1 ∧ a.2.2.1 = at_ then m ||| a.2.2.2 else m) 0

/-- ACC.WR reaches half-row `hr` of tile `y` (R205): of the strands that write an element in one cy the highest SID, then the highest
context, has it (R206). -/
def Core.accWrite (k : Core) (cy rank y hr : Nat) (v m : VWord) : Core :=
  let m := m &&& ~~~(k.accTaken cy rank (y * 256 + hr))
  let k := (List.range 64).foldl (fun k e =>
    if laneOf m 32 e = 0 then k else k.setTile y (hr % 128) (64 * (hr / 128) + e) (BitVec.ofNat 32 (laneOf v 32 e))) k
  { k with accWr := k.accWr.filter (fun a => a.1 == cy) ++ [(cy, rank, y * 256 + hr, m)] }

/-- Performs one landing write (R55, R169, R185): an entry below LOW lands in its spill slot, a dropped one nowhere. -/
def landWrite (c x : Nat) (w : RegWrite) (s : State) : State :=
  let t := s.strand c x
  let r := t.regs
  match w with
  | .g f v => s.setStrand c x { t with regs := { r with g := tput 0 r.g f v } }
  | .s _ e v =>
    if e < r.low then s.modCore c (fun k => k.devWrite (t.ctl.spillBase + 8 * e) (natBytes 8 v.toNat))
    else if e ≤ r.low + 191 then s.setStrand c x { t with regs := { r with s := tput 0 r.s e v } }
    else s
  | .v f v m => s.setStrand c x { t with regs := { r with v := tput 0 r.v f ((tget 0 r.v f &&& ~~~m) ||| (v &&& m)) } }
  | .m f v m =>
    if f = 0 then s
    else s.setStrand c x { t with regs := { r with m := tput 0 r.m f ((tget 0 r.m f &&& ~~~m) ||| (v &&& m)) } }
  | .q f img => s.setStrand c x { t with regs := { r with q := tput 0 r.q f img } }
  | .t y hr v m => s.modCore c (fun k => k.accWrite s.cy (4 * t.sid + x) y hr v m)

/-- The register a landing names: file and field (R58, R338). -/
def RegWrite.name : RegWrite → Nat × Nat
  | .g f _ => (0, f)
  | .s f _ _ => (1, f)
  | .v f _ _ => (if f < 32 then 2 else 3, f)
  | .m f _ _ => (6, f)
  | .q f _ => (7, f)
  | .t y _ _ _ => (4, y)

/-- The same register, an s register by its entry. -/
def RegWrite.same : RegWrite → RegWrite → Bool
  | .g a _, .g b _ => a == b
  | .s _ a _, .s _ b _ => a == b
  | .v a _ _, .v b _ _ => a == b
  | .m a _ _, .m b _ _ => a == b
  | .q a _, .q b _ => a == b
  | _, _ => false

/-! The outcome of a slot operation at issue. -/

/-- Whether a slot can issue (R38, R268); `load u h` is a freeze for a descriptor that store `u` does not hold (R114). -/
inductive Gate where
  | go | block | freeze
  | load (unit h : Nat)
  deriving DecidableEq, Repr

/-- What a slot operation does when it issues: the state after it, or the cause it raises (R62). -/
abbrev Res := Except Exc State

/-- A slot operation: its slot, how many results it puts under way, whether it can issue, and what it does. -/
structure SlotOp where
  slot : Nat
  results : Nat
  /-- it puts no result under way from this state, though others of its kind do -/
  spare : State → Bool := fun _ => false
  /-- the queue it takes an entry of: 1 the Shunter's, 2 the Kiln's, 0 none -/
  takes : Nat := 0
  gate : State → Gate
  run : State → Res

def ok (s : State) : Res := .ok s
def raise (slot : Nat) (c : Cause) (aux : Nat := 0) : Res := .error { cause := c, aux := aux, slot := slot }

/-- Puts a fixed-latency result under way (R55, R56). -/
def State.fixed (s : State) (slot lat : Nat) (ws : List RegWrite) : State :=
  let t := s.me
  let r : Result :=
    { issue := t.sclk, slot := slot, due := t.sclk + lat, issueCy := s.cy, lat := lat, seq := t.seq,
      epc := t.bpos, writes := ws, arrived := true }
  s.setMe { t with plat := { t.plat with results := t.plat.results ++ [r] } }

/-- Puts a variable-latency result under way (R56). -/
def State.variable (s : State) (slot lat : Nat) (ld : LoadOp) : State :=
  let t := s.me
  let r : Result :=
    { issue := t.sclk, slot := slot, due := t.sclk + lat, issueCy := s.cy, lat := lat, seq := t.seq,
      epc := t.bpos, load := some ld }
  s.setMe { t with seq := t.seq + 1, plat := { t.plat with results := t.plat.results ++ [r] } }

/-- A result is under way (R57): a fixed one until it completes in real time, a variable one until it arrives. -/
def Result.underWay (r : Result) (cy : Nat) : Bool := if r.load.isSome then !r.arrived else decide (cy < r.issueCy + r.lat)

/-- The results of a strand that are not landed: its own, those a trap put aside (R334), and the ATOMs that will not land (R319). -/
def Strand.flying (t : Strand) : List Result := t.plat.results ++ (t.handler.elim [] (·.plat.results)) ++ t.atoms

/-- An ATOM whose write is still to be performed. -/
def Result.owesWrite (r : Result) : Bool := !r.arrived && (match r.load with
  | some l => (match l.kind with | .atom .. => true | _ => false)
  | none => false)

/-- A command stands inside a unit: some of its elements have been read, combined or written (R147, R304). -/
def Cmd.mid (m : Cmd) : Bool := m.left != [] || m.taken != 0

/-- A command has changed memory inside the unit it stands in. -/
def Cmd.wrote (m : Cmd) : Bool := m.left != [] || m.rmw != 0

/-- Discards what the platform holds for a strand; an ATOM that has issued is still performed (R319). -/
def Strand.discard (t : Strand) : Strand := { t with plat := {}, atoms := t.atoms ++ t.plat.results.filter Result.owesWrite }

/-- Changes every such result. -/
def Strand.mapResults (t : Strand) (f : Result → Result) : Strand :=
  { t with plat := { t.plat with results := t.plat.results.map f },
           handler := t.handler.map (fun h => { h with plat := { h.plat with results := h.plat.results.map f } }),
           atoms := (t.atoms.map f).filter (fun r => !r.arrived) }

/-- Order counts of the strand's accesses that are not performed. -/
def Strand.openSeqs (t : Strand) : List Nat :=
  t.stores.map (·.seq) ++ (t.flying.filter (fun r => r.load.isSome && !r.arrived)).map (·.seq)

/-- An access that a later one was performed before is still open (R307). -/
def Strand.passing (t : Strand) : Bool := t.passed.any (fun a => t.openSeqs.contains a.1)

/-- A store with elements that wait on a fault record (R102). -/
def Store.parked (r : Store) : Bool := r.pieces.any (·.fault.isSome)

/-- Elements of a store that wait on a record try again. -/
def Store.retry (r : Store) (key : Nat) : Store :=
  { r with pieces := r.pieces.map (fun q => if q.fault = some key then { q with fault := none } else q) }

/-- Elements of a store that wait on a record are given up; none where nothing of the store is left. -/
def Store.giveUp (r : Store) (key : Nat) : Option Store :=
  let rest := r.pieces.filter (fun q => q.fault != some key)
  if rest = [] ∧ r.pieces ≠ [] then none else some { r with pieces := rest }

/-- Results under way of a strand (R57), those of the program that a trap interrupted among them. -/
def Strand.underWay (t : Strand) (cy : Nat) : Nat :=
  ((t.plat.results ++ t.handler.elim [] (·.plat.results)).filter (fun r => r.underWay cy)).length

/-- Results that a slot puts under way from a state. -/
def SlotOp.puts (o : SlotOp) (s : State) : Nat := if o.spare s then 0 else o.results

end Sys2Proof.Machine
end

