-- ==== Sys2Proof/Machine/Operands.lean ====
section
/-! DEFINITION. Operand forms: pattern registers (R122 to R124), tensor descriptors and their index mapping (R114 to
R121, R127, R128), the address forms of the M slot with their checks (R161, R165, R179), and the span rules of copies
(R149). -/

namespace Sys2Proof.Machine

/-! Pattern images (R122). -/

def qBase (q : Nat) : Nat := fld q 511 448
def qLim (q : Nat) : Nat := fld q 447 384
def qKind (q : Nat) : Nat := fld q 383 382
def qAs (q : Nat) : Nat := fld q 381 379
def qNdim (q : Nat) : Nat := fld q 378 376
def qEs (q : Nat) : Nat := fld q 375 373
def qHandle (q : Nat) : Nat := fld q 372 361
def qHreg (q : Nat) : Bool := bit q 360
def qStart (q : Nat) : Nat := fld q 359 320
def qExt (q d : Nat) : Nat := fld q (64 * d + 63) (64 * d + 40) + 1
def qStr (q d : Nat) : Int := sext 40 (fld q (64 * d + 39) (64 * d))

/-- An image with one field replaced. -/
def qPut (q hi lo v : Nat) : Nat := q - fld q hi lo * 2 ^ lo + (v % 2 ^ (hi + 1 - lo)) * 2 ^ lo

/-- ES in bytes, 1 for the half-byte code (R123). -/
def qSize (q : Nat) : Nat := if qEs q = 0 then 1 else 2 ^ (qEs q - 1)

/-- Element width in bits. -/
def qBits (q : Nat) : Nat := 4 * 2 ^ qEs q

/-- Count (R123). -/
def qCount (q : Nat) : Nat := (List.range (qNdim q)).foldl (fun a d => a * qExt q d) 1

/-- PatOff (R123). -/
def patOffGo (q : Nat) : Nat → Nat → Nat → Int → Int
  | 0, _, _, o => o
  | n + 1, d, e, o => patOffGo q n (d + 1) (e / qExt q d) (o + ((e % qExt q d : Nat) : Int) * qStr q d)

def patOff (q e : Nat) : Int := patOffGo q (qNdim q) 0 e (qStart q)

/-- Least and greatest PatOff. -/
def patLeast (q : Nat) : Int :=
  (List.range (qNdim q)).foldl (fun a d => a + min 0 (((qExt q d - 1 : Nat) : Int) * qStr q d)) (qStart q)
def patGreatest (q : Nat) : Int :=
  (List.range (qNdim q)).foldl (fun a d => a + max 0 (((qExt q d - 1 : Nat) : Int) * qStr q d)) (qStart q)

/-- A dimension with stride 0 and extent above 1 (R128). -/
def zeroStride (q : Nat) : Bool := (List.range (qNdim q)).any (fun d => qStr q d == 0 && decide (1 < qExt q d))

/-- Whether an image is contiguous (R149). -/
def contiguous (q : Nat) : Bool :=
  qKind q == 1 &&
  ((List.range (qNdim q)).foldl (fun (a : Bool × Nat) d =>
    let step : Int := if qEs q = 0 then 1 else (qSize q : Int)
    (a.1 && (qExt q d == 1 || qStr q d == (a.2 : Int) * step), a.2 * qExt q d)) (true, 1)).1

/-- An image a register may hold after a QLD (R131). -/
def imageOk (q : Nat) : Bool :=
  decide (qKind q < 3) && decide (qAs q < 3) && decide (1 ≤ qNdim q) && decide (qNdim q ≤ 5) && decide (qEs q < 6) &&
  !qHreg q && (qKind q != 1 || qHandle q == 0) && (qKind q != 2 || qAs q == 0) &&
  (List.range 5).all (fun d => decide (d < qNdim q) || fld q (64 * d + 63) (64 * d) == 0)

/-! Descriptors (R115). -/

def dPad (d : Nat) : Nat := fld d 511 480
def dSegPages (d : Nat) : Nat := fld d 479 448
def dSegBase (d : Nat) : Nat := fld d 447 407
def dExt (d i : Nat) : Nat := fld d (24 * i + 263) (24 * i + 240) + 1
def dClass (d g : Nat) : Nat := fld d (4 * g + 211) (4 * g + 208)
def dGroup (d i : Nat) : Nat := fld d (3 * i + 192) (3 * i + 190)
def dBs (d : Nat) : Nat := fld d 15 14
def dLayout (d : Nat) : Nat := fld d 13 12
def dRank (d : Nat) : Nat := fld d 11 9
def dEfmt (d : Nat) : Nat := fld d 8 4

def dTy (d : Nat) : Ty := (tyOf (BitVec.ofNat 5 (dEfmt d))).getD .b8

/-- Width code of a type as ES codes it. -/
def tyEs (t : Ty) : Nat := match t.bits with
  | 4 => 0 | 8 => 1 | 16 => 2 | 32 => 3 | _ => 4

/-- C(a, m), 0 when a < m (R118). -/
def choose : Nat → Nat → Nat
  | _, 0 => 1
  | 0, _ + 1 => 0
  | a + 1, m + 1 => choose' a m
where
  /-- C(a + 1, m + 1) for the small m of a group, by products. -/
  choose' (a m : Nat) : Nat :=
    if a < m then 0 else
    match m with
    | 0 => a + 1
    | 1 => (a + 1) * a / 2
    | 2 => (a + 1) * a * (a - 1) / 6
    | _ => (a + 1) * a * (a - 1) * (a - 2) / 24

/-- Members of a group in index order. -/
def dMembers (d g : Nat) : List Nat := (List.range (dRank d)).filter (fun i => dGroup d i == g)

/-- A unit of the layout (R118): its class and its indices. -/
structure Unit_ where
  cls : Nat
  ix  : List Nat
  deriving DecidableEq, Repr

/-- The units in layout order: an index opens its unit where no earlier member did. -/
def dUnits (d : Nat) : List Unit_ :=
  (List.range (dRank d)).filterMap (fun i =>
    let g := dGroup d i
    if dClass d g = 0 then some { cls := 0, ix := [i] }
    else if (dMembers d g).head? = some i then some { cls := dClass d g, ix := dMembers d g }
    else none)

/-- Block size of BLOCK_PACKED (R115). -/
def dBlock (d : Nat) : Nat := 32 * 2 ^ dBs d

/-- Whether a unit is the block pair of R120. -/
def isPair (d : Nat) (u : Unit_) : Bool := dLayout d == 1 && (u.cls == 1 || u.cls == 2)

/-- UnitCount (R117, R120). -/
def unitCount (d : Nat) (u : Unit_) : Nat :=
  let n := dExt d (u.ix.headD 0)
  let k := u.ix.length
  if isPair d u then
    let nb := n / dBlock d
    nb * (nb + 1) / 2 * (dBlock d * dBlock d)
  else match u.cls with
    | 1 => choose (n + k - 1) k
    | 2 => choose n k
    | 3 => n
    | 4 => (n + 1) / 2
    | 5 => n / 2
    | _ => n

/-- Inserts into a sorted list, counting how many entries it passes. -/
def insertCount (x : Nat) : List Nat → List Nat × Nat
  | [] => ([x], 0)
  | y :: r => if y < x then let (l, n) := insertCount x r; (y :: l, n + 1) else (x :: y :: r, 0)

/-- The list sorted, with the parity of the sort. -/
def sortParity : List Nat → List Nat × Nat
  | [] => ([], 0)
  | x :: r =>
    let (l, p) := sortParity r
    let (l', n) := insertCount x l
    (l', p + n)

/-- UnitCanon and UnitCanonBlock (R118, R120): offset, sign is -1, forced zero. -/
def unitCanon (d : Nat) (u : Unit_) (c : List Nat) : Nat × Bool × Bool :=
  let n := dExt d (u.ix.headD 0)
  let cs := u.ix.map (fun i => lget 0 c i)
  let a := lget 0 cs 0
  let z := lget 0 cs 1
  if isPair d u then
    let b := dBlock d
    if u.cls = 2 ∧ a = z then (0, false, true)
    else
      let swap := decide (z / b < a / b)
      let (x, y) := if swap then (z, a) else (a, z)
      let blk := x / b + y / b * (y / b + 1) / 2
      (blk * b * b + x % b * b + y % b, swap && u.cls == 2, false)
  else match u.cls with
    | 1 =>
      let s := (sortParity cs).1
      ((List.range s.length).foldl (fun t m => t + choose (lget 0 s m + m) (m + 1)) 0, false, false)
    | 2 =>
      let (s, p) := sortParity cs
      if s.eraseDups.length ≠ s.length then (0, false, true)
      else ((List.range s.length).foldl (fun t m => t + choose (lget 0 s m) (m + 1)) 0, decide (p % 2 = 1), false)
    | 3 => ((z + n - a) % n, false, false)
    | 4 => (min a (n - 1 - a), false, false)
    | 5 => if 2 * a = n - 1 then (0, false, true) else (min a (n - 1 - a), decide (n - 1 - a < a), false)
    | _ => (a, false, false)

/-- Canon (R118). -/
def canon (d : Nat) (c : List Nat) : Nat × Bool × Bool :=
  let r := (dUnits d).foldl (fun (a : Nat × Bool × Bool) u =>
    let (uo, us, uz) := unitCanon d u c
    (a.1 * unitCount d u + uo, xor a.2.1 us, a.2.2 || uz)) (0, false, false)
  if r.2.2 then (0, false, true) else r

def factorial : Nat → Nat
  | 0 => 1
  | n + 1 => (n + 1) * factorial n

/-- Multiplicity of a unit at a coordinate (R117). -/
def unitMult (d : Nat) (u : Unit_) (c : List Nat) : Nat :=
  let n := dExt d (u.ix.headD 0)
  let cs := u.ix.map (fun i => lget 0 c i)
  match u.cls with
  | 1 => factorial cs.length / cs.eraseDups.foldl (fun p v => p * factorial (cs.count v)) 1
  | 2 => factorial cs.length
  | 3 => n
  | 4 => if 2 * lget 0 cs 0 = n - 1 then 1 else 2
  | 5 => 2
  | _ => 1

/-- OrbitMult (R119). -/
def orbitMult (d : Nat) (c : List Nat) : Nat :=
  if (canon d c).2.2 then 0 else (dUnits d).foldl (fun p u => p * unitMult d u c) 1

/-- Product of the extents. -/
def dSize (d : Nat) : Nat := (List.range (dRank d)).foldl (fun a i => a * dExt d i) 1

/-- Stored size in bytes (R121). -/
def dBytes (d : Nat) : Nat := cdiv ((dUnits d).foldl (fun a u => a * unitCount d u) 1 * (dTy d).bits) 8

/-- The checks of R116. -/
def descOk (d : Nat) : Bool :=
  let groups := List.range 8
  let fits (g : Nat) : Bool :=
    let ms := dMembers d g
    let same := ms.all (fun i => dExt d i == dExt d (ms.headD 0))
    match dClass d g with
    | 0 => true
    | 1 | 2 => decide (2 ≤ ms.length) && decide (ms.length ≤ 4) && same
    | 3 => ms.length == 2 && same
    | 4 | 5 => ms.length == 1
    | _ => false
  let signed := !(dTy d == .e2m1 || [12, 13, 14, 15, 16, 17, 18].contains (dEfmt d))
  bit d 0 && fld d 3 1 == 0 && fld d 189 16 == 0 && fld d 406 384 == 0 &&
  decide (1 ≤ dRank d) && decide (dRank d ≤ 6) &&
  (List.range 6).all (fun i => decide (i < dRank d) || (dExt d i == 1 && dGroup d i == 0)) &&
  decide (dEfmt d ≤ 18) && dEfmt d != 2 &&
  groups.all (fun g => if (dMembers d g).isEmpty then dClass d g == 0 else fits g) &&
  groups.all (fun g => (dClass d g != 2 && dClass d g != 5) || signed) &&
  decide (dLayout d < 2) && decide (dBs d < 3) &&
  (if dLayout d = 0 then dBs d == 0
   else
    (match groups.filter (fun g => dClass d g != 0) with
     | [g] => (dClass d g == 1 || dClass d g == 2) && (dMembers d g).length == 2 &&
        decide (dExt d ((dMembers d g).headD 0) % dBlock d = 0)
     | _ => false)) &&
  decide (dSize d ≤ 2 ^ 63) && decide (1 ≤ dSegPages d) && decide (dBytes d ≤ dSegPages d * 65536)

/-- The coordinates of a logical linear index (R123): index RANK-1 fastest. -/
def coordsGo (d : Nat) : Nat → Nat → List Nat → List Nat
  | 0, _, acc => acc
  | i + 1, l, acc => coordsGo d i (l / dExt d i) ((l % dExt d i) :: acc)

def coords (d l : Nat) : List Nat := coordsGo d (dRank d) l []

/-- The entry of a descriptor store for a handle (R114): the layout unit's (0), the Shunter's (1), the Kiln's (2). -/
def Core.desc (k : Core) (unit p tt h : Nat) : Option Nat :=
  (k.descs.find? (fun e => e.unit == unit && e.part == p && e.tt == tt && e.h == h)).map (·.img.toNat)

/-- The descriptor a bundle of the running strand names. -/
def State.myDesc (s : State) (unit h : Nat) : Option Nat := (s.core s.cur).desc unit s.me.part s.me.ctl.ttbase h

/-- The freeze of a descriptor store miss (R114); a handle past TTCOUNT and a read that met poison go on to their cause. -/
def descGate (unit h : Nat) (s : State) : Gate :=
  let t := s.me
  if t.ctl.ttcount ≤ h then .go
  else if (s.myDesc unit h).isSome then .go
  else if t.wantBad.any (fun b => b.1 == h) then .go
  else .load unit h

/-- The descriptor of a handle, or the cause of R114. -/
def State.needDesc (s : State) (slot unit h : Nat) : Except Exc Nat :=
  let t := s.me
  if t.ctl.ttcount ≤ h then .error { cause := .access, aux := t.ctl.ttbase + 64 * h, slot := slot }
  else match s.myDesc unit h with
    | some d => if descOk d then .ok d else .error { cause := .reservedField, slot := slot }
    | none =>
      match t.wantBad.find? (fun b => b.1 == h) with
      | some (_, va) => .error { cause := .uncorrectable, aux := va, slot := slot }
      | none => .error { cause := .access, slot := slot }

/-! Address checks of the M slot. -/

/-- The protected ranges of a core (R161): spill and undo areas of its resident strands, mapped stash windows. -/
def Core.protected_ (k : Core) : List (Nat × Nat) :=
  (k.strands.foldl (fun l e =>
    if e.2.resident then (e.2.ctl.spillBase, e.2.ctl.spillSize) :: (e.2.ctl.regionBase, e.2.ctl.regionSize) :: l else l) []) ++
  (k.stash.filterMap (fun e => if e.2.mapped then some (e.2.base, e.2.len) else none))

def meets (a n : Nat) (r : Nat × Nat) : Bool := decide (r.2 ≠ 0) && decide (a < r.1 + r.2) && decide (r.1 < a + n)

/-- Whether a scratchpad range touches a protected one. -/
def Core.guarded (k : Core) (a n : Nat) : Bool := k.protected_.any (meets a n)

/-- The core a CL address names, from a core of the cluster (R165). -/
def clCore (me x : Nat) : Nat := clusterOf me * 4 + fld x 22 21

/-- Partition that holds a core: the one of its cluster. -/
def State.partOf (s : State) (c : Nat) : Option Nat := (s.cluster (clusterOf c)).part

/-- The checks of a space at issue (R179, R165), with the place of the access. -/
def State.space (s : State) (slot as_ x n : Nat) : Except Exc Loc :=
  let bad : Exc := { cause := .access, aux := x, slot := slot }
  match as_ with
  | 0 =>
    if Config.spBytes < x + n then .error bad
    else if (s.core s.cur).guarded x n then .error bad
    else .ok (.sp s.cur x)
  | 2 =>
    if x / 2 ^ 23 ≠ 0 then .error bad
    else if Config.spBytes < fld x 20 0 + n then .error bad
    else if s.partOf (clCore s.cur x) ≠ some s.me.part then .error bad
    else .ok (.sp (clCore s.cur x) (fld x 20 0))
  | _ =>
    if fld x 63 57 ≠ (if bit x 56 then 127 else 0) ∨ fld (x + n - 1) 64 57 ≠ (if bit (x + n - 1) 56 then 127 else 0) then .error bad
    else .ok (.gl x)

/-- MAddr (R179): alignment, then the space. -/
def State.mAddr (s : State) (slot as_ x n : Nat) : Except Exc Loc :=
  if x % n ≠ 0 then .error { cause := .align, aux := x, slot := slot } else s.space slot as_ x n

def spaceNat : Space → Nat
  | .sp => 0 | .gl => 1 | .cl => 2

def sizeNat : Size → Nat
  | .b1 => 1 | .b2 => 2 | .b4 => 4 | .b8 => 8 | .b16 => 16

/-- The address register plus a signed offset, modulo 2^64 (R179). -/
def Strand.addr (t : Strand) (a : SReg) (off : BitVec 18) : Nat := (t.sreg a + off.signExtend 64).toNat

/-- PatAddr of a byte-form pattern (R123): address and nibble, none outside the window. -/
def patByte (q e : Nat) : Option (Nat × Nat) :=
  let o := patOff q e
  if o < 0 then none
  else if qEs q = 0 then
    (if qLim q < o.toNat / 2 + 1 then none else some ((qBase q + o.toNat / 2) % 2 ^ 64, o.toNat % 2))
  else if qLim q < o.toNat + qSize q then none
  else some ((qBase q + o.toNat) % 2 ^ 64, 0)

/-- PatAddr of a tensor-form pattern (R123): the coordinates, none outside the window. -/
def patTensor (d q e : Nat) : Option (List Nat) :=
  let o := patOff q e
  if o < 0 then none
  else
    let l := qBase q + o.toNat
    if qLim q ≤ o.toNat ∨ dSize d ≤ l then none else some (coords d l)

/-- Whether an element of a tensor-form pattern is a forced zero, in the window or not (R133). Past the tensor's extents there is no
element (R123). -/
def patZero (d q e : Nat) : Bool :=
  let l := (qBase q : Int) + patOff q e
  decide (0 ≤ l) && decide (l.toNat < dSize d) && (canon d (coords d l.toNat)).2.2

/-- The virtual address of a tensor's segment (R101, R121). -/
def dBase (d : Nat) : Nat := canonVa (dSegBase d * 65536)

/-- Where a stored element lies (R121): byte address and nibble. -/
def dAddr (d off : Nat) : Nat × Nat :=
  let w := (dTy d).bits
  if w = 4 then (dBase d + off / 2, off % 2) else (dBase d + off * (w / 8), 0)

/-- The sign of R127 applied to a stored element. -/
def applySign (t : Ty) (v : Nat) : Nat :=
  if t.isFloat then (if isNan (decodeF false t v) then v else v ^^^ 2 ^ (t.bits - 1))
  else if t.isSigned then wrap t.bits (satI (-(decodeI t v)) t)
  else v

/-- A value that is +0, -0 or integer 0 (R128). -/
def isZeroElem (t : Ty) (v : Nat) : Bool :=
  let v := v % 2 ^ t.bits
  v == 0 || (t.isFloat && v == 2 ^ (t.bits - 1))

/-! Copy spans (R149). -/

/-- The span of a pattern: space (scratchpad of a core, or GL), start, end. -/
def State.span (me q : Nat) (d : Option Nat) : Nat × Nat × Nat :=
  match d with
  | some d => (1000, dBase d, dBase d + dSegPages d * 65536)
  | none =>
    let lo := patLeast q
    let hi := patGreatest q
    let (a, b) := if qEs q = 0 then (qBase q + (lo.toNat / 2), qBase q + (hi.toNat / 2) + 1)
      else (qBase q + lo.toNat, qBase q + hi.toNat + qSize q)
    match qAs q with
    | 0 => (me, a, b)
    | 2 => (clCore me a, a % 2 ^ 21, a % 2 ^ 21 + (b - a))
    | _ => (1000, a, b)

/-- The outcome of OverlapCheck. -/
inductive Overlap where
  | ordinary | memmove | refused
  deriving DecidableEq, Repr

def overlap (me qd qs : Nat) (dd ds : Option Nat) : Overlap :=
  let (xd, ad, bd) := State.span me qd dd
  let (xs, as_, bs) := State.span me qs ds
  if xd ≠ xs then .ordinary
  else if bd ≤ as_ ∨ bs ≤ ad then .ordinary
  else if contiguous qd ∧ contiguous qs then .memmove
  else .refused

/-! Lines of scratchpad an engine command writes (R279). -/

/-- The 128-byte lines of the scratchpad range of a byte-form destination: core and line. -/
def spLines (me q : Nat) : List (Nat × Nat) :=
  if qKind q = 1 ∧ qAs q ≠ 1 then
    let (c, a, b) := State.span me q none
    (List.range ((b - a) / 128 + 2)).filterMap (fun i => if 128 * (a / 128 + i) < b then some (c, a / 128 + i) else none)
  else []

end Sys2Proof.Machine
end

