-- ==== Sys2Proof/Machine/Flags.lean ====
section
/-! DEFINITION. Conditions and the one flag: the scalar conditions of R42, the vector conditions of R190 and R195,
and STATUS.CF (R58, R172). -/

namespace Sys2Proof.Machine

/-- a cc b on scalar registers (R42): signed for codes 0 to 5, natural for 6 to 9. -/
def ccHolds (cc : CC) (a b : Word) : Bool :=
  match cc with
  | .eq => a == b
  | .ne => a != b
  | .lt => a.slt b
  | .ge => !a.slt b
  | .le => !b.slt a
  | .gt => b.slt a
  | .ltn => a.ult b
  | .gen => !a.ult b
  | .len => !b.ult a
  | .gtn => b.ult a

/-- A comparison of two floating values (R190): only ne and un hold on a NaN; -0 equals +0. -/
def fccHolds (cc : VCC) (a b : Num) : Bool :=
  let un := isNan a || isNan b
  match cc with
  | .eq => eqN a b
  | .ne => un || !eqN a b
  | .lt => ltN a b
  | .ge => !un && !ltN a b
  | .le => !un && !ltN b a
  | .gt => ltN b a
  | .un => un
  | .ord => !un

/-- A comparison of two integers (R197). -/
def iccHolds (cc : VCC) (a b : Int) : Bool :=
  match cc with
  | .eq => a == b
  | .ne => a != b
  | .lt => decide (a < b)
  | .ge => decide (b ≤ a)
  | .le => decide (a ≤ b)
  | .gt => decide (b < a)
  | .un => false
  | .ord => true

/-- STATUS as a word (R172). -/
def Ctl.status (c : Ctl) : Word := if c.cf then 1 else 0

/-- Sets STATUS.CF, which stays set (R58). -/
def Strand.setCF (t : Strand) : Strand := { t with ctl := { t.ctl with cf := true } }

/-- Whether two of a list of landing writes name one register (R58). -/
def twice (ws : List RegWrite) : Option RegWrite :=
  match ws with
  | [] => none
  | w :: r => if r.any (fun x => w.same x) then some w else twice r

end Sys2Proof.Machine
end

