-- ==== Sys2Proof/Machine/Memory.lean ====
section
/-! DEFINITION. Main memory as the agents reach it: homes and page walks (R91 to R101), key slots, tags and poison
(R94 to R96), the L2 with leases and stash windows (R134 to R142, R317), watchpoint hits (R343), request counters
(R112). -/

namespace Sys2Proof.Machine

/-- How an access uses a page (R101). -/
inductive Use where
  | r | w | x | rw
  deriving DecidableEq, Repr

def Use.writes : Use → Bool
  | .w | .rw => true
  | _ => false

/-- The home of a PA: die, stack, slice (R93). -/
def home (pa pl pln : Nat) : Nat × Nat × Nat :=
  let slice := (fld pa 14 7 ^^^ fld pa 22 15) ^^^ fld pa 30 23
  if pl = 0 then
    let die := ((fld pa 13 12 ^^^ fld pa 21 20) ^^^ fld pa 29 28) ^^^ fld pa 37 36
    (die, 3 * die + fld pa 33 14 % 3, slice)
  else if pl = 1 then (pln % 4, 3 * (pln % 4) + fld pa 33 14 % 3, slice)
  else (pln / 3, pln, slice)

/-- First PA past HBM (R91). -/
def hbmEnd : Nat := 0x9000000000

/-- A PA that names HBM. -/
def isHbm (pa : Nat) : Bool := decide (pa < hbmEnd)

/-- What has made the 4 MiB of a PA undefined. -/
def State.remap (s : State) (pa : Nat) : Remap := tget {} s.remaps (pa / 2 ^ 22)

/-- How often the 4 MiB of a PA have become undefined: by a change of the region's map entry (R92), as a save slot (R301). -/
def State.remapOf (s : State) (pa : Nat) : Nat := (s.remap pa).n

/-- The last save that has overwritten what stands since count `m`, for every reader (R301). -/
def Remap.saved (r : Remap) (m : Nat) : Option Nat := (r.saves.find? (fun e => decide (m < e.1))).map (·.1)

/-- The last change of the map that has made what stands since count `m` undefined for a partition that reads (R92). -/
def Remap.lost (r : Remap) (m rd : Nat) : Option Nat := (r.maps.find? (fun e => decide (m < e.1) && e.2.contains rd)).map (·.1)

/-- The count that a 64-byte half of HBM stands after. -/
def State.since (s : State) (h : Nat) : Nat := let m := (tget {} s.lines h).map; ((s.remap (64 * h)).saved m).getD m

/-- What a 64-byte half's metadata holds. A save slot stands under its partition's key slot, without poison, where it has not been written
since (R287, R301). -/
def State.metaOf (s : State) (h : Nat) : LineMeta :=
  let m := tget {} s.lines h
  match (tget {} s.remaps (h / 2 ^ 16)).saves.find? (fun e => decide (m.map < e.1)) with
  | some e => { slot := some e.2, poison := false, map := m.map }
  | none => m

/-- A byte of HBM as it stands; undefined where a save has overwritten it since it was written (R301, log 53). -/
def State.hbmByte (s : State) (pa : Nat) : Byte :=
  match (s.remap pa).saved (tget {} s.lines (pa / 64)).map with
  | none => tget Memory.blank s.hbm pa
  | some n => Config.remapByte n pa

/-- A byte as a partition reads it behind the L2: undefined where a change of the map has lost it to that partition since (R92, log 77). -/
def State.hbmSeen (s : State) (rd pa : Nat) : Byte :=
  match (s.remap pa).lost (s.since (pa / 64)) rd with
  | none => s.hbmByte pa
  | some n => Config.remapByte n pa

/-- A line's halves in `mask` as a partition sees them: bytes that a change of the map has lost to it are undefined (R92, log 77). -/
def State.seen (s : State) (ln rd : Nat) (l : L2Line) (mask : Nat := 3) : L2Line :=
  let r := s.remap (ln * 128)
  if r.maps.isEmpty then l
  else
    let half (i m : Nat) (l : L2Line) : L2Line :=
      match (if mask.testBit i then r.lost m rd else none) with
      | none => l
      | some n =>
        let bs := (List.range 64).map (fun j => Config.remapByte n (ln * 128 + 64 * i + j))
        { l with data := BitVec.ofNat 1024 ((l.data.toNat &&& ((2 ^ 512 - 1) <<< (512 * (1 - i)))) ||| (bytesNat bs <<< (512 * i))),
                 map := if i = 0 then (n, l.map.2) else (l.map.1, n) }
    half 1 l.map.2 (half 0 l.map.1 l)

/-- A byte as every agent sees it now (R136), without a trace; without a reader, as it stands. -/
def State.peek (s : State) (pa : Nat) (rd : Option Nat := none) : Byte :=
  let view (l : L2Line) : L2Line := rd.elim l (fun p => s.seen (pa / 128) p l)
  match tget none s.l2 (pa / 128) with
  | none => rd.elim (s.hbmByte pa) (fun p => s.hbmSeen p pa)
  | some l =>
    match l.owner with
    | .stash c w ln =>
      let st := tget {} (s.core c).stash w
      if (tget none st.lines ln).isSome then (s.core c).spByte (st.base + 128 * ln + pa % 128)
      else (view l).data.extractLsb' (8 * (pa % 128)) 8
    | _ => (view l).data.extractLsb' (8 * (pa % 128)) 8

/-- A word as an agent that reads under a slot sees it. -/
def State.peek64 (s : State) (rd pa : Nat) : Nat := bytesNat ((List.range 8).map (fun i => s.peek (pa + i) (some rd)))

/-- The stack on which a PA is homed under the placement map (R93). -/
def State.stackOf (s : State) (pa : Nat) : Nat := let b := tget 0 s.pmap (pa / 2 ^ 30); (home pa (fld b 7 5) (fld b 3 0)).2.1

/-- The stack has failed: every access to a frame on it completes poisoned (R387). -/
def State.stackFailed (s : State) (stack : Nat) : Bool := bit s.hk.fail (8 + stack)

/-- The generation of a slot's keys (R364). -/
def State.gen (s : State) (slot : Nat) : Nat := tget 0 s.kryel.keyGen slot

/-- Counts one event in a stack's scrub log (R97): 1 CE, 2 UE, 3 TAG_FAIL. -/
def State.scrubCount (s : State) (stack kind slot pa : Nat) : State :=
  let r := tget {} s.scrub stack
  let up (n : Nat) : Nat := min (n + 1) (2 ^ 32 - 1)
  let r := { r with last := kind * 2 ^ 56 + slot * 2 ^ 50 + pa }
  let r := if kind = 1 then { r with ce := up r.ce } else if kind = 2 then { r with ue := up r.ue } else { r with tagf := up r.tagf }
  { s with scrub := tput {} s.scrub stack r }

/-- Reads one 64-byte half from HBM under a slot (R95): its poison after the checks. `quiet`: other parts of the access write the rest of it,
so that it is not read. -/
def State.readHalf (s : State) (h slot stack : Nat) (quiet : Bool := false) : State × Bool :=
  let m := s.metaOf h
  if m.poison then (s, true)
  else match m.slot with
    | none => (s, false)
    | some sg =>
      if sg = (slot, s.gen slot) then (s, false)
      else if quiet then (s, true)
      else
        let s := { s with lines := tput {} s.lines h { m with poison := true, map := s.since h } }
        (s.scrubCount stack 3 sg.1 (h * 64), true)

/-- The bytes of HBM at an address, as one number. -/
def State.hbmNat (s : State) (pa n : Nat) : Nat := bytesNat ((List.range n).map (fun i => s.hbmByte (pa + i)))

/-- Writes bytes into HBM (the canonical form is kept). -/
def State.hbmWrite (s : State) (pa : Nat) (bs : List Byte) : State :=
  { s with hbm := (List.range bs.length).foldl (fun m i => tput Memory.blank m (pa + i) (lget 0 bs i)) s.hbm }

/-- Writes a dirty line back to HBM under its slot (R94); the line stays in the L2, clean. -/
def State.writeBack (s : State) (ln : Nat) (l : L2Line) : State :=
  if l.dirty then
    let s := s.hbmWrite (ln * 128) (natBytes 128 l.data.toNat)
    let put (t : Tbl LineMeta) (i : Nat) : Tbl LineMeta :=
      tput {} t (2 * ln + i) { slot := some (l.slot, s.gen l.slot), poison := l.poison.getLsbD i, map := if i = 0 then l.map.1 else l.map.2 }
    { s with lines := put (put s.lines 0) 1, l2 := tput none s.l2 ln (some { l with dirty := false }) }
  else s

/-- Recalls a line that a stash window owns (R141): written back into the slice if dirty, and invalid in the window. -/
def State.recall (s : State) (ln : Nat) : State :=
  match tget none s.l2 ln with
  | none => s
  | some l =>
    match l.owner with
    | .stash c w i =>
      let k := s.core c
      let st := tget {} k.stash w
      let dirty := match tget none st.lines i with
        | some (_, d) => d
        | none => false
      let base := st.base + 128 * i
      let k := if dirty then k.correct base 128 else k
      let l' := if dirty then
          { l with data := BitVec.ofNat 1024 (bytesNat (k.spBytes base 128)), dirty := true, owner := .home,
                   poison := BitVec.ofNat 2 ((if k.spPoison base 64 then 1 else 0) + (if k.spPoison (base + 64) 64 then 2 else 0)) }
        else { l with owner := .home }
      let s := s.setCore c { k with stash := tput {} k.stash w { st with lines := tput none st.lines i none } }
      { s with l2 := tput none s.l2 ln (some l') }
    | _ => s

/-- A superblock's name: its line with both XOR fields cleared of the member number (R135). -/
def sbKey (ln : Nat) : Nat := ln ^^^ (ln % 4) ^^^ ((ln % 4) * 2 ^ 8)

/-- The slice that holds a line: its home slice, or the slice of the same hash on the die of the lease that owns it (R134, R138). -/
def L2Line.at_ (l : L2Line) : Nat :=
  match l.owner with
  | .lease die _ | .ended die => die * 256 + l.slice % 256
  | _ => l.slice

/-- Superblocks held in a slice of a die: names, without repeats. -/
def State.blocks (s : State) (slice : Nat) : List Nat :=
  (s.l2.filterMap (fun e => match e.2 with
    | some l => if l.at_ = slice then some (sbKey e.1) else none
    | none => none)).eraseDups

/-- The lines of a superblock that a slice holds. -/
def State.blockLines (s : State) (slice sb : Nat) : List (Nat × L2Line) :=
  s.l2.filterMap (fun e => match e.2 with
    | some l => if sbKey e.1 = sb ∧ l.at_ = slice then some (e.1, l) else none
    | none => none)

/-- Whether a superblock may not be a victim: it holds a live lease line or a stash-owned line (R136). -/
def State.pinned (s : State) (slice sb : Nat) : Bool :=
  (s.blockLines slice sb).any (fun e => match e.2.owner with
    | .home | .ended _ => false
    | _ => true)

/-- Last use of a superblock. -/
def State.lastUse (s : State) (slice sb : Nat) : Nat := (s.blockLines slice sb).foldl (fun m e => max m e.2.used) 0

/-- Drops the lines of a superblock, dirty ones written back (R136). -/
def State.evict (s : State) (slice sb : Nat) : State :=
  let mine := s.blockLines slice sb
  mine.foldl (fun s e => let s := s.writeBack e.1 e.2; { s with l2 := tput none s.l2 e.1 none }) s

/-- The set of its slice that a superblock occupies, one of 64 (R134); which one is not given (log 7). -/
def setOf (sb : Nat) : Nat := Config.l2Set sb % 64

/-- Evicts from the set of a line until 16 superblocks are left (R136): the least recently used one that may go, and the line's own
where none may. -/
def State.settleGo (ln slice : Nat) : Nat → State → State
  | 0, s => s
  | n + 1, s =>
    let set := (s.blocks slice).filter (fun b => setOf b == setOf (sbKey ln))
    if set.length ≤ 16 then s
    else
      match set.filter (fun b => b != sbKey ln && !s.pinned slice b) with
      | [] => s.evict slice (sbKey ln)
      | b :: r => settleGo ln slice n (s.evict slice (r.foldl (fun m c => if s.lastUse slice c < s.lastUse slice m then c else m) b))

/-- After an allocation: an overfull set is brought back to its 16 ways (R134, R136). -/
def State.settle (s : State) (ln slice : Nat) : State :=
  let n := (s.blocks slice).length
  if n ≤ 16 then s else State.settleGo ln slice n s

/-- The lines a lease owns. -/
def State.leaseLines (s : State) (key : Nat) : List (Nat × L2Line) :=
  s.l2.filterMap (fun e => match e.2 with
    | some l => if l.owner = .lease (key / 256) key then some (e.1, l) else none
    | none => none)

/-- Ends a lease (R139): lines homed on its die become ordinary, the others are written back and dropped. With `later` the
write-backs of dirty lines follow as stores; such a line stays in the lease's slice until then. -/
def State.endLease (s : State) (key : Nat) (later : Bool := false) : State :=
  let s := (s.leaseLines key).foldl (fun s e =>
    if e.2.slice / 256 = key / 256 then { s with l2 := tput none s.l2 e.1 (some { e.2 with owner := .home }) }
    else if later ∧ e.2.dirty then { s with l2 := tput none s.l2 e.1 (some { e.2 with owner := .ended (key / 256) }) }
    else let s := s.writeBack e.1 e.2; { s with l2 := tput none s.l2 e.1 none }) s
  { s with leases := tput none s.leases key none }

/-- The write-back that LEASE.FREE owes of a line (R139): written back and dropped from the lease's slice. A line that has left it since
is only written back. -/
def State.freeLine (s : State) (ln : Nat) : State :=
  match tget none s.l2 ln with
  | none => s
  | some l =>
    let s := s.writeBack ln l
    match l.owner with
    | .ended _ => { s with l2 := tput none s.l2 ln none }
    | _ => s

/-- Whether a lease has reached its expiry (R139). -/
def Lease.over (l : Lease) (s : State) : Bool := decide (l.expiry ≤ s.time)

/-- Ends the lease that owns a line if it has reached its expiry (R139). -/
def State.lapse (s : State) (ln : Nat) : State :=
  match tget none s.l2 ln with
  | none => s
  | some l =>
    match l.owner with
    | .lease _ i => (match tget none s.leases i with
      | some e => if e.over s then s.endLease i else s
      | none => s)
    | _ => s

/-- Brings a line into the L2 under a slot (R95, R136) and returns it; a stash-owned line is recalled first. `skip`: the halves
about to be written in full, which are not read. `quiet`: halves that other parts of the access write with this one, whose check is not
counted. On a failed stack what is read is poisoned (R387). -/
def State.fetchLine (s : State) (pa slot pl pln : Nat) (skip : Nat := 0) (quiet : Nat := 0) : State × L2Line :=
  let ln := pa / 128
  let s := (s.recall ln).lapse ln
  let (die, stack, sl) := home (ln * 128) pl pln
  match tget none s.l2 ln with
  | some l =>
    let l := { l with used := s.uses + 1, poison := if s.stackFailed stack then 3 else l.poison }
    let s := { s with uses := s.uses + 1 }
    if l.slot = slot then (s, l)
    else
      -- each half that is read fails its check: poisoned in the slice, and in memory when the line is written back (R95, log 17)
      let fails (i : Nat) (s : State) : State :=
        if skip.testBit i || quiet.testBit i || l.poison.getLsbD i then s else s.scrubCount stack 3 l.slot (ln * 128 + 64 * i)
      (fails 1 (fails 0 s), { l with poison := l.poison ||| BitVec.ofNat 2 (3 ^^^ skip), slot := slot, dirty := true })
  | none =>
    let half (s : State) (i : Nat) : State × Bool := if skip.testBit i then (s, false) else s.readHalf (2 * ln + i) slot stack (quiet.testBit i)
    let (s, p0) := half s 0
    let (s, p1) := half s 1
    let l : L2Line := { data := BitVec.ofNat 1024 (s.hbmNat (ln * 128) 128), slot := slot, used := s.uses + 1, slice := die * 256 + sl,
                        poison := if s.stackFailed stack then 3 else BitVec.ofNat 2 ((if p0 then 1 else 0) + (if p1 then 2 else 0)),
                        map := (s.since (2 * ln), s.since (2 * ln + 1)) }
    ({ s with uses := s.uses + 1 }, l)

/-- Places a line and keeps its set within 16 ways. -/
def State.putLine (s : State) (ln : Nat) (l : L2Line) : State :=
  ({ s with l2 := tput none s.l2 ln (some l) } : State).settle ln l.at_

/-- The bytes a line holds at an offset. -/
def L2Line.get (l : L2Line) (off n : Nat) : List Byte := natBytes n (l.data.toNat >>> (8 * off))

/-- The halves of a line that a write covers in full, as two bits. -/
def wholeHalves (off n : Nat) : Nat := (if off = 0 ∧ 64 ≤ n then 1 else 0) + (if off ≤ 64 ∧ 128 ≤ off + n then 2 else 0)

/-- A line with bytes replaced; a half written in full loses its poison (R96). -/
def L2Line.set (l : L2Line) (off : Nat) (bs : List Byte) : L2Line :=
  let n := bs.length
  let msk := (2 ^ (8 * n) - 1) <<< (8 * off)
  let d := (l.data.toNat &&& ((2 ^ 1024 - 1) ^^^ msk)) ||| (bytesNat bs <<< (8 * off))
  { l with data := BitVec.ofNat 1024 d, dirty := true, slot := l.slot,
           poison := l.poison &&& ~~~(BitVec.ofNat 2 (wholeHalves off n)) }

/-- The halves of a line that a range touches, as two bits. -/
def halvesOf (off n : Nat) : Nat := (if off < 64 then 1 else 0) + (if 64 < off + n then 2 else 0)

/-- A line as a partition writes it: what it leaves of a half is as that partition sees it (R92), and a half written in full is defined for
every one. -/
def State.lineSet (s : State) (ln rd : Nat) (l : L2Line) (off : Nat) (bs : List Byte) : L2Line :=
  let n := s.remapOf (ln * 128)
  let l := (s.seen ln rd l (halvesOf off bs.length)).set off bs
  let w := wholeHalves off bs.length
  { l with map := (if w.testBit 0 then n else l.map.1, if w.testBit 1 then n else l.map.2) }

/-- Whether any half that a range touches is poisoned. -/
def L2Line.bad (l : L2Line) (off n : Nat) : Bool :=
  (l.poison.getLsbD 0 && decide (off < 64)) || (l.poison.getLsbD 1 && decide (64 < off + n))

/-! Watchpoints at the home slices (R341 to R344). -/

/-- Who accesses, for homes, leases, watchpoints and records. -/
structure Who where
  part   : Nat
  slot   : Nat
  core   : Nat
  ctx    : Nat := 0
  /-- AGENT code of R342; 15 for a unit that has none -/
  agent  : Nat := 0
  node   : Nat := 0
  /-- M-slot accesses go through the core's stash windows (R141) -/
  stash  : Bool := false
  /-- walks check permissions and set A and D -/
  own    : Bool := true
  count  : Bool := true
  /-- 64-byte lines, by number, that the access covers in full in parts of which this is one (R95, R96) -/
  cover  : List Nat := []
  deriving DecidableEq, Repr

/-- The die and core of the agent are known: not those of another package, nor of the Shunter that copies a migrated page. -/
def Who.named (w : Who) : Bool := w.agent != 10 && w.agent != 15 && !(w.agent == 2 && w.core == 256)

/-- Lines that an enabled watchpoint of some partition holds (R343, R344). -/
def State.watched (s : State) (pa : Nat) : Bool :=
  s.parts.any (fun q => q.2.watches.any (fun e =>
    bit e.2.ctl 0 && decide (fld e.2.base 49 3 * 8 ≤ pa / 128 * 128 + 127) &&
      decide (pa / 128 * 128 < fld e.2.base 49 3 * 8 + fld e.2.ctl 63 32)))

/-- The writer as HIT names it (R342): AGENT to STRAND. A unit that has no AGENT code leaves them free, and so does another package its die
and core, and the Shunter that copies a migrated page its own (log 78). -/
def State.writer (s : State) (w : Who) : Nat :=
  let any := bytesNat ((List.range 4).map (fun i => Config.freeByte (s.free + i)))
  if w.agent = 15 then any % 2 ^ 28 * 2 ^ 20
  else
    w.agent * 2 ^ 44 + (if w.agent = 10 then w.node else 0) * 2 ^ 30 +
      (if w.named then dieOf w.core * 2 ^ 28 + (w.core % 64) * 2 ^ 22 else any % 2 ^ 8 * 2 ^ 22) +
      (if w.agent = 0 then w.ctx * 2 ^ 20 else 0)

/-- Reports a write to one watchpoint's bytes at the home slice (R343): counts the hit, and reports WATCHPOINT to a strand of its
partition. -/
def State.watchOne (s : State) (w : Who) (pa n pc q i : Nat) : State :=
  let wp := tget {} (s.part q).watches i
  let b := fld wp.base 49 3 * 8
  let len := fld wp.ctl 63 32
  if bit wp.ctl 0 ∧ bit wp.ctl 1 ∧ pa < b + len ∧ b < pa + n then
    let hit := min (fld wp.hit 63 48 + 1) 65535 * 2 ^ 48 + s.writer w
    let s := s.modPart q (fun r => { r with watches := tput {} r.watches i { wp with hit := hit, haddr := pa } })
    let s := if w.named then s else { s with free := s.free + 4 }
    if bit wp.ctl 2 ∧ w.agent = 0 ∧ w.part = q then
      s.modStrand w.core w.ctx (fun t => { t with reports := t.reports ++
        [({ cause := .watchpoint, aux := i + pa * 2 ^ 8, slot := 2 }, pc)] })
    else s
  else s

/-- Reports a write to every watchpoint it touches (R343), whoever made it. -/
def State.watchHit (s : State) (w : Who) (pa n pc : Nat) : State :=
  s.parts.foldl (fun s q => q.2.watches.foldl (fun s e => s.watchOne w pa n pc q.1 e.1) s) s

/-- Reports the writes of whole lines over a range: a frame's copy (R108), a save slot (R301). Each 128-byte line is one write (log 78). -/
def State.watchLines (s : State) (w : Who) (a n : Nat) : State :=
  s.parts.foldl (fun s q => q.2.watches.foldl (fun s e =>
    let b := fld e.2.base 49 3 * 8
    let lo := max a b
    let hi := min (a + n) (b + fld e.2.ctl 63 32)
    if hi ≤ lo ∨ !bit e.2.ctl 0 then s
    else (List.range ((hi - 1) / 128 + 1 - lo / 128)).foldl (fun s i => s.watchOne w (128 * (lo / 128 + i)) 128 0 q.1 e.1) s) s) s

/-- A unit of the package that has no AGENT code: the fault unit, a signal box, the housekeeping processor, a walk. -/
def unitWho (slot : Nat) : Who := { part := slot, slot := slot, core := 0, agent := 15 }

/-- The Shunter that copies a migrated page (R108): which core's it is, the spec does not say. -/
def moverWho (slot : Nat) : Who := { part := slot, slot := slot, core := 256, agent := 2 }

/-- The stack that holds a PA, under the placement map, serves accesses (R387): it is ready, or has failed and answers with poison. -/
def State.stackUp (s : State) (stack : Nat) : Bool := bit s.hk.ready (8 + stack) || s.stackFailed stack

/-- The Amisia port that leads to another package is ready: until then accesses to it and from it wait (R386, R387, log 115). -/
def State.linkUp (s : State) (node : Nat) : Bool := bit s.hk.ready (20 + Config.linkPort node % 16 / 4)

/-- The same of every line of a range of PAs; what lies outside HBM waits for nothing (R91). -/
def State.paUp (s : State) (pa n : Nat) : Bool :=
  (List.range (n / 128 + 2)).all (fun i =>
    let a := pa / 128 * 128 + 128 * i
    !decide (a < pa + n) || !isHbm a || s.stackUp (s.stackOf a))

/-! Page entries and the walk (R98 to R101). -/

/-- Index of a VA at a level (R98). -/
def walkIndex (va lvl : Nat) : Nat :=
  match lvl with
  | 3 => fld va 56 39
  | 2 => fld va 38 30
  | 1 => fld va 29 21
  | _ => fld va 20 16

/-- A leaf as a level would hold it: L set, or level 0. -/
def peLeaf (e : Nat) : Bool := bit e 4
def pePl (e : Nat) : Nat := fld e 10 8
def pePln (e : Nat) : Nat := fld e 15 12
def peKey (e : Nat) : Nat := fld e 60 55
def peFrame (e : Nat) : Nat := fld e 49 16
def peMig (e : Nat) : Nat := fld e 63 62

/-- Bits of a page's offset at a leaf level (R98). -/
def pageBits (lvl : Nat) : Nat := if lvl = 2 then 30 else if lvl = 1 then 21 else 16

/-- The placement map agrees with a leaf (R93). -/
def State.mapAgrees (s : State) (e : Nat) : Bool :=
  let b := tget 0 s.pmap (peFrame e * 65536 / 2 ^ 30)
  fld b 7 5 == pePl e && (if pePl e = 0 then pePln e == 0 else fld b 3 0 == pePln e)

/-- A well-formed entry at a level, for a partition slot (R99 to R101). In the driver's own table a leaf may name a tenant's slot: the window
then refuses the access (R369, R376). -/
def State.entryOk (s : State) (slot e lvl : Nat) : Bool :=
  if peLeaf e then
    decide (lvl ≠ 3) && decide (pePl e ≤ 4) && !bit e 11 && !bit e 7 && !(bit e 2 && !bit e 1) &&
    (if pePl e = 4 then pePln e == 0 && peFrame e % 2 ^ (pageBits lvl - 16) == 0
     else if pePl e = 3 then fld e 54 50 == 0 && peFrame e == 0 && pePln e == 0 && peKey e == 0
     else fld e 54 50 == 0 && peFrame e % 2 ^ (pageBits lvl - 16) == 0 && (peKey e == slot || peKey e == 49 || (slot == 49 && decide (peKey e ≤ 47))) &&
      (!isHbm (peFrame e * 65536) || s.mapAgrees e))
  else
    decide (lvl ≠ 0) && fld e 63 50 == 0 && fld e 7 5 == 0 && fld e 3 1 == 0 &&
    decide (fld e 49 8 * 256 % (if lvl = 1 then 256 else 4096) = 0)

/-- What a walk answers (R101): a leaf with its level, a device fault, a cause, or a wait on a page being copied. -/
inductive Walked where
  | leaf (e lvl : Nat) (at_ : Nat)
  | fault (kind lvl : Nat)
  | cause (c : Cause)
  | wait
  deriving DecidableEq, Repr

/-- Whether a half fails its check as read under a slot (R95), without a trace. -/
def State.halfBad (s : State) (pa slot : Nat) : Bool :=
  match tget none s.l2 (pa / 128) with
  | some l => l.poison.getLsbD (pa / 64 % 2) || l.slot != slot
  | none =>
    let m := s.metaOf (pa / 64)
    m.poison || (match m.slot with
      | none => false
      | some sg => sg != (slot, s.gen slot))

/-- A table entry as a walk reads it under the partition's slot (R98): all ones outside HBM (R91), free where its line is bad or its stack
has failed (R387). -/
def State.pteAt (s : State) (slot a : Nat) : Nat :=
  if !isHbm a then 2 ^ 64 - 1
  else if s.halfBad a slot || s.stackFailed (s.stackOf a) then (Config.badEntry a).toNat
  else s.peek64 slot a

def walkGo (s : State) (slot va : Nat) : Nat → Nat → Walked
  | lvl, t =>
    let a := t + 8 * walkIndex va lvl
    let e := s.pteAt slot a
    if !s.entryOk slot e lvl then .cause .translationFatal
    else if !bit e 0 then .fault (if lvl = 0 ∧ pePl e = 3 then 4 else 0) lvl
    else if peLeaf e then .leaf e lvl a
    else match lvl with
      | 0 => .cause .translationFatal
      | n + 1 => walkGo s slot va n (fld e 49 8 * 256)
  termination_by structural x => x

/-- The table entries a walk reads from a level down. -/
def walkReads (s : State) (slot va : Nat) : Nat → Nat → List Nat
  | lvl, t =>
    let a := t + 8 * walkIndex va lvl
    let e := s.pteAt slot a
    if !s.entryOk slot e lvl || !bit e 0 || peLeaf e then [a]
    else match lvl with
      | 0 => [a]
      | n + 1 => a :: walkReads s slot va n (fld e 49 8 * 256)
  termination_by structural x => x

/-- A table line whose read fails its check is poisoned and counted, as any read (R95). -/
def State.walkTouch (s : State) (slot a : Nat) : State :=
  if isHbm a && s.halfBad a slot then
    let b := tget 0 s.pmap (a / 2 ^ 30)
    let (s, l) := s.fetchLine a slot (fld b 7 5) (fld b 3 0)
    s.putLine (a / 128) l
  else s

/-- Canonical virtual address (R101). -/
def canonical (va : Nat) : Bool := va < 2 ^ 64 && (fld va 63 57 == (if bit va 56 then 127 else 0))

/-- Permission of a leaf; the kind of the fault where it lacks it (R101, R103). -/
def denied (e : Nat) (u : Use) : Option Nat :=
  match u with
  | .r => if bit e 1 then none else some 1
  | .w => if bit e 2 then none else some 2
  | .x => if bit e 3 then none else some 3
  | .rw => if !bit e 1 then some 1 else if !bit e 2 then some 2 else none

/-- Where an access ends up. -/
inductive Phys where
  | hbm (pa slot pl pln : Nat) (ce : Bool)
  | host (va : Nat)
  | remote (node pa : Nat)
  | reserved (pa : Nat)
  deriving DecidableEq, Repr

inductive Trans where
  | ok (p : Phys)
  | fault (kind lvl : Nat)
  | cause (c : Cause)
  /-- the page being copied, a stack not ready, or (with its page) a host translation absent (R111) -/
  | wait (ats : Option Nat)
  deriving DecidableEq, Repr

/-- The physical place of a VA under a leaf (R100). A REMOTE leaf that names the own node (R241) has no KEY: the access is made under
the slot of the walk (log 76). -/
def State.place (s : State) (slot e lvl va : Nat) : Phys :=
  let pa := peFrame e * 65536 + va % 2 ^ pageBits lvl
  if pePl e = 3 then .host va
  else if pePl e = 4 then
    (if fld e 63 50 = s.node then
       let b := tget 0 s.pmap (pa / 2 ^ 30)
       (if isHbm pa then .hbm pa slot (fld b 7 5) (fld b 3 0) false else .reserved pa)
     else .remote (fld e 63 50) pa)
  else if isHbm pa then .hbm pa (peKey e) (pePl e) (pePln e) (bit e 61)
  else .reserved pa

/-- Where a leaf places a VA, whatever holds its accesses back: a copy under way, a stack that is not ready. -/
def State.leafPlace (s : State) (p va : Nat) : Option (Nat × Phys) :=
  match walkGo s p (va % 2 ^ 57) 3 (s.part p).fu.ptbase with
  | .leaf e lvl _ => some (e, s.place p e lvl (va % 2 ^ 57))
  | _ => none

/-- Translates an access of a partition (R101). `own`: the walk checks permissions and sets A and D; the host window does
neither (R376). `slot` is the partition's key slot, 49 for the PF. -/
def State.translate (s : State) (p slot va : Nat) (u : Use) (own : Bool) : State × Trans :=
  if !canonical va then (s, .cause .access)
  else
    let fu := (s.part p).fu
    let va57 := va % 2 ^ 57
    let page := va57 / 65536
    let hit := match tget none fu.tlb page with
      | some (e, lvl) => if own ∧ (denied e u).isNone ∧ bit e 5 ∧ (!u.writes || bit e 6) then some (e, lvl) else none
      | none => none
    match hit with
    | some (e, lvl) =>
      let ph := s.place slot e lvl va57
      (s, match ph with
        | .hbm pa _ pl pln _ => if s.stackUp (home pa pl pln).2.1 then .ok ph else .wait none
        | .host _ => if fu.ats.contains page then .ok ph else .wait (some page)
        | .remote node _ => if s.linkUp node then .ok ph else .wait none
        | _ => .ok ph)
    | none =>
      let reads := walkReads s slot va57 3 fu.ptbase
      -- a walk whose table lies on a stack that is not ready freezes with its access (R387)
      if !reads.all (fun a => s.paUp a 8) then (s, .wait none)
      else
      let s := reads.foldl (fun s a => s.walkTouch slot a) s
      match walkGo s slot va57 3 fu.ptbase with
      | .cause c => (s, .cause c)
      | .fault k l => (s, .fault k l)
      | .wait => (s, .wait none)
      | .leaf e lvl a =>
        match (if own then denied e u else none) with
        | some k => (s, .fault k lvl)
        | none =>
          if peMig e = 2 ∧ pePl e ≠ 4 then (s, .wait none)
          else
            let e' := if own then (e ||| 0x20) ||| (if u.writes then 0x40 else 0) else e
            let s := if e' = e then s
              else
                let (s, l) := s.fetchLine a slot (fld (tget 0 s.pmap (a / 2 ^ 30)) 7 5) (fld (tget 0 s.pmap (a / 2 ^ 30)) 3 0)
                (s.putLine (a / 128) (s.lineSet (a / 128) slot l (a % 128) (natBytes 8 e'))).watchHit (unitWho slot) a 8 0
            let s := if own then s.modFu p (fun f => { f with tlb := tput none f.tlb page (some (e', lvl)) }) else s
            let ph := s.place slot e' lvl va57
            (s, match ph with
              | .hbm pa _ pl pln _ => if s.stackUp (home pa pl pln).2.1 then .ok ph else .wait none
              | .host _ => if fu.ats.contains page || !own then .ok ph else .wait (some page)
              | .remote node _ => if s.linkUp node then .ok ph else .wait none
              | _ => .ok ph)

/-! Accesses. -/

inductive Got where
  | ok (s : State) (bytes : List Byte) (bad : Bool) (touch : List Touch)
  | fault (s : State) (kind lvl va : Nat)
  | cause (s : State) (c : Cause) (va : Nat)
  | wait (s : State) (ats : Option Nat)
  deriving DecidableEq, Repr

/-- A live lease of a partition that holds a VA (R138): one of the given die, otherwise one of another. -/
def State.leaseAt (s : State) (die p va : Nat) : Option Nat :=
  let holds (e : Nat × Option Lease) : Bool := match e.2 with
    | some l => !l.over s && l.part == p && decide (l.va ≤ va) && decide (va < l.va + l.len)
    | none => false
  ((s.leases.find? (fun e => e.1 / 256 == die && holds e)).or (s.leases.find? holds)).map (·.1)

/-- Requests of a core to frames of CE pages, counted by the die that asks: each distinct line of a unit once (R112). -/
def State.countFrames (s : State) (c : Nat) (ts : List Touch) : State :=
  ts.eraseDups.foldl (fun s t => match t.frame with
    | some f => { s with frames := tput 0 s.frames (f * 4 + dieOf c) (min (tget 0 s.frames (f * 4 + dieOf c) + 1) (2 ^ 32 - 1)) }
    | none => s) s

/-- Counters of one counted unit: each distinct line once (R112). -/
def State.countTouches (s : State) (c : Nat) (ts : List Touch) : State :=
  let ds := ts.eraseDups
  let n (k : Nat) : Word := BitVec.ofNat 64 (ds.filter (fun t => t.kind == k)).length
  (s.modCore c (fun k => { k with l2loc := k.l2loc + n 0, l2rem := k.l2rem + n 1, l2dom := k.l2dom + n 2 })).countFrames c ts

/-- Whether the target package admits an access of a partition (R242). -/
def State.admits (s : State) (w : Who) (node pa : Nat) (u : Use) : Bool :=
  (u == .w || Config.remoteGrant s.cy w.part (node * 2 ^ 50 + pa) false) && (!u.writes || Config.remoteGrant s.cy w.part (node * 2 ^ 50 + pa) true)

/-- Why a place may not be accessed: the target package's refusal (R242), or a reserved PA met by a strand or an engine of one (R91). -/
def State.refuses (s : State) (w : Who) (ph : Phys) (u : Use) : Option Cause :=
  match ph with
  | .remote node pa => if s.admits w node pa u then none else some .access
  | .reserved _ => if w.agent < 8 then some .translationFatal else none
  | _ => none

/-- Translates an access of an agent and refuses what it may not reach. -/
def State.reach (s : State) (w : Who) (va : Nat) (u : Use) : State × Trans :=
  match s.translate w.part w.slot va u w.own with
  | (s, .ok ph) => (s, match s.refuses w ph u with | some c => .cause c | none => .ok ph)
  | r => r

/-- Reads or writes `n` bytes inside one 128-byte line at a physical place. `wr`: the bytes to write. -/
def State.physLine (s : State) (w : Who) (ph : Phys) (va n pc : Nat) (wr : Option (List Byte)) : Got :=
  match ph with
  | .hbm pa slot pl pln ce =>
    let h := pa / 128 * 2
    let (s, l) := s.fetchLine pa slot pl pln (match wr with | some bs => wholeHalves (pa % 128) bs.length | none => 0)
      ((if w.cover.contains h then 1 else 0) + (if w.cover.contains (h + 1) then 2 else 0))
    let die := (home pa pl pln).1
    -- a line a lease owns is served from it; one of a live lease's range is allocated in the lease (R138, R344)
    let own : Owner := if s.watched pa ∨ l.owner ≠ .home then l.owner else match s.leaseAt (dieOf w.core) w.part va with
      | some i => .lease (i / 256) i
      | none => .home
    let t : Touch := { line := pa / 128, kind := if die = dieOf w.core then 0 else 1, frame := if ce then some (pa / 65536) else none }
    let bad := l.bad (pa % 128) n
    match wr with
    | none => .ok (s.putLine (pa / 128) { l with owner := own }) ((s.seen (pa / 128) w.part l).get (pa % 128) n) bad [t]
    | some bs =>
      let l' := { s.lineSet (pa / 128) w.part l (pa % 128) bs with owner := own }
      let s := s.putLine (pa / 128) l'
      .ok (s.watchHit w pa n pc) [] (l'.bad (pa % 128) n) [t]
  | .host _ =>
    -- performed over the host link, with the T bit in RUN; in CONFIG_UNLOCKED what would reach trusted memory is blocked (R100, R368, log 116)
    let ask (s : State) (wr : Bool) (bs : List Byte) : State :=
      if (s.part w.part).tdisp = .unlocked ∧ Config.trustedHost s.cy va then s
      else { s with dma := { part := w.part, va := va, n := n, bytes := bs, wr := wr, t := (s.part w.part).tdisp == .run } :: s.dma }
    match wr with
    | none => .ok (ask s.nextFree false []) ((List.range n).map (fun i => Config.hostByte s.free i)) false []
    | some bs => .ok (ask s true bs) [] false []
  | .remote node pa =>
    let t : Touch := { line := (node + 1) * 2 ^ 50 + pa / 128, kind := 2 }
    if s.admits w node pa (if wr.isSome then .w else .r) then
      match wr with
      | none => .ok s.nextFree ((List.range n).map (fun i => Config.remoteByte s.free i)) (Config.remotePoison s.free) [t]
      | some _ => .ok s [] false [t]
    else .cause s .access va
  | .reserved _ =>
    match wr with
    | none => .ok s (List.replicate n 0xFF) false []
    | some _ => .ok s [] false []

/-- The mapped window of a core that holds a VA, with its line (R141). -/
def Core.window (k : Core) (p va : Nat) : Option (Nat × Stash × Nat) :=
  match k.stash.find? (fun e => e.2.mapped && e.2.part == p && decide (e.2.va ≤ va) && decide (va < e.2.va + e.2.len)) with
  | some (w, st) => some (w, st, (va - st.va) / 128)
  | none => none

/-- Fills a window's line from the home slice (R141): the 128 bytes, and the owner recorded; the line stays invalid where the
slice allocates nothing. -/
def State.stashFill (s : State) (c wn : Nat) (st : Stash) (i pa slot pl pln : Nat) : State :=
  let (s, l) := s.fetchLine pa slot pl pln
  let l := s.seen (pa / 128) st.part l
  let s := s.putLine (pa / 128) { l with owner := .stash c wn i }
  let s := s.modCore c (fun k =>
    let k := k.spWrite (st.base + 128 * i) (natBytes 128 l.data.toNat)
    let mark (b : Tbl Bool) (h : Nat) : Tbl Bool :=
      if l.poison.getLsbD h then (List.range 4).foldl (fun b r => tput false b ((st.base + 128 * i + 64 * h) / 16 + r) true) b else b
    { k with spBad := mark (mark k.spBad 0) 1, stash := tput {} k.stash wn { st with lines := tput none st.lines i (some (pa / 128, false)) } })
  -- in a set with no way to give, nothing is allocated and no owner is recorded (R136)
  if (tget none s.l2 (pa / 128)).isSome then s
  else s.modCore c (fun k => { k with stash := tput {} k.stash wn st })

/-- One access inside a 128-byte line at a virtual address (R101, R138, R141). A line of a HOST or REMOTE page is not held in a
window: the access passes it by (log 79). -/
def State.glLine (s : State) (w : Who) (va n pc : Nat) (u : Use) (wr : Option (List Byte)) : Got :=
  let direct (s : State) : Got :=
    match s.reach w va u with
    | (s, .cause c) => .cause s c va
    | (s, .fault k l) => .fault s k l va
    | (s, .wait a) => .wait s a
    | (s, .ok ph) => s.physLine w ph va n pc wr
  if !w.stash then direct s
  else
    match (s.core w.core).window w.part va with
    | none => direct s
    | some (wn, st, i) =>
      match s.reach w va u with
      | (s, .cause c) => .cause s c va
      | (s, .fault k l) => .fault s k l va
      | (s, .wait a) => .wait s a
      | (s, .ok (.hbm pa slot pl pln ce)) =>
        if s.watched pa then s.physLine w (.hbm pa slot pl pln ce) va n pc wr
        else
          let valid := (tget none st.lines i).isSome
          let s := if valid then s else s.stashFill w.core wn st i pa slot pl pln
          let st := tget {} (s.core w.core).stash wn
          if (tget none st.lines i).isNone then s.physLine w (.hbm pa slot pl pln ce) va n pc wr
          else
            let t : List Touch := if valid then [] else [{ line := pa / 128, kind := if (home pa pl pln).1 = dieOf w.core then 0 else 1, frame := if ce then some (pa / 65536) else none }]
            let sp := st.base + (va - st.va)
            let k := s.core w.core
            match wr with
            | none => .ok (s.correct w.core sp n) (k.spBytes sp n) (k.spPoison sp n) t
            | some bs =>
              let k := k.spWrite sp bs
              .ok (s.setCore w.core { k with stash := tput {} k.stash wn { st with lines := tput none st.lines i (some (pa / 128, true)) } })
                [] false t
      | (s, .ok ph) => s.physLine w ph va n pc wr

/-- Splits a range at 128-byte lines: (offset in the range, length). -/
def lineSplit : Nat → Nat → Nat → Nat → List (Nat × Nat)
  | 0, _, _, _ => []
  | fuel + 1, a, off, n =>
    if n = 0 then []
    else
      let m := min n (128 - (a + off) % 128)
      (off, m) :: lineSplit fuel a (off + m) (n - m)

/-- Reads `n` bytes at a VA, line by line; the first line that cannot be read decides. -/
def State.glRead (s : State) (w : Who) (va n pc : Nat) (u : Use := .r) : Got :=
  (lineSplit (n / 128 + 2) va 0 n).foldl (fun g om =>
    match g with
    | .ok s bs bad ts =>
      (match s.glLine w (va + om.1) om.2 pc u none with
       | .ok s b2 bad2 t2 => .ok s (bs ++ b2) (bad || bad2) (ts ++ t2)
       | g => g)
    | g => g) (.ok s [] false [])

/-- Whether every line of a range can be accessed now: the state after the walks, or what stops it (R147). -/
def State.glProbe (s : State) (w : Who) (va n : Nat) (u : Use) : Got :=
  (lineSplit (n / 128 + 2) va 0 n).foldl (fun g om =>
    match g with
    | .ok s _ _ _ =>
      (match s.reach w (va + om.1) u with
       | (s, .ok _) => .ok s [] false []
       | (s, .cause c) => .cause s c (va + om.1)
       | (s, .fault k l) => .fault s k l (va + om.1)
       | (s, .wait a) => .wait s a)
    | g => g) (.ok s [] false [])

/-- Writes bytes at a VA, line by line, after every line has been probed: a store is performed whole. -/
def State.glWrite (s : State) (w : Who) (va pc : Nat) (bs : List Byte) : Got :=
  match s.glProbe w va bs.length .w with
  | .ok s _ _ _ =>
    (lineSplit (bs.length / 128 + 2) va 0 bs.length).foldl (fun g om =>
      match g with
      | .ok s _ bad ts =>
        (match s.glLine w (va + om.1) om.2 pc .w (some ((bs.drop om.1).take om.2)) with
         | .ok s _ bad2 t2 => .ok s [] (bad || bad2) (ts ++ t2)
         | g => g)
      | g => g) (.ok s [] false [])
  | g => g

/-- Marks poison on the 64-byte halves of a range at a VA (R152). -/
def State.glPoison (s : State) (w : Who) (va n : Nat) : State :=
  (lineSplit (n / 128 + 2) va 0 n).foldl (fun s om =>
    match s.translate w.part w.slot (va + om.1) .w w.own with
    | (s, .ok (.hbm pa slot pl pln _)) =>
      let (s, l) := s.fetchLine pa slot pl pln
      let o := pa % 128
      let m := (if o < 64 then 1 else 0) + (if 64 < o + om.2 then 2 else 0)
      s.putLine (pa / 128) { l with poison := l.poison ||| BitVec.ofNat 2 m, dirty := true }
    | (s, _) => s) s

/-- Writes back one line of a window; it stays valid and owned (R142). -/
def State.stashClean (s : State) (c wn i : Nat) : State :=
  let k := s.core c
  let st := tget {} k.stash wn
  match tget none st.lines i with
  | some (ln, true) =>
    let k := k.correct (st.base + 128 * i) 128
    let s := s.setCore c { k with stash := tput {} k.stash wn { st with lines := tput none st.lines i (some (ln, false)) } }
    (match tget none s.l2 ln with
     | some l =>
       let base := st.base + 128 * i
       let l := { l with data := BitVec.ofNat 1024 (bytesNat (k.spBytes base 128)), dirty := true,
                         poison := BitVec.ofNat 2 ((if k.spPoison base 64 then 1 else 0) + (if k.spPoison (base + 64) 64 then 2 else 0)) }
       s.writeBack ln l
     | none => s)
  | _ => s

/-- Flushes a window: every dirty line written back (R142). -/
def State.stashFlush (s : State) (c wn : Nat) : State :=
  let st := tget {} (s.core c).stash wn
  st.lines.foldl (fun s e => s.stashClean c wn e.1) s

/-- Flushes and unmaps a window: its lines go back to their home slices (R142). -/
def State.stashUnmap (s : State) (c wn : Nat) : State :=
  let s := s.stashFlush c wn
  let st := tget {} (s.core c).stash wn
  let s := st.lines.foldl (fun s e => match e.2 with
    | some (ln, _) => s.recall ln
    | none => s) s
  s.modCore c (fun k => { k with stash := tput {} k.stash wn {} })

/-! Units of poison that a write done in parts covers in full (R96, R160): a 64-byte line of HBM by its number, or a 16-byte row of a
scratchpad. -/

/-- The address of a place by its storage, scratchpads beside HBM, with the key slot of its page; a line that a stash window of the agent
holds stands in the window's rows. -/
def State.spot (s : State) (w : Who) : Loc → Option (Nat × Nat)
  | .sp c o => some (2 ^ 60 + c * 2 ^ 24 + o, 0)
  | .gl va =>
    match (s.translate w.part w.slot va .r false).2 with
    | .ok (.hbm pa slot ..) =>
      (match if w.stash then (s.core w.core).window w.part va else none with
       | some (_, st, i) => if (tget none st.lines i).isSome then some (2 ^ 60 + w.core * 2 ^ 24 + st.base + (va - st.va), 0) else some (pa, slot)
       | none => some (pa, slot))
    | _ => none

/-- The unit in which an address lies: rows stand from 2^56 on. -/
def unitOf (k : Nat) : Nat := if 2 ^ 60 ≤ k then k / 16 else k / 64

/-- Whether ranges cover every byte of a unit. -/
def coverUnit (rs : List (Nat × Nat)) (u : Nat) : Bool :=
  let (a, n) := if 2 ^ 56 ≤ u then (16 * u, 16) else (64 * u, 64)
  (List.range n).all (fun j => rs.any (fun r => decide (r.1 ≤ a + j) && decide (a + j < r.1 + r.2)))

/-- A unit reads poisoned, or fails its check, under a key slot. -/
def State.unitBad (s : State) (u slot : Nat) : Bool :=
  if 2 ^ 56 ≤ u then tget false (s.core ((u - 2 ^ 56) / 2 ^ 20)).spBad (u % 2 ^ 20) else s.halfBad (64 * u) slot

/-- The storage of places as ranges: address, length, key slot. -/
def State.spots (s : State) (w : Who) (at_ : List (Loc × Nat)) : List (Nat × Nat × Nat) :=
  at_.flatMap (fun a => match a.1 with
    | .sp .. => ((s.spot w a.1).map (fun k => (k.1, a.2, k.2))).toList
    | .gl va => (lineSplit (a.2 / 128 + 2) va 0 a.2).filterMap (fun om => (s.spot w (.gl (va + om.1))).map (fun k => (k.1, om.2, k.2))))

/-- The poisoned units that places cover in full. -/
def State.toClean (s : State) (w : Who) (at_ : List (Loc × Nat)) : List Nat :=
  let rs := s.spots w at_
  let us := (rs.flatMap (fun r => (List.range (unitOf (r.1 + r.2.1 - 1) + 1 - unitOf r.1)).map (fun i => (unitOf r.1 + i, r.2.2)))).eraseDups
  (us.filter (fun u => s.unitBad u.1 u.2 && coverUnit (rs.map (fun r => (r.1, r.2.1))) u.1)).map (·.1)

/-- Clears the poison of units that a write done in parts has covered in full (R96, R160). -/
def State.unpoison (s : State) (us : List Nat) : State :=
  us.foldl (fun s u =>
    if 2 ^ 56 ≤ u then s.modCore ((u - 2 ^ 56) / 2 ^ 20) (fun k => { k with spBad := tput false k.spBad (u % 2 ^ 20) false })
    else match tget none s.l2 (u / 2) with
      | some l => { s with l2 := tput none s.l2 (u / 2) (some { l with poison := l.poison &&& ~~~(BitVec.ofNat 2 (2 ^ (u % 2))), dirty := true }) }
      | none => { s with lines := tput {} s.lines u { s.metaOf u with poison := false } }) s

/-- Writes HBM behind the L2 (R288, R376 No Snoop), under a slot; what a line keeps of a half is as a reader under that slot sees it. -/
def State.behindWrite (s : State) (pa slot : Nat) (bs : List Byte) : State :=
  let hs := (List.range (bs.length / 64 + 2)).map (fun i => pa / 64 + i) |>.filter (fun h => decide (64 * h < pa + bs.length))
  let s := hs.foldl (fun s h => if (tget {} s.lines h).map = s.remapOf (64 * h) then s
    else s.hbmWrite (64 * h) ((List.range 64).map (fun j => s.hbmSeen slot (64 * h + j)))) s
  let s := s.hbmWrite pa bs
  { s with lines := hs.foldl (fun t h =>
      let m := s.metaOf h
      let whole := decide (pa ≤ 64 * h) && decide (64 * h + 64 ≤ pa + bs.length)
      let okS := match m.slot with | none => true | some sg => sg == (slot, s.gen slot)
      tput {} t h { slot := some (slot, s.gen slot), poison := !whole && (m.poison || !okS), map := s.remapOf (64 * h) }) s.lines }

/-- Makes 4 MiB units of HBM save slots of a partition: what they hold is undefined, and lines of them leave the L2 (R301). -/
def State.undefine (s : State) (units : List Nat) (p : Nat) : State :=
  let mark (r : Remap) : Remap := { r with n := r.n + 1, saves := (r.n + 1, p, s.gen p) :: r.saves }
  { s with remaps := units.foldl (fun t u => tput {} t u (mark (tget {} t u))) s.remaps,
           l2 := s.l2.filter (fun e => !units.contains (e.1 / 2 ^ 15)) }

/-- Makes a 4 MiB unit of HBM undefined for the partitions that map it, and for no others (R92). -/
def State.loseTo (s : State) (ps : List Nat) (u : Nat) : State :=
  let r := tget {} s.remaps u
  { s with remaps := tput {} s.remaps u { r with n := r.n + 1, maps := (r.n + 1, ps) :: r.maps } }

/-- The stacks that hold a 4 MiB unit serve accesses (R93, R387): all of them, a die's three, or one. -/
def State.unitUp (s : State) (u : Nat) : Bool :=
  let b := tget 0 s.pmap (u / 2 ^ 8)
  !isHbm (u * 2 ^ 22) || (match fld b 7 5 with
    | 0 => (List.range 12).all s.stackUp
    | 1 => (List.range 3).all (fun i => s.stackUp (3 * fld b 3 0 + i))
    | _ => s.stackUp (fld b 3 0))

/-- Storage of a place as one number, so that two names of one byte are seen as one (R149, R166). -/
def State.key (s : State) (p : Nat) : Loc → Nat
  | .sp c o => 2 ^ 62 + c * 2 ^ 24 + o
  | .gl va =>
    match (s.translate p p va .r false).2 with
    | .ok (.hbm pa ..) => pa
    | _ => 2 ^ 61 + va % 2 ^ 57

/-- Bytes that two pieces share. -/
def State.sameByte (s : State) (p : Nat) (a : Loc) (n : Nat) (b : Loc) (m : Nat) : Bool :=
  let ka := s.key p a
  let kb := s.key p b
  decide (ka < kb + m) && decide (kb < ka + n)

/-- Whether a store of the strand to bytes of a range, which no region holds, is still to be performed: a read of them made for the
strand waits for it (R166, log 73). -/
def State.owes (s : State) (c x va n : Nat) : Bool :=
  let t := s.strand c x
  t.stores.any (fun r => r.depth == 0 && r.pieces.any (fun q => s.sameByte t.part q.loc q.bytes.length (.gl va) n))

/-- The number of a strand as an agent (R305). -/
def strandAgent (c x : Nat) : Nat := c * 8 + x

/-! MIXCHECK (R316). -/

/-- Whether any strand's debug policy enables MIXCHECK: the home slices then hold the pieces they accept. -/
def State.mixing (s : State) : Bool := s.cores.any (fun e => e.2.strands.any (fun u => u.2.dbg.mixchk))

/-- Records a piece accepted by a home slice, or refuses it where the agent's policy says so: another agent's piece of the line
within 4096 cy overlaps it without being identical. -/
def State.mixPa (s : State) (on : Bool) (agent k n : Nat) : State × Bool :=
  if !(on || s.mixing) then (s, false)
  else
    let near := s.recent.filter (fun e => decide (s.cy ≤ e.1 + 4096))
    if on && near.any (fun e => e.2.1 == k / 128 && e.2.2.2.2 != agent && decide (e.2.2.1 < k + n) && decide (k < e.2.2.1 + e.2.2.2.1)
        && !(e.2.2.1 == k && e.2.2.2.1 == n)) then (s, true)
    else ({ s with recent := near ++ [(s.cy, k / 128, k, n, agent)] }, false)

/-- The check of a piece at a place: only a page of HBM has home slices. -/
def State.mix (s : State) (on : Bool) (p agent : Nat) (loc : Loc) (n : Nat) : State × Bool :=
  match loc with
  | .sp .. => (s, false)
  | .gl _ =>
    if !(on || s.mixing) then (s, false)
    else
      let k := s.key p loc
      if isHbm k then s.mixPa on agent k n else (s, false)

/-- The check of the aligned 16-byte pieces of an access that the device makes for a strand. -/
def State.mixSpan (s : State) (c x va n : Nat) : State × Bool :=
  let t := s.strand c x
  if !(t.dbg.mixchk || s.mixing) then (s, false)
  else (List.range ((va % 16 + n + 15) / 16)).foldl (fun (a : State × Bool) i =>
    let lo := max va (va / 16 * 16 + 16 * i)
    let hi := min (va + n) (va / 16 * 16 + 16 * i + 16)
    let (s, bad) := a.1.mix t.dbg.mixchk t.part (strandAgent c x) (.gl lo) (hi - lo)
    (s, a.2 || bad)) (s, false)

end Sys2Proof.Machine
end

