-- ==== Sys2Proof/Machine/FaultUnit.lean ====
section
/-! DEFINITION. A partition's fault unit (R102 to R111): records and their ring, responses, translations, migration
locks, floors and the moves of pages; the placement log (R300) and the housekeeping log (R392), whose rings work alike. -/

namespace Sys2Proof.Machine

/-! Device accesses by physical address. -/

/-- Writes bytes at a PA under a slot, line by line, through the L2; discarded outside HBM (R91). -/
def State.paWrite (s : State) (pa slot : Nat) (bs : List Byte) : State :=
  (lineSplit (bs.length / 128 + 2) pa 0 bs.length).foldl (fun s om =>
    let a := pa + om.1
    if !isHbm a then s else
    let b := tget 0 s.pmap (a / 2 ^ 30)
    let (s, l) := s.fetchLine a slot (fld b 7 5) (fld b 3 0) (wholeHalves (a % 128) om.2)
    (s.putLine (a / 128) (s.lineSet (a / 128) slot l (a % 128) ((bs.drop om.1).take om.2))).watchHit (unitWho slot) a om.2 0) s

/-- Reads bytes at a PA under a slot, with whether any half is poisoned; all ones outside HBM (R91). -/
def State.paRead (s : State) (pa slot n : Nat) : State × List Byte × Bool :=
  (lineSplit (n / 128 + 2) pa 0 n).foldl (fun (r : State × List Byte × Bool) om =>
    let a := pa + om.1
    if !isHbm a then (r.1, r.2.1 ++ List.replicate om.2 0xFF, r.2.2) else
    let b := tget 0 r.1.pmap (a / 2 ^ 30)
    let (s, l) := r.1.fetchLine a slot (fld b 7 5) (fld b 3 0)
    (s.putLine (a / 128) l, r.2.1 ++ (s.seen (a / 128) slot l).get (a % 128) om.2, r.2.2 || l.bad (a % 128) om.2)) (s, [], false)

/-- Raises an MSI-X vector of a partition's VF (R375). -/
def State.irq (s : State) (p v : Nat) : State := s.modPart p (fun q => { q with irqs := v :: q.irqs })

/-! The fault ring. -/

/-- A fault record as R103 lays it out. -/
def FaultRec.encode (r : FaultRec) (p : Nat) : Nat :=
  let gl := if r.agent ≤ 1 then r.strand else 0
  let pc := if r.agent ≤ 1 ∨ r.agent = 7 then r.pc else 0
  r.seq * 2 ^ 448 + r.cursor * 2 ^ 384 + r.handle * 2 ^ 372 + min r.joined 65535 * 2 ^ 356 + r.gidx * 2 ^ 336 + p * 2 ^ 330 +
  r.agent * 2 ^ 326 + dieOf r.core * 2 ^ 324 + r.core % 64 * 2 ^ 318 + gl * 2 ^ 316 + r.kind * 2 ^ 312 + r.rwx * 2 ^ 309 +
  r.level * 2 ^ 307 + r.cls * 2 ^ 303 + (scopeCode r.sc).toNat * 2 ^ 300 + r.time * 2 ^ 192 + r.va * 2 ^ 128 + pc * 2 ^ 64 + 1

/-- Whether the ring takes a record now (R105, R106). -/
def FaultUnit.room (f : FaultUnit) : Bool := f.base != 0 && decide (f.head - f.tail < 4096)

/-- Whether the ring's next place can be written now: its stack is ready (R387). -/
def State.ringUp (s : State) (p : Nat) : Bool := let f := (s.part p).fu; f.room && s.paUp (f.base + 64 * (f.head % 4096)) 64

/-- Writes one record into the ring: the record with VALID and the TIME at which it is recorded, then HEAD; an empty ring raises the
interrupt (R103, R105). -/
def State.ringPut (s : State) (p : Nat) (r : FaultRec) : State :=
  let f := (s.part p).fu
  let r := { r with time := s.time }
  let s := s.paWrite (f.base + 64 * (f.head % 4096)) p (natBytes 64 (r.encode p))
  let s := s.modFu p (fun f => { f with head := f.head + 1, recs := f.recs ++ [{ r with ringAt := some f.head }] })
  if f.head = f.tail then s.irq p 0 else s

/-- The 64 KiB page of a VA, of the 57 bits that are implemented (R98). -/
def pageOf (va : Nat) : Nat := va % 2 ^ 57 / 65536

/-- The ring still holds an outstanding record at its place: software has not consumed it, and the ring has not moved. -/
def FaultUnit.holds (f : FaultUnit) (at_ : Nat) : Bool := f.base != 0 && decide (f.tail ≤ at_) && decide (at_ < f.head)

/-- Floor entries that migrations under way will take (R110). -/
def FaultUnit.floorDue (f : FaultUnit) : Nat := (f.migs.flatMap (·.vas)).length

/-- Whether `n` more floor entries could be taken at a TIME (R110). -/
def FaultUnit.floorRoom (f : FaultUnit) (time n : Nat) : Bool :=
  f.floor == 0 || decide ((f.floors.filter (fun e => decide (time < e.2))).length + f.floorDue + n ≤ 1024)

/-- The expiry of a page's live floor at a TIME (R110). -/
def FaultUnit.floorOf (f : FaultUnit) (time va : Nat) : Option Nat :=
  (f.floors.find? (fun e => e.1 == pageOf va && decide (time < e.2))).map (·.2)

/-- A device-side request for a page's migration lock (R109): the fault unit's, on a HOST_RESIDENT fault. It waits where a table is full,
is refused while the page is in its floor, and takes a page that the host was granted in the same tick. -/
def FaultUnit.deviceLock (f : FaultUnit) (time page : Nat) : FaultUnit :=
  if (f.floorOf time (page * 65536)).isSome then f
  else match f.locks.find? (fun l => l.1 == page) with
  | none => if f.locks.length < 256 ∧ f.floorRoom time 1 then { f with locks := f.locks ++ [(page, true)] } else f
  | some (_, true) => f
  | some (_, false) =>
    if f.grants.contains (page, time) then
      { f with locks := f.locks.map (fun l => if l.1 = page then (page, true) else l), grants := f.grants.filter (fun g => g.1 != page),
               migres := if f.migPage = page then 2 * 2 ^ 56 else f.migres }
    else f

/-- A HOST_RESIDENT fault of a page that no migration has served: the fault unit asks for the page's lock (R108, R109). -/
def FaultRec.asks (r : FaultRec) (page : Nat) : Bool := r.kind == 4 && !r.served && pageOf r.va == page

/-- Some fault, outstanding or held, asks for a page's lock. -/
def FaultUnit.asked (f : FaultUnit) (page : Nat) : Bool := (f.recs ++ f.heldQ).any (·.asks page)

/-- Device-side requests that wait are made again: those of the outstanding and held HOST_RESIDENT faults (R109). -/
def State.deviceLocks (s : State) (p : Nat) : State :=
  s.modFu p (fun f => (f.recs ++ f.heldQ).foldl (fun f r => if r.asks (pageOf r.va) then f.deviceLock s.time (pageOf r.va) else f) f)

/-- Records a fault or joins it to an outstanding record of its page and access kind (R103); answers the record's SEQ. -/
def State.postFault (s : State) (p : Nat) (r : FaultRec) : State × Nat :=
  let f := (s.part p).fu
  let same (x : FaultRec) : Bool := pageOf x.va == pageOf r.va && x.rwx == r.rwx
  match f.recs.find? same, f.heldQ.find? same with
  | some x, _ =>
    let x' := { x with joined := x.joined + 1, served := x.served && r.kind != 4 }
    let s := s.modFu p (fun f => { f with recs := f.recs.map (fun y => if y.seq = x.seq then x' else y) })
    let s := if r.kind = 4 then s.modFu p (fun f => f.deviceLock s.time (pageOf r.va)) else s
    (match x.ringAt with
     | some n => (if f.holds n ∧ s.paUp (f.base + 64 * (n % 4096)) 64 then s.paWrite (f.base + 64 * (n % 4096)) p (natBytes 64 (x'.encode p)) else s, x.seq)
     | none => (s, x.seq))
  | none, some x =>
    (s.modFu p (fun f => { f with heldQ := f.heldQ.map (fun y => if y.seq = x.seq then { y with joined := y.joined + 1 } else y) }), x.seq)
  | none, none =>
    let r := { r with seq := f.nextSeq, joined := 1 }
    let s := s.modFu p (fun f => { f with nextSeq := f.nextSeq + 1 })
    let s := if r.kind = 4 then s.modFu p (fun f => f.deviceLock s.time (pageOf r.va)) else s
    if s.ringUp p ∧ f.heldQ = [] then (s.ringPut p r, r.seq)
    else
      let s := s.modFu p (fun f => { f with heldQ := f.heldQ ++ [r], ovf := true })
      (if f.heldQ = [] then s.irq p 0 else s, r.seq)

/-- Writes held faults while the ring has room, in the order in which they were detected (R105, R106). -/
def State.ringDrain (p : Nat) : Nat → State → State
  | 0, s => s
  | n + 1, s =>
    let f := (s.part p).fu
    match f.heldQ with
    | r :: rest => if s.ringUp p then ringDrain p n ((s.modFu p (fun f => { f with heldQ := rest })).ringPut p r) else s
    | [] => s

/-- Faults held for want of ring space: each access counts (R105). -/
def FaultUnit.held (f : FaultUnit) : Nat := f.heldQ.foldl (fun n r => n + r.joined) 0

/-- FSTAT (R104). -/
def FaultUnit.fstat (f : FaultUnit) : Nat := f.held * 2 ^ 32 + (if f.ovf then 1 else 0)

/-- The key that marks accesses waiting for a page request (R111). -/
def priKey (page : Nat) : Nat := 2 ^ 60 + page

/-- What an access that did not go through waits for: a fault record or a page request; none where it just tries again. -/
def park (p : Nat) (r : FaultRec) (g : Got) : State × Option Nat :=
  match g with
  | .fault s' k l va =>
    let (s', n) := s'.postFault p { r with kind := k, level := l, va := va }
    (s', some n)
  | .wait s' (some page) =>
    let f := (s'.part p).fu
    if f.pri.contains page then (s', some (priKey page))
    else if f.pri.length < 64 then
      (({ s' with dma := { part := p, va := page * 65536, n := 65536, ats := true, t := (s'.part p).tdisp == .run } :: s'.dma } : State).modFu p
        (fun f => { f with pri := f.pri ++ [page] }), some (priKey page))
    else (s', none)
  | .wait s' none => (s', none)
  | .ok s' .. => (s', none)
  | .cause s' .. => (s', none)

/-! Responses (R107). -/

/-- A strand's accesses that wait on a record: walk again, or fail with ACCESS. -/
def Strand.resolve (t : Strand) (key va : Nat) (again : Bool) : Strand :=
  let acc (slot : Nat) : Exc := { cause := .access, aux := va, slot := slot }
  if again then
    { t.mapResults (fun r => { r with faults := r.faults.filter (· != key) }) with
      stores := t.stores.map (fun r => r.retry key),
      fault := if t.fault = some key then none else t.fault }
  else
    let gone := t.stores.filter (fun r => r.pieces.any (fun q => q.fault == some key))
    let reps := gone.map (fun r => (acc r.slot, r.pc))
    -- a DICT.LOAD's bundle has issued; a fetch or a descriptor read is of the next one
    let own := if t.fault = some key ∧ t.trapping.isNone ∧ t.eret = false then [(acc 0, if t.dict.isSome then t.bpos else t.pc)] else []
    { t.mapResults (fun r => if r.faults.contains key then { r with faults := [], arrived := true, failed := true, exc := some (acc r.slot) } else r) with
             stores := t.stores.filterMap (fun r => r.giveUp key),
             reports := t.reports ++ reps ++ own,
             dict := if t.fault = some key then none else t.dict,
             want := if t.fault = some key then none else t.want,
             -- a trap whose record cannot be written is FATAL (R334), and so is an ERET whose record cannot be read (R335)
             trapping := if t.fault = some key then (if t.eret then some ({ cause := .fatal }, t.bpos, t.bpos, false)
               else t.trapping.map (fun (e, a, b, w) => ({ e with cause := .fatal }, a, b, w))) else t.trapping,
             fault := if t.fault = some key then none else t.fault }

/-- An engine command that waits on a record: it goes on, or ends in ERROR with ACCESS. -/
def Cmd.resolve (m : Cmd) (p key : Nat) (again : Bool) : Cmd :=
  if m.part = p ∧ m.parked = some key then
    -- a parked copy has left the active set and joins it again (R143)
    (if again then { m with parked := none, phase := (match m.kind with
        | .copy _ | .copyRed .. => if m.phase = .active then .queued else m.phase
        | _ => m.phase) }
     else { m with parked := none, phase := .ended, err := some .access, errAt := m.cursor })
  else m

def Core.resolve (k : Core) (p key va : Nat) (again : Bool) : Core :=
  let f := List.map (fun (m : Cmd) => m.resolve p key again)
  { k with strands := k.strands.map (fun e => (e.1, if e.2.part = p then e.2.resolve key va again else e.2)),
           copies := f k.copies, trigs := f k.trigs, kiln := f k.kiln, gath := f k.gath, chans := f k.chans }

/-- Resolves every access that waits on a key of a partition, resident or saved. -/
def State.resolve (s : State) (p key va : Nat) (again : Bool) : State :=
  let s : State :=
    { s with
      cores := s.cores.map (fun e => (e.1, e.2.resolve p key va again)),
      flights := s.flights.map (fun f => if f.part = p ∧ f.fault = some key then { f with fault := none, bad := f.bad || !again } else f) }
  s.modPart p (fun q =>
    { q with saved := q.saved.map (fun v => { v with cores := v.cores.map (fun e => (e.1, e.2.resolve p key va again)) }),
             records := q.records.map (fun r => if r.fault = some key then { r with fault := none, failed := !again } else r) })

/-! Logs. -/

/-- A placement log record's fields (R300). -/
structure PlogRec where
  va     : Nat := 0
  lid    : Nat := 0
  gidx   : Nat := 0
  kind   : Nat
  to_    : Nat
  from_  : Nat := 0xFF
  reason : Nat := 0
  req    : Nat := 0
  deriving DecidableEq, Repr

/-- Appends a record to the placement log, or drops it and counts it (R300). -/
def State.plogPut (s : State) (p w : Nat) : State :=
  let q := s.part p
  if q.plogBase = 0 ∨ 4096 ≤ q.plogHead - q.plogTail then s.modPart p (fun q => { q with plogLost := min (q.plogLost + 1) (2 ^ 32 - 1) })
  else
    let s := s.paWrite (q.plogBase + 32 * (q.plogHead % 4096)) p (natBytes 32 w)
    s.modPart p (fun q => { q with plogHead := q.plogHead + 1 })

/-- The log's next place can be written now (R387). -/
def State.plogUp (s : State) (p : Nat) : Bool :=
  let q := s.part p
  q.plogBase == 0 || s.paUp (q.plogBase + 32 * (q.plogHead % 4096)) 32

/-- A signal box logs (R300); the record waits while the ring's stack is not ready (R387). -/
def State.plog (s : State) (p : Nat) (r : PlogRec) : State :=
  let w := s.time * 2 ^ 192 + canonVa r.va * 2 ^ 128 + r.lid * 2 ^ 96 + r.gidx * 2 ^ 76 + r.kind * 2 ^ 72 + r.to_ * 2 ^ 64 +
    r.from_ * 2 ^ 56 + r.reason * 2 ^ 48 + r.req
  if s.plogUp p ∧ (s.part p).plogWait = [] then s.plogPut p w
  else s.modPart p (fun q => { q with plogWait := q.plogWait ++ [w] })

/-- Writes the records that wait, oldest first, while the ring's stack is ready. -/
def State.plogDrain (p : Nat) : Nat → State → State
  | 0, s => s
  | n + 1, s =>
    match (s.part p).plogWait with
    | [] => s
    | w :: rest => if s.plogUp p then plogDrain p n ((s.modPart p (fun q => { q with plogWait := rest })).plogPut p w) else s

def Housekeeping.room (h : Housekeeping) : Bool := h.logBase != 0 && decide (h.logHead - h.logTail < 4096)

/-- Where the signature of the CHECKPOINT with a SEQ lies (R392). -/
def Housekeeping.sigAt (h : Housekeeping) (seq : Nat) : Nat := h.sigBase + 4672 * (seq / 256 % 16)

/-- Writes one housekeeping record and extends the chain (R392). -/
def State.hkPut (s : State) (kind src data time : Nat) : State :=
  let h := s.hk
  let w := h.nextSeq * 2 ^ 448 + time * 2 ^ 384 + kind * 2 ^ 368 + src * 2 ^ 352 + data % 2 ^ 256
  let s := s.paWrite (h.logBase + 64 * (h.logHead % 4096)) 49 (natBytes 64 w)
  { s with hk := { h with logHead := h.logHead + 1, nextSeq := h.nextSeq + 1, sinceCk := h.sinceCk + 1,
                          chain := Config.sha3 (natBytes 64 h.chain.toNat ++ natBytes 64 w) } }

/-- A full ring drops a record (R392). -/
def State.hkDrop (s : State) : State := { s with hk := { s.hk with dropped := s.hk.dropped + 1 } }

/-- A CHECKPOINT record, and its signature beside it (R392). -/
def State.hkCheckpoint (s : State) (time : Nat) : State :=
  if s.hk.room then
    let seq := s.hk.nextSeq
    let h := s.hk.chain
    let s := s.hkPut 1 0 h.toNat time
    let s := { s with hk := { s.hk with sinceCk := 0 } }
    s.paWrite (s.hk.sigAt seq) 49 ((Config.mldsaSign (natBytes 8 seq ++ natBytes 64 h.toNat)).take 4627)
  else s.hkDrop

/-- A record that is no CHECKPOINT, and the CHECKPOINT that follows every 255 (R392). -/
def State.hkAppend (s : State) (kind src data time : Nat) : State :=
  let s := s.hkPut kind src data time
  if 255 ≤ s.hk.sinceCk then s.hkCheckpoint time else s

/-- Writes a LOSS record once space has freed after a drop (R392). -/
def State.hkLoss (s : State) (time : Nat) : State :=
  if s.hk.dropped ≠ 0 ∧ s.hk.room then
    ({ s with hk := { s.hk with dropped := 0 } } : State).hkAppend 2 0 (s.hk.dropped % 2 ^ 32) time
  else s

/-- Appends to the housekeeping log, after a LOSS that is due; KIND 1 is a forced CHECKPOINT (R390, R392). -/
def State.hkWrite (s : State) (kind src data time : Nat) : State :=
  let s := s.hkLoss time
  if kind = 1 then s.hkCheckpoint time
  else if s.hk.room then s.hkAppend kind src data time
  else s.hkDrop

/-- The log's next places, and those of a signature, can be written now (R387). -/
def State.hkUp (s : State) : Bool :=
  let h := s.hk
  h.logBase == 0 || (s.paUp (h.logBase + 64 * (h.logHead % 4096)) 192 && s.paUp (h.sigAt h.nextSeq) 4627 && s.paUp (h.sigAt (h.nextSeq + 2)) 4627)

/-- The housekeeping processor logs an event (R392); the record waits while its stack is not ready (R387). -/
def State.hkLog (s : State) (kind src data : Nat) : State :=
  if s.hkUp ∧ s.hk.logWait = [] then s.hkWrite kind src data s.time
  else { s with hk := { s.hk with logWait := s.hk.logWait ++ [(kind, src, data, s.time)] } }

/-- Space has freed in the log: a LOSS record that is due is written (R392). -/
def State.hkSpace (s : State) : State := if s.hkUp ∧ s.hk.logWait = [] then s.hkLoss s.time else s

/-- Writes the records that wait, oldest first, while the ring's stack is ready. -/
def State.hkDrain : Nat → State → State
  | 0, s => s
  | n + 1, s =>
    match s.hk.logWait with
    | [] => s
    | (k, src, d, t) :: rest =>
      if s.hkUp then hkDrain n (({ s with hk := { s.hk with logWait := rest } } : State).hkWrite k src d t) else s

/-! Leaves and frames. -/

/-- The level-0 entry of a page, valid or not, and its address; none where no level-0 table is reached. -/
def leafGo (s : State) (slot va : Nat) : Nat → Nat → Option (Nat × Nat)
  | 0, t => let a := t + 8 * walkIndex va 0; some (a, s.pteAt slot a)
  | n + 1, t =>
    let e := s.pteAt slot (t + 8 * walkIndex va (n + 1))
    if bit e 0 ∧ ¬ peLeaf e then leafGo s slot va n (fld e 49 8 * 256) else none

def State.leaf0 (s : State) (p va : Nat) : Option (Nat × Nat) := leafGo s p (va % 2 ^ 57) 3 (s.part p).fu.ptbase

/-- Rewrites a page's level-0 entry. -/
def State.leafPut (s : State) (p va e : Nat) : State :=
  match s.leaf0 p va with
  | some (a, _) => s.paWrite a p (natBytes 8 e)
  | none => s

/-- The table entries that lead to a page's leaf lie on stacks that are ready (R387). -/
def State.leafUp (s : State) (p va : Nat) : Bool := (walkReads s p (va % 2 ^ 57) 3 (s.part p).fu.ptbase).all (fun a => s.paUp a 8)

/-- A leaf with its MIG replaced; a REMOTE leaf has none (R100). -/
def setMig (e m : Nat) : Nat := if pePl e = 4 then e else e % 2 ^ 62 + m * 2 ^ 62

/-- Drops the cached translations of the given pages (64 KiB page numbers). -/
def State.tlbDrop (s : State) (p : Nat) (f : Nat → Bool) : State :=
  s.modFu p (fun u => { u with tlb := u.tlb.filter (fun e => !f e.1) })

/-- The stack on which a page is homed. -/
def pageStack (pa pl pln : Nat) : Nat := (home pa pl pln).2.1

/-- The next entry of a pool can be read now (R387). -/
def State.poolUp (s : State) (k : Nat) : Bool :=
  let q := tget {} s.hk.pools k
  q.head == q.tail || s.paUp (fld q.base 49 12 * 4096 + 8 * (q.head % 2 ^ fld q.base 4 0)) 8

/-- Takes frames from a pool, discarding and logging bad entries (R393): up to `n` frames, `fuel` entries looked at. DATA of the log record
is the entry; an entry whose read meets poison is bad, and its DATA is 0 (log 80). -/
def poolTake (k : Nat) : Nat → Nat → State → List Nat → State × List Nat
  | 0, _, s, acc => (s, acc)
  | fuel + 1, n, s, acc =>
    let q := tget {} s.hk.pools k
    let base := fld q.base 49 12 * 4096
    if n = 0 ∨ q.head = q.tail ∨ base = 0 ∨ !s.poolUp k then (s, acc)
    else
      let a := base + 8 * (q.head % 2 ^ fld q.base 4 0)
      let (s, bs, bad) := s.paRead a 49 8
      let v := if bad then 0 else bytesNat bs
      let s := { s with hk := { s.hk with pools := tput {} s.hk.pools k { q with head := q.head + 1 } } }
      let b := tget 0 s.pmap (v / 2 ^ 30)
      let good := !bad ∧ v % 65536 = 0 ∧ v < hbmEnd ∧
        (if k = 0 then fld b 7 5 = 0 else if k ≤ 4 then fld b 7 5 = 1 ∧ fld b 3 0 = k - 1 else fld b 7 5 = 2 ∧ fld b 3 0 = k - 5)
      if good then poolTake k fuel (n - 1) s (acc ++ [v]) else poolTake k fuel n (s.hkLog 8 (0x300 + k) v) acc

/-- The pool of a target mode. -/
def poolOf (pl pln : Nat) : Nat := if pl = 0 then 0 else if pl = 1 then 1 + pln else 5 + pln

/-- Moves the bytes, slots and poison of a 64 KiB frame to another (R108 step 5), as the partition sees them: lines in the L2 are written
back first. What lies on a failed stack reads poisoned (R387); `pl` and `pln` are the old frame's mode. The Shunter's writes of the new
frame are checked as any (R343). -/
def State.moveFrame (s : State) (p old pl pln new : Nat) : State :=
  let s := s.l2.foldl (fun s e => if old / 128 ≤ e.1 ∧ e.1 < old / 128 + 512 then
      (let s := s.recall e.1
       match tget none s.l2 e.1 with
       | some l => let s := s.writeBack e.1 l; { s with l2 := tput none s.l2 e.1 none }
       | none => s)
    else s) s
  let plain := s.remapOf old = 0 ∧ s.remapOf new = 0
  -- what a map change left undefined is copied as it reads (R92)
  let s := if plain then s
    else (List.range 1024).foldl (fun s i => s.hbmWrite (old + 64 * i) ((List.range 64).map (fun j => s.hbmSeen p (old + 64 * i + j)))) s
  let lost (h : Nat) : Bool := s.stackFailed (home (64 * h) pl pln).2.1
  let all := (List.range 1024).map (fun i => old / 64 + i)
  let cells := s.hbm.filter (fun c => decide (old ≤ c.1) && decide (c.1 < old + 65536))
  let rest := s.hbm.filter (fun c => !(decide (new ≤ c.1) && decide (c.1 < new + 65536)))
  let mine := if plain ∧ !(List.range 12).any s.stackFailed then (s.lines.filter (fun c => decide (old / 64 ≤ c.1) && decide (c.1 < old / 64 + 1024))).map (·.1) else all
  let metas := mine.map (fun h => let m := s.metaOf h; (h, { m with poison := m.poison || lost h, map := s.remapOf new }))
  let mrest := s.lines.filter (fun c => !(decide (new / 64 ≤ c.1) && decide (c.1 < new / 64 + 1024)))
  let s : State := { s with
    hbm := cells.foldl (fun m c => tput Memory.blank m (c.1 - old + new) c.2) rest,
    lines := metas.foldl (fun m c => tput {} m (c.1 - old / 64 + new / 64) c.2) mrest,
    l2 := s.l2.filter (fun e => !(decide (new / 128 ≤ e.1) && decide (e.1 < new / 128 + 512))) }
  s.watchLines (moverWho p) new 65536

/-- Whether a tensor segment is held by a migration in progress (R155). -/
def State.segHeld (s : State) (p : Nat) (d : Option QWord) : Bool :=
  match d with
  | none => false
  | some d =>
    let b := dSegBase d.toNat * 65536
    let n := dSegPages d.toNat * 65536
    (s.part p).fu.migs.any (fun m => decide (m.stage ≤ 1) && m.vas.any (fun v => decide (b ≤ v) && decide (v < b + n)))

/-- A segment's busy count (R108): tensor-form transfers that are counted and touch the given pages, of resident and of pre-empted gangs. A
GATH or SCAT in tensor form is not counted, nor held: the model's choice, since R155 speaks of what reaches the Shunter and R238 has the
gather lane perform those (log 118). -/
def State.busyCount (s : State) (p : Nat) (vas : List Nat) : Nat :=
  let hits (d : Option QWord) : Bool := match d with
    | none => false
    | some d => vas.any (fun v => decide (dSegBase d.toNat * 65536 ≤ v) && decide (v < (dSegBase d.toNat + dSegPages d.toNat) * 65536))
  let count (l : List (Nat × Core)) : Nat := l.foldl (fun n e => n + ((e.2.copies ++ e.2.trigs).filter (fun m =>
    m.part == p && m.busy && m.phase != .ended && (hits m.dd || hits m.ds))).length) 0
  count s.cores + ((s.part p).saved.map (fun v => count v.cores)).sum

/-- Tensor-form transfers whose segments are not held enter the busy counts (R155). -/
def State.acceptAll (s : State) (p : Nat) : State :=
  let f := List.map (fun (m : Cmd) => if m.part = p ∧ ¬ (s.segHeld p m.dd ∨ s.segHeld p m.ds) then { m with busy := true } else m)
  let g : Nat × Core → Nat × Core := fun (c, k) => (c, { k with copies := f k.copies, trigs := f k.trigs })
  let s : State := { s with cores := s.cores.map g }
  s.modPart p (fun q => { q with saved := q.saved.map (fun v => { v with cores := v.cores.map g }) })

/-- The page is one of a migration under way. -/
def FaultUnit.moving (f : FaultUnit) (page : Nat) : Bool := f.migs.any (fun m => m.vas.any (fun v => pageOf v == page))

/-- Whether a page may be moved by the device now: a level-0 leaf of mode 0 to 2, or a HOST page, whose lock the host does not hold
(R108, R109). A lock that the host was granted in this tick goes to the device, and one that the fault unit holds for a fault is its own. -/
def State.movable (s : State) (p va : Nat) : Bool :=
  let f := (s.part p).fu
  let page := pageOf va
  !f.locks.any (fun l => l.1 == page && !l.2 && !f.grants.contains (page, s.time)) && !f.moving page &&
  (f.floorOf s.time va).isNone &&
  (match s.leaf0 p va with
   | some (_, e) => peLeaf e && ((bit e 0 && decide (pePl e < 3)) || (!bit e 0 && pePl e == 3))
   | none => false)

/-- Starts a migration (R108 steps 1 and 2): not started where the target pool is empty or no page is left; it waits where the lock table
or the floor table is full (R109, R110), or the leaves cannot be reached yet (R387). -/
def State.migStart (s : State) (p : Nat) (vas : List Nat) (pl pln reqs : Nat) : State :=
  let f := (s.part p).fu
  let q := tget {} s.hk.pools (poolOf pl pln)
  let waits (v : Nat) : Bool := f.waiting.any (fun w => w.1.contains v)
  let vas := (vas.map (fun v => v / 65536 * 65536)).eraseDups.filter (fun v => s.movable p v && !waits v)
  let pages := vas.map pageOf
  let others := f.locks.filter (fun l => !pages.contains l.1)
  if vas = [] ∨ q.head = q.tail ∨ fld q.base 49 12 = 0 then s
  else if 256 < others.length + vas.length ∨ !f.floorRoom s.time vas.length ∨ !vas.all (s.leafUp p) then
    s.modFu p (fun f => { f with waiting := f.waiting ++ [(vas, pl, pln, reqs)] })
  else
    let host := vas.all (fun v => match s.leaf0 p v with | some (_, e) => pePl e == 3 | none => false)
    let s := vas.foldl (fun s v => match s.leaf0 p v with
      | some (_, e) => if bit e 0 then s.leafPut p v (setMig e 1) else s
      | none => s) s
    s.modFu p (fun f =>
      { f with locks := others ++ pages.map (fun n => (n, true)), grants := f.grants.filter (fun g => !pages.contains g.1),
               migres := if f.locks.contains (f.migPage, false) ∧ pages.contains f.migPage then 2 * 2 ^ 56 else f.migres,
               migs := f.migs ++ [{ vas := vas, pl := pl, pln := pln, host := host, reqs := reqs }] })

/-- Moves that wait are asked for again, oldest first. -/
def State.migAgain (s : State) (p : Nat) : State :=
  (s.part p).fu.waiting.foldl (fun s w => s.migStart p w.1 w.2.1 w.2.2.1 w.2.2.2) (s.modFu p (fun f => { f with waiting := [] }))

/-- A lock or a floor entry has become free: device-side requests that wait are made again (R109, R110). -/
def State.lockFreed (s : State) (p : Nat) : State := (s.deviceLocks p).migAgain p

/-- FRESP (R107): a response that names no outstanding record is ignored. A lock that the fault alone has asked for is given back
(log 97). -/
def State.fresp (s : State) (p seq : Nat) (again : Bool) : State :=
  match (s.part p).fu.recs.find? (fun r => r.seq == seq) with
  | none => s
  | some r =>
    let f := (s.part p).fu
    let free := r.asks (pageOf r.va) && !f.moving (pageOf r.va) &&
      !(f.recs.filter (fun x => x.seq != seq) ++ f.heldQ).any (·.asks (pageOf r.va))
    ((s.modFu p (fun f => { f with
        recs := f.recs.filter (fun x => x.seq != seq),
        locks := if free then f.locks.filter (fun l => l != (pageOf r.va, true)) else f.locks })).resolve p seq r.va again).lockFreed p

/-- A stack has become ready, or has failed: what waited for it is written, and asked for again (R387). -/
def State.thaw (s : State) : State :=
  let s := State.hkDrain (s.hk.logWait.length + 1) s
  let s := s.hkSpace
  s.parts.foldl (fun s q =>
    let p := q.1
    let s := State.plogDrain p (q.2.plogWait.length + 1) s
    let s := State.ringDrain p 4096 s
    let f := (s.part p).fu
    let s := f.recs.foldl (fun s r => match r.ringAt with
      | some n => if f.holds n ∧ s.paUp (f.base + 64 * (n % 4096)) 64 then s.paWrite (f.base + 64 * (n % 4096)) p (natBytes 64 (r.encode p)) else s
      | none => s) s
    s.lockFreed p) s

/-! Events. -/

/-- PAGE_FAULT (R103, R105): the fault unit writes the faults it holds while its ring has room. -/
def execPageFault (p : Nat) (s : State) : Host.Outcome State Fault Refusal := .next (s.ringDrain p 4096)

/-- FBUF.BASE (R106). -/
def execFbufBaseWrite (p : Nat) (v : Word) (s : State) : Host.Outcome State Fault Refusal :=
  let f := (s.part p).fu
  let base := fld v.toNat 49 18 * 2 ^ 18
  if f.head ≠ f.tail then .next s
  else
    -- no record of the old ring lies in the new one
    let s := s.modFu p (fun f =>
      let f : FaultUnit := { f with recs := f.recs.map (fun (r : FaultRec) => { r with ringAt := none }) }
      if base = 0 then { f with base := 0 } else { f with base := base, head := 0, tail := 0 })
    .next (s.ringDrain p 4096)

/-- FBUF.TAIL (R104, R105). -/
def execFbufTailWrite (p : Nat) (v : Word) (s : State) : Host.Outcome State Fault Refusal :=
  let f := (s.part p).fu
  if f.tail ≤ v.toNat ∧ v.toNat ≤ f.head then .next ((s.modFu p (fun f => { f with tail := v.toNat })).ringDrain p 4096)
  else .next s

/-- FRESP with RETRY (R107). -/
def execFrespRetry (p seq : Nat) (s : State) : Host.Outcome State Fault Refusal := .next (s.fresp p seq true)

/-- FRESP with FAIL (R107). -/
def execFrespFail (p seq : Nat) (s : State) : Host.Outcome State Fault Refusal := .next (s.fresp p seq false)

/-- MIGREQ (R109): a write whose bit 0 is clear requests nothing. LOST for a page that the host itself has locked, and LOST where BUSY
would hold too, are the model's choices: R109 names LOST for a page that the device has asked for first, and no order (log 120). -/
def execMigreq (p : Nat) (v : Word) (s : State) : Host.Outcome State Fault Refusal :=
  let f := (s.part p).fu
  let page := pageOf v.toNat
  -- the device asked for the page first and waits for room (R109)
  let asked := f.asked page || f.waiting.any (fun w => w.1.any (fun v => pageOf v == page))
  if !bit v.toNat 0 then .next s
  else
    let (res, locks) :=
      match f.floorOf s.time (page * 65536) with
      | some x => (3 * 2 ^ 56 + x, f.locks)
      | none =>
        if f.locks.any (fun l => l.1 == page) ∨ asked then (2 * 2 ^ 56, f.locks)
        else if 256 ≤ f.locks.length ∨ !f.floorRoom s.time 1 then (4 * 2 ^ 56, f.locks)
        else (1 * 2 ^ 56, f.locks ++ [(page, false)])
    .next (s.modFu p (fun f =>
      { f with migres := res, locks := locks, migPage := page,
               grants := if locks.length = f.locks.length then f.grants else (page, s.time) :: f.grants.filter (fun g => g.1 != page) }))

/-- TLBINV of `n` pages from one (R104), beside those not yet complete (log 95); a granted host move ends with it (R109, log 20). -/
def State.tlbInv (s : State) (p first n : Nat) : State :=
  (s.modFu p (fun f =>
    { f with tlbDone := false, tlbReq := f.tlbReq ++ [(first, n)],
             locks := f.locks.filter (fun l => l.2 || !(decide (first ≤ l.1) && decide (l.1 < first + n))) })).lockFreed p

/-- TLBINV (R104): bit 0 names the whole partition, otherwise the fields name a range. -/
def execTlbinv (p : Nat) (v : Word) (s : State) : Host.Outcome State Fault Refusal :=
  .next (if bit v.toNat 0 then s.tlbInv p 0 (2 ^ 41) else s.tlbInv p (pageOf v.toNat) (fld v.toNat 15 1 + 1))

/-- TLBINV of the whole partition (R104). -/
def execTlbinvWholePartition (p : Nat) (s : State) : Host.Outcome State Fault Refusal := .next (s.tlbInv p 0 (2 ^ 41))

/-- Whether a command of a partition stands inside a sector, also one of a gang that is away, or a strand of it owes an access that a later one
was performed before: their pages keep their translations until it is over (R147, R302). -/
def State.midSector (s : State) (p : Nat) : Bool :=
  let mid (e : Nat × Core) : Bool := (e.2.copies ++ e.2.trigs ++ e.2.gath ++ e.2.kiln).any (fun m => m.part == p && m.mid) ||
    e.2.strands.any (fun u => u.2.part == p && u.2.passing)
  s.cores.any mid || (s.part p).saved.any (fun v => v.cores.any mid)

/-- ATS_INVALIDATE requests that are due clear the cached host translations of their pages (R111). -/
def FaultUnit.atsClear (f : FaultUnit) (req : List (Nat × Nat)) : FaultUnit :=
  { f with ats := f.ats.filter (fun e => !req.any (fun r => decide (r.1 ≤ e) && decide (e < r.1 + r.2))), atsReq := [] }

/-- The last TLBINV completes everywhere, and with it those before it (R104); with it ATS invalidations that a sector has held back. -/
def execTlbinvDone (p : Nat) (s : State) : Host.Outcome State Fault Refusal :=
  let req := (s.part p).fu.tlbReq
  let ats := (s.part p).fu.atsReq
  if s.midSector p = true ∨ (req = [] ∧ ats = []) then .next s
  else
    let s := if ats = [] then s else s.modFu p (fun f => f.atsClear ats)
    .next (if req = [] then s
      else (s.tlbDrop p (fun e => req.any (fun r => decide (r.1 ≤ e) && decide (e < r.1 + r.2)))).modFu p (fun f => { f with tlbDone := true, tlbReq := [] }))

/-- MIGRATION_START (R108), on the driver's request. -/
def execMigrationStart (p : Nat) (vas : List Nat) (pl pln : Nat) (s : State) : Host.Outcome State Fault Refusal :=
  .next (s.migStart p vas pl pln 0)

/-- MIGRATION_COPY (R108 steps 3 to 5): once the busy count is 0, the pages are invalidated and copied to frames of the pool. -/
def execMigrationCopy (p i : Nat) (s : State) : Host.Outcome State Fault Refusal :=
  match (s.part p).fu.migs[i]? with
  | none => .next s
  | some m =>
    if m.stage ≠ 0 ∨ s.busyCount p m.vas ≠ 0 ∨ s.midSector p ∨ !m.vas.all (s.leafUp p) then .next s
    else
      let s0 := s
      let s := m.vas.foldl (fun s v => match s.leaf0 p v with
        | some (_, e) => if bit e 0 then s.leafPut p v (setMig e 2) else s
        | none => s) s
      let s := s.tlbDrop p (fun e => m.vas.any (fun v => pageOf v == e))
      let (s, frames) := poolTake (poolOf m.pl m.pln) 65536 m.vas.length s []
      let pairs := m.vas.zip frames
      -- it waits for a stack that is not ready: the pool's, or a frame's (R387)
      let up := pairs.all (fun vf => s.paUp vf.2 65536 && (match s.leaf0 p vf.1 with
        | some (_, e) => pePl e == 3 || s.paUp (peFrame e * 65536) 65536
        | none => true))
      if !up ∨ (pairs.length < m.vas.length ∧ !s.poolUp (poolOf m.pl m.pln)) then .next s0
      else
      let s := pairs.foldl (fun s vf => match s.leaf0 p vf.1 with
        | some (_, e) =>
          if pePl e = 3 then
            (s.nextFree.behindWrite vf.2 p ((List.range 65536).map (fun j => Config.hostByte s.free j))).watchLines (moverWho p) vf.2 65536
          else s.moveFrame p (peFrame e * 65536) (pePl e) (pePln e) vf.2
        | none => s) s
      .next (s.modFu p (fun f => { f with migs := lput f.migs i { m with stage := 1, frames := pairs } }))

/-- Frees a floor entry whose expiry TIME has reached, and rewrites its leaf's MIG (R110); a waiting device-side request is made again. -/
def State.floorEnd (s : State) (p i : Nat) : State :=
  match (s.part p).fu.floors[i]? with
  | none => s
  | some (page, x) =>
    if s.time < x ∨ !s.leafUp p (page * 65536) then s
    else
      let s := (s.modFu p (fun f => { f with floors := ldel f.floors i })).lockFreed p
      match s.leaf0 p (page * 65536) with
      | some (_, e) => if peMig e = 3 ∧ pePl e ≠ 4 then s.leafPut p (page * 65536) (setMig e 0) else s
      | none => s

/-- Room for one more floor entry: entries whose expiry has passed make room (R110). -/
def State.floorMake (s : State) (p : Nat) : State :=
  if (s.part p).fu.floors.length < 1024 then s
  else (List.range 1024).foldr (fun i s => s.floorEnd p i) s

/-- The frame that a migration has taken for a page. -/
def Migration.frameOf (m : Migration) (v : Nat) : Option Nat := (m.frames.find? (fun e => e.1 == v)).map (·.2)

/-- The accesses that HOST_RESIDENT faults of a page hold walk again (R108 step 7). A record in the ring stays outstanding until its FRESP;
a fault still held for want of ring space is over with its accesses (log 98). -/
def State.hostAgain (s : State) (p page : Nat) : State :=
  let mine (r : FaultRec) : Bool := r.kind == 4 && pageOf r.va == page
  let f := (s.part p).fu
  let s := ((f.recs ++ f.heldQ).filter mine).foldl (fun s r => s.resolve p r.seq r.va true) s
  s.modFu p (fun f => { f with heldQ := f.heldQ.filter (fun r => !mine r),
                               recs := f.recs.map (fun r => if mine r then { r with served := true } else r) })

/-- MIGRATION_COMPLETE (R108 steps 6 and 7): a page for which the pool had no frame keeps its entry. -/
def execMigrationComplete (p i : Nat) (s : State) : Host.Outcome State Fault Refusal :=
  match (s.part p).fu.migs[i]? with
  | none => .next s
  | some m =>
    if m.stage ≠ 1 ∨ !m.vas.all (s.leafUp p) then .next s
    else
      let s := m.vas.foldl (fun s v =>
        let s := s.floorMake p
        -- no entry is taken at FLOOR 0, nor where FLOOR was set after the start and the table has filled since (log 81)
        let f0 := if (s.part p).fu.floors.length < 1024 then (s.part p).fu.floor else 0
        match s.leaf0 p v, m.frameOf v with
        | some (_, e), none => if bit e 0 then s.leafPut p v (setMig e 0) else s
        | some (_, e), some fr =>
          let old := pageStack (peFrame e * 65536) (pePl e) (pePln e)
          let e1 := e % 2 ^ 62 - fld e 49 16 * 2 ^ 16 + fr - fld e 15 12 * 2 ^ 12 + (if m.pl = 0 then 0 else m.pln) * 2 ^ 12 -
            fld e 10 8 * 2 ^ 8 + m.pl * 2 ^ 8
          let e1 := if pePl e = 3 then (e1 - fld e1 60 55 * 2 ^ 55 + p * 2 ^ 55) ||| 1 else e1
          let s := s.leafPut p v (e1 + (if f0 = 0 then 0 else 3 * 2 ^ 62))
          let s := { s with frames := s.frames.filter (fun c => c.1 / 4 != fr / 65536) }
          let s := if f0 = 0 then s else s.modFu p (fun f => { f with floors := f.floors ++ [(pageOf v, s.time + f0)] })
          let s := s.hostAgain p (pageOf v)
          s.plog p { va := v, kind := 2, to_ := pageStack fr m.pl m.pln, from_ := if pePl e = 3 then 0xFF else old, req := m.reqs }
        | none, _ => s) s
      .next (((s.modFu p (fun f => { f with migs := ldel f.migs i, locks := f.locks.filter (fun l => !m.vas.any (fun v => pageOf v == l.1)) })).acceptAll p).lockFreed p)

/-- FLOOR_EXPIRY (R110): an entry whose expiry TIME has reached is freed and its leaf's MIG is STABLE. -/
def execFloorExpiry (p i : Nat) (s : State) : Host.Outcome State Fault Refusal := .next (s.floorEnd p i)

/-- PAGE_REQUEST_RESPONSE (R111): success caches the translation, failure resolves as FAIL does. -/
def execPageRequestResponse (p i : Nat) (ok : Bool) (s : State) : Host.Outcome State Fault Refusal :=
  match (s.part p).fu.pri[i]? with
  | none => .next s
  | some page =>
    let s := s.modFu p (fun f => { f with pri := ldel f.pri i, ats := if ok then page :: f.ats else f.ats })
    .next (s.resolve p (priKey page) (page * 65536) ok)

/-- ATS_INVALIDATE (R111): clears the cached host translations of a run of 64 KiB pages, after a sector that stands half written (R147). -/
def execAtsInvalidate (p va count : Nat) (s : State) : Host.Outcome State Fault Refusal :=
  .next (s.modFu p (fun f =>
    let req := f.atsReq ++ [(pageOf va, count)]
    if s.midSector p then { f with atsReq := req } else f.atsClear req))

end Sys2Proof.Machine
end

