-- ==== Sys2Proof/Machine/Order.lean ====
section
/-! DEFINITION. What comes before what (R166, R183, R305 to R320): the accesses of a strand that are not performed, the edges between them,
and the agents that could see them out of order. -/

namespace Sys2Proof.Machine

/-! Events (R305, R307). -/

/-- What the ordering rules see of an access. -/
structure Event where
  seq  : Nat
  cls  : Nat
  wr   : Bool
  rd   : Bool
  sc   : Scope := .domain
  acq  : Bool := false
  rel  : Bool := false
  /-- write-backs of a stash window: any FENCE that names the later class orders them -/
  wb   : Bool := false
  at_  : List (Loc × Nat)
  gated : Bool := false
  /-- an event of the M slot: cpo and fnc hold between no others (R307, R308) -/
  m    : Bool := true
  deriving DecidableEq, Repr

def Store.event (r : Store) : Event :=
  { seq := r.seq, cls := r.cls, wr := true, rd := false, sc := r.sc, rel := r.rel, wb := r.act.any (fun a => a.1 != 9),
    at_ := r.pieces.map (fun q => (q.loc, q.bytes.length)), gated := decide (r.depth ≠ 0) }

def Result.event (r : Result) (l : LoadOp) : Event :=
  let wr := match l.kind with | .atom .. => true | _ => false
  { seq := r.seq, cls := l.cls, wr := wr, rd := true, sc := l.sc, acq := l.acq, rel := l.rel,
    at_ := l.pieces.map (fun q => (q.loc, q.n)) ++ l.more }

/-- The strand's accesses that are not performed, those of a program that a trap interrupted among them. -/
def Strand.open_ (t : Strand) : List Event :=
  (t.stores.map Store.event) ++
  (t.flying.filterMap (fun r => match r.load with
    | some l => if r.arrived then none else some (r.event l)
    | none => none))

/-! Accesses not performed. -/

/-- Whether an access that a participant made before its arrival in a generation is not performed (R310). -/
def State.barOpen (s : State) (cl b g : Nat) : Bool :=
  (List.range 4).any (fun i => (s.core (4 * cl + i)).strands.any (fun e =>
    e.2.arrs.any (fun a => a.1 == b && a.2.1 == g && e.2.openSeqs.any (fun n => decide (n < a.2.2)))))

/-- Whether core `d` lies in the instance of a scope around core `c`, for the scopes inside a die (R305). -/
def scopeNear (sc : Scope) (c d : Nat) : Bool :=
  match sc with
  | .core => d == c
  | .cluster => clusterOf d == clusterOf c
  | .die => dieOf d == dieOf c
  | _ => false

/-- Whether a strand of a core within whose scope core `c` lies has performed an access before one that an edge of that scope puts first,
which is still to be performed: an agent of core `c` that comes to be now waits for it, so that it cannot see the two out of order (R315).
`me`: the strand of core `c` that asks, none for an engine. -/
def State.overtaken (s : State) (c : Nat) (me : Option Nat) : Bool :=
  s.cores.any (fun e => e.2.strands.any (fun u => !(e.1 == c && me == some u.1) &&
    u.2.passed.any (fun a => scopeNear a.2 e.1 c && u.2.openSeqs.contains a.1)))

/-- Whether an access that waits on other strands alone must still wait: on the participants of a barrier generation that its strand has
waited for (R310), and on a strand that has taken its scope for empty (R315). -/
def State.othersOpen (s : State) (c x : Nat) : Bool :=
  (s.strand c x).waits.any (fun w => s.barOpen (clusterOf c) w.1 w.2.1) || s.overtaken c (some x)

/-- Whether an access of class 15 that the device makes for a strand must still wait (R307, R310, R315): an earlier access is not performed,
of the strand, or of another that comes first. Stores at a region's gate are no events yet (R318). -/
def State.busy15 (s : State) (c x : Nat) : Bool :=
  let t := s.strand c x
  t.stores.any (fun r => r.depth == 0) || t.flying.any (fun r => r.load.isSome && !r.arrived) || s.othersOpen c x

/-! Ordering within a strand (R166, R183, R307, R308). -/

/-- Whether an edge of a scope binds strand `x` of core `c` now (R305, R307): an agent beside it within the scope may see the order, a strand
that runs or still has accesses to perform, or an engine with work. A scope from PACKAGE on always binds. -/
def State.binds (s : State) (c x : Nat) (sc : Scope) : Bool :=
  match sc with
  | .strand => false
  | .core | .cluster | .die => s.cores.any (fun e => scopeNear sc c e.1 &&
      (e.2.strands.any (fun u => !(e.1 == c && u.1 == x) && ((u.2.resident && !u.2.exited) || u.2.openSeqs != [])) ||
       e.2.copies != [] || e.2.trigs != [] || e.2.kiln != [] || e.2.gath != [] || e.2.chans != []))
  | _ => true

/-- An access to another package is performed at DOMAIN, whatever its sc (R305). -/
def State.raised (s : State) (p : Nat) (e : Event) : Event :=
  if e.at_.any (fun a => match a.1 with
    | .sp .. => false
    | .gl va => match s.leafPlace p va with
      | some (_, .remote ..) => true
      | _ => false) then { e with sc := .domain } else e

/-- The narrower of two scopes. -/
def scopeMin (a b : Scope) : Scope := if (scopeCode a).toNat ≤ (scopeCode b).toNat then a else b

/-- The edges from an earlier access `b` to `a` by their scopes: cpo, lst, acq, rel and fnc (R307, R308), and accesses to a common byte
(R166, R313), but for a load of what an earlier store of the strand holds, which has the store's bytes. -/
def State.edges (s : State) (t : Strand) (b a : Event) : List Scope :=
  let overlap : List Scope :=
    if (b.rd || a.wr) && b.at_.any (fun u => a.at_.any (fun v => s.sameByte t.part u.1 u.2 v.1 v.2)) then [.system] else []
  if b.gated then (if a.rd then [] else overlap)
  else
    (if b.m && a.m && (b.cls == a.cls || b.cls == 15 || a.cls == 15) then [scopeMin b.sc a.sc] else []) ++ (if b.rd && a.wr then [.system] else []) ++
    (if b.acq then [b.sc] else []) ++ (if a.rel then [a.sc] else []) ++
    (t.fences.filter (fun f => b.m && a.m && decide (b.seq < f.seq) && decide (f.seq < a.seq) && f.mask.testBit a.cls && (b.wb || f.mask.testBit b.cls))).map (·.sc) ++
    overlap

/-- Whether an earlier access `b` must be performed before `a`: an edge between them binds. -/
def State.ordered (s : State) (c x : Nat) (t : Strand) (b a : Event) : Bool := (s.edges t b a).any (s.binds c x)

/-- Who a strand is, for the accesses the device makes for it. -/
def State.whoOf (s : State) (c x agent : Nat) : Who :=
  { part := (s.strand c x).part, slot := (s.strand c x).part, core := c, ctx := x, agent := agent, node := s.node }

/-- Who a strand is at its M slot: its accesses go through the core's windows. -/
def State.mWho (s : State) (c x : Nat) : Who := { s.whoOf c x 0 with stash := true }

/-- Whether every place can be accessed now. -/
def State.canTouch (s : State) (c x : Nat) (u : Use) (at_ : List (Loc × Nat)) : Bool :=
  at_.all (fun a => match a.1 with
    | .sp .. => true
    | .gl va => match s.glProbe (s.mWho c x) va a.2 u with
      | .ok .. => true
      | _ => false)

/-- Whether an access of a strand could be performed as far as its pages and the barriers it waits for go. -/
def State.atHand (s : State) (c x : Nat) (t : Strand) (e : Event) : Bool :=
  s.canTouch c x (if e.wr then (if e.rd then .rw else .w) else .r) e.at_ &&
    t.waits.all (fun w => decide (e.seq < w.2.2) || !s.barOpen (clusterOf c) w.1 w.2.1)

/-- Whether an access `a` may be performed before earlier ones of its strand that no binding edge puts first: each of those could be
performed now too, so that a pre-emption need not wait for a page fault of one (R302). Stores at a region's gate are none of them, unless
one of them waits for such a store. -/
def State.mayPass (s : State) (c x : Nat) (t : Strand) (a : Event) : Bool :=
  let old := t.open_.filter (fun b => decide (b.seq < a.seq))
  if old.all (fun b => s.edges t (s.raised t.part b) a == []) then true
  else
    let es := old.filter (fun b => !b.gated)
    es.all (s.atHand c x t) && old.all (fun d => !d.gated || es.all (fun e => !(decide (d.seq < e.seq) && s.ordered c x t d e)))

/-- An access of strand `x` of core `c` may be performed when nothing before it must come first: of its own strand, of the
participants of a barrier generation that it waited for (R310), and of a strand that has taken its scope for empty (R315). -/
def State.mayPerform (s : State) (c x : Nat) (t : Strand) (a : Event) : Bool :=
  let a := s.raised t.part a
  t.open_.all (fun b => !decide (b.seq < a.seq) || !s.ordered c x t (s.raised t.part b) a) && s.mayPass c x t a &&
  t.waits.all (fun w => decide (a.seq < w.2.2) || !s.barOpen (clusterOf c) w.1 w.2.1) && !s.overtaken c (some x)

/-- Notes the accesses that `a` is performed before, with the scopes of the edges that do not bind now. Their pages are translated, and keep
their translations until they are performed (`State.midSector`). -/
def State.overtake (s : State) (c x : Nat) (a : Event) : State :=
  let t := s.strand c x
  let old := t.open_.filter (fun b => decide (b.seq < a.seq))
  let new := old.flatMap (fun b =>
    ((s.edges t (s.raised t.part b) (s.raised t.part a)).filter (fun sc => sc != .strand && !s.binds c x sc)).map (fun sc => (b.seq, sc)))
  if new = [] then s
  else
    let s := old.foldl (fun s b => b.at_.foldl (fun s q => match q.1 with
      | .sp .. => s
      | .gl va => match s.glProbe (s.mWho c x) va q.2 (if b.wr then (if b.rd then .rw else .w) else .r) with
        | .ok s .. => s
        | _ => s) s) s
    s.modStrand c x (fun t => { t with passed := t.passed.filter (fun p => t.openSeqs.contains p.1) ++ new })

end Sys2Proof.Machine
end

