-- ==== Sys2Proof/Machine/Trap.lean ====
section
/-! DEFINITION. What a cause does (R322, R323): rolling a region back (R330 to R332), taking a trap (R334 to R336), the
return from one (R339), ending a launch (R335); and the release of gated work (R318, R327). -/

namespace Sys2Proof.Machine

/-- Free bytes for what the device writes in a layout the spec does not give (log 9). -/
def freeBytes (i n : Nat) : List Byte := (List.range n).map (fun j => Config.freeByte (i * 65536 + j))

/-! Engine commands. -/

/-- Removes the commands that `f` selects from every queue of a core, with their early-read marks (R279). One that stands inside a sector
stays until it has written it whole (R147), for nobody: it has no token, and its launch no region. -/
def Core.cancel (k : Core) (f : Cmd → Bool) : Core :=
  let gone := (k.copies ++ k.trigs ++ k.kiln ++ k.gath ++ k.chans).filter f
  let keep := List.filter (fun (m : Cmd) => !f m)
  let whole := List.filterMap (fun (m : Cmd) =>
    if !f m then some m else if m.wrote then some { m with kp := 0, ended := true } else none)
  { k with copies := whole k.copies, trigs := whole k.trigs, kiln := whole k.kiln, gath := whole k.gath, chans := keep k.chans,
           marks := k.marks.filter (fun a => !gone.any (fun m => m.ctx == a.2.1 && m.seq == a.2.2.2)) }

/-- A keep command of RGN.KEEP (R325). -/
def CmdKind.isKeep : CmdKind → Bool
  | .keepP _ | .keepY .. => true
  | _ => false

/-- A DRAIN or an ACC.ZERO that has begun completes, whatever becomes of its region (R239, R240). -/
def Cmd.runsOn (m : Cmd) : Bool :=
  m.phase != .queued && (match m.kind with
    | .drain .. | .accZero _ => true
    | _ => false)

/-- Commands of a context that stand in its regions of depth `d` and deeper. -/
def Cmd.of (m : Cmd) (x d : Nat) : Bool := m.ctx == x && decide (d ≤ m.depth)

/-! Ending a launch. -/

/-- A strand whose launch has ended: it issues nothing, its gated stores and its held work are gone (R335). -/
def Strand.kill (t : Strand) : Strand :=
  { t with
    exited := true, plat := {}, atoms := t.flying.filter Result.owesWrite, stores := t.stores.filter (fun r => r.depth == 0), frames := [], handler := none,
    trapping := none, rolling := none, eret := false, enter := none, reports := [], ssWait := none, dict := none,
    fault := none, want := none, wantBad := [], post := 0, pend := none, hold := .run }

/-- The launch ends ABORTED with CODE: every gang stops, its engine commands are cancelled (R335). -/
def State.abortLaunch (s : State) (p lid code : Nat) : State :=
  let mine (t : Strand) : Bool := t.resident && t.part == p && t.lid == lid
  let cmd (m : Cmd) : Bool := m.part == p && m.lid == lid
  let s : State :=
    { s with
      cores := s.cores.map (fun e =>
        let k := e.2.cancel cmd
        (e.1, { k with strands := k.strands.map (fun u => (u.1, if mine u.2 then u.2.kill else u.2)) })),
      flights := s.flights.filter (fun f => !(f.part == p && f.lid == lid)) }
  s.modPart p (fun q =>
    let q := { q with saved := q.saved.filter (fun v => v.lid != lid) }
    q.modLaunch lid (fun l =>
      { l with abort := some (l.abort.getD code),
               gangs := l.gangs.map (fun g => (g.1, if g.2.phase = .saved then { g.2 with phase := .ended } else g.2)) }))

/-! Rollback. -/

/-- Whether a cause rolls the innermost region back (R322): always, or under the region's abort mask. -/
def Strand.rollsBack (t : Strand) (e : Exc) : Bool :=
  match t.frames with
  | [] => false
  | f :: _ =>
    t.handler.isNone &&
    match e.cause with
    | .checkFail | .uncorrectable => true
    | .software => e.code.isSome
    | .symViolation => bit f.abm 0
    | .packOverrun => bit f.abm 2
    | .tokenError =>
      (match e.inner with
       | some .uncorrectable => true
       | some .symViolation => bit f.abm 0
       | some .gatherRange => bit f.abm 1
       | _ => false)
    | _ => false

/-- RGN.CAUSE (R332). -/
def rgnCauseWord (e : Exc) (rid depth left esc epc : Nat) : Nat :=
  e.cause.code * 2 ^ 56 + (e.code.getD e.slot) * 2 ^ 48 + rid * 2 ^ 40 + depth * 2 ^ 36 + left * 2 ^ 32 + min esc 255 * 2 ^ 24 + epc % 2 ^ 24

/-- Slots that cancelled receives have taken go back to their channel: TSEQ returns to its value before the first of them (R264). -/
def State.giveBack (s : State) (m : Cmd) : State :=
  match m.kind, m.slot with
  | .chRecv n _, some _ => s.modGang m.part m.lid m.gang (fun g =>
      let e := tget {} g.ends n
      { g with ends := tput {} g.ends n { e with tseq := if (e.tseq + 2 ^ 32 - m.aux) % 2 ^ 32 < 2 ^ 31 then m.aux else e.tseq } })
  | _, _ => s

/-- Changes what another strand's receives left undefined of the regions of a strand: their depth, and whether they have rolled back
(R264). -/
def State.messMap (s : State) (c x : Nat) (f : Nat × Bool → Option (Nat × Bool)) : State :=
  let t := s.strand c x
  if ((s.launch t.part t.lid).gang t.gang).ends.any (fun e => e.2.mess != []) then
    s.modGang t.part t.lid t.gang (fun g => { g with ends := g.ends.map (fun e => (e.1, { e.2 with
      mess := e.2.mess.filterMap (fun a => if a.1 = t.sid then (f a.2).map (fun b => (t.sid, b)) else some a) })) })
  else s

/-- The regions of depth `d` and deeper are over: a receive of the strand is no retry of them (R264). -/
def State.messOver (s : State) (c x d : Nat) : State := s.messMap c x (fun a => if d ≤ a.1 then none else some a)

/-- The undoing of a region's work, without its kept state: gate entries, held and running commands, tokens (R330). -/
def State.undo (s : State) (c x d : Nat) : State :=
  let s := (((s.core c).chans.filter (fun m => m.of x d)).foldl State.giveBack s).messMap c x (fun a => some (if d ≤ a.1 then (d, true) else a))
  let s := s.modCore c (fun k => k.cancel (fun m => m.of x d && !m.kind.isKeep && !m.runsOn))
  s.modStrand c x (fun t =>
    let toks := t.kdep.filter (fun e => decide (d ≤ e.2))
    let t := { t.discard with stores := t.stores.filter (fun r => decide (r.depth < d)), kdep := t.kdep.filter (fun e => decide (e.2 < d)) }
    toks.foldl (fun t e => t.setTok e.1 .empty) t)

/-- Restores what a frame keeps, in order (R330). -/
def State.restoreKeeps (s : State) (c x : Nat) (ks : List KeepEntry) : State :=
  ks.foldl (fun s e =>
    match e with
    | .g r v => s.modStrand c x (fun t => { t with regs := { t.regs with g := tput 0 t.regs.g r v } })
    | .s en v =>
      let t := s.strand c x
      if en < t.regs.low then s.modCore c (fun k => k.devWrite (t.ctl.spillBase + 8 * en) (natBytes 8 v.toNat))
      else s.setStrand c x { t with regs := { t.regs with s := tput 0 t.regs.s en v } }
    | .v r v => s.modStrand c x (fun t => { t with regs := { t.regs with v := tput 0 t.regs.v r v } })
    | .y r tile p o => s.modCore c (fun k =>
        { k with tiles := (tile.foldl (fun t w => tput 0 t (r * 16384 + w.1) w.2) (k.tiles.filter (fun w => w.1 / 16384 ≠ r))),
                 tPoison := tput false k.tPoison r p, tOver := tput false k.tOver r o })
    | .p off cs => s.modCore c (fun k => k.spPut off cs)
    | .pending _ => s) s

/-- The kept state of a frame with its header: FMT, RSEED, RCTR, then the scalar frame (R324, R330). -/
def State.restoreFrame (s : State) (c x : Nat) (f : Frame) : State :=
  let s := (s.modCore c (fun k => k.noteBanks true f.start f.fill)).restoreKeeps c x f.keeps
  let t := s.strand c x
  let t := { t with ctl := { t.ctl with fmt := f.fmt, rseed := f.rseed, rctr := f.rctr } }
  let (s, t) := setFrame c f.fb t s
  s.setStrand c x t

/-- Whether a keep command of the strand's frames has not completed. -/
def Strand.keeping (t : Strand) : Bool := t.frames.any (fun f => f.keeps.any (fun e => match e with | .pending _ => true | _ => false))

/-- What the rollback of the strand's region at depth `d` waits for: its keep commands (R330), and a DRAIN or an ACC.ZERO of the region that
has begun, which completes (R239, R240) and may still write scratchpad and tiles that the frame keeps. -/
def State.rollHeld (s : State) (c x d : Nat) : Bool := (s.strand c x).keeping || (s.core c).kiln.any (fun m => m.of x d && m.runsOn)

/-! Trap entry. -/

/-- The address of a strand's trap slot (R336): CID[7:0] * 4 + context, from a base of 57 bits in canonical form (R101). -/
def trapSlot (base c x : Nat) : Nat := (canonVa base + 128 * (c * 4 + x)) % 2 ^ 64

/-- The trap record (R336), 128 bytes. -/
def trapRecord (t : Strand) (e : Exc) (tpc epc time : Nat) : List Byte :=
  natBytes 8 (t.frames.length * 2 ^ 24 + e.slot * 2 ^ 8 + e.cause.code) ++ natBytes 8 tpc ++ natBytes 8 epc ++ natBytes 8 tpc ++
  natBytes 8 e.aux ++ natBytes 8 t.sclk ++ natBytes 8 time ++ natBytes 8 t.regs.fb ++ List.replicate 64 0

/-- A fault record's fixed part for an access of a strand. -/
def Strand.recOf (t : Strand) (c x agent cls : Nat) (sc : Scope) (rwx pc handle : Nat) : FaultRec :=
  { va := 0, kind := 0, rwx := rwx, level := 0, agent := agent, core := c, strand := x, gidx := t.gang, cls := cls, sc := sc,
    pc := pc, handle := handle, cursor := 0, time := 0 }

/-- The rest of a trap once its record stands (R334 steps 4 and 5): abort, a wait for the handler's check, or the handler. -/
def State.enterHandler (s : State) (c x : Nat) (e : Exc) (tpc epc : Nat) : State :=
  let t := s.strand c x
  let q := s.part t.part
  if q.segStat = 1 then s.setStrand c x { t with trapping := some (e, tpc, epc, true) }
  else if q.trapSeg = 0 ∨ q.segStat ≠ 2 then s.abortLaunch t.part t.lid e.cause.code
  else if t.ctl.spillSize < 8 * (t.regs.fb + 96) then s.abortLaunch t.part t.lid 0x3F
  else
    let sh : Shadow :=
      { plat := t.plat, sclk := t.sclk, record := trapSlot q.trapBase c x, cause := e.cause, tpc := tpc, epc := epc, slot := e.slot,
        code := e.code, idle := t.idle, reports := t.reports, seg := (canonVa (q.trapSeg / 64 * 64) + 64, q.segLen, q.segStarts) }
    let t := { t with
      plat := {}, handler := some sh, trapping := none, sclk := 0, pc := 0, bpos := 0, idle := 0, reports := [], enter := none,
      want := none, wantBad := [], hold := .run, tries := 0 }
    let (s, t) := setFrame c (t.regs.fb + 48) t s
    let t := { t with regs := { t.regs with
      s := tput 0 (tput 0 t.regs.s t.regs.fb (BitVec.ofNat 64 sh.record)) (t.regs.fb + 1) (BitVec.ofNat 64 e.cause.code) } }
    s.setStrand c x t

/-- Taking a trap (R334): the record, a store of class 15 after the strand's earlier accesses (R307), then the handler. A page fault on
the slot keeps the strand frozen (R102). -/
def State.trap (s : State) (c x : Nat) (e : Exc) (tpc epc : Nat) : State :=
  let t := s.strand c x
  if t.handler.isSome ∨ e.cause = .fatal then s.abortLaunch t.part t.lid 0x3F
  else
    let base := (s.part t.part).trapBase
    if base = 0 then s.abortLaunch t.part t.lid e.cause.code
    else if s.busy15 c x then s.setStrand c x { t with trapping := some (e, tpc, epc, false) }
    else
      let (s, mixed) := s.mixSpan c x (trapSlot base c x) 128
      if mixed then s.abortLaunch t.part t.lid 0x3F
      else match s.glWrite (s.whoOf c x 0) (trapSlot base c x) tpc (trapRecord t e tpc epc s.time) with
      | .ok s _ _ ts => (s.countFrames c ts).enterHandler c x e tpc epc
      | .cause s _ _ => s.abortLaunch t.part t.lid 0x3F
      | g =>
        let (s, k) := park t.part (t.recOf c x 0 15 .core 2 tpc 0) g
        s.modStrand c x (fun t => { t with trapping := some (e, tpc, epc, false), fault := k })

/-- A waiting trap goes on when its fault is resolved, or the check of the handler has ended (R334, R380). -/
def State.trapAgain (s : State) (c x : Nat) : State :=
  let t := s.strand c x
  match t.trapping with
  | none => s
  | some (e, tpc, epc, done) =>
    if t.fault.isSome then s
    else if done then s.enterHandler c x e tpc epc
    else s.trap c x e tpc epc

/-- Whether a waiting trap can go on: its earlier accesses are performed, or the handler's check has ended. -/
def State.trapReady (s : State) (c x : Nat) : Bool :=
  let t := s.strand c x
  match t.trapping with
  | none => true
  | some (_, _, _, done) => if done then (s.part t.part).segStat != 1 else !s.busy15 c x

/-- The rollback's second half, once nothing holds it (R330, R331); the fallback issues at the next schedule cy. -/
def State.rollEnd (s : State) (c x : Nat) : State :=
  let t := s.strand c x
  match t.rolling, t.frames with
  | some (e, epc, _, close), f :: rest =>
    if s.rollHeld c x t.frames.length then s
    else
      let s := s.restoreFrame c x f
      let s := s.modStrand c x (fun t =>
        { t with rolling := none, pc := f.tgt, bpos := f.tgt, idle := 0, sclk := t.sclk + 1, hold := .run,
                 frames := if close then rest else t.frames })
      if close then (s.messOver c x t.frames.length).trap c x { cause := .retryExhausted, aux := e.cause.code, slot := e.slot } f.tgt epc else s
  | _, _ => s

/-- Rolls back, escalating while a budget is 0 (R330, R331): `esc` escalations so far. -/
def State.rollGo (c x : Nat) (e : Exc) (epc : Nat) : Nat → Nat → State → State
  | 0, _, s => s
  | n + 1, esc, s =>
    let t := s.strand c x
    match t.frames with
    | [] => s
    | f :: rest =>
      let d := t.frames.length
      let s := s.undo c x d
      if f.budget = 0 ∧ 1 < d then
        rollGo c x e epc n (esc + 1) (s.modStrand c x (fun t => { t with frames := rest }))
      else
        let left := f.budget - 1
        let s := s.modStrand c x (fun t =>
          { t with
            frames := { f with budget := left } :: rest, reports := [], enter := none, idle := 0, want := none, wantBad := [],
            rolling := some (e, epc, esc, f.budget == 0),
            ctl := { t.ctl with rgnCause := rgnCauseWord e f.rid d left esc epc } })
        s.rollEnd c x

def State.rollback (s : State) (c x : Nat) (e : Exc) (epc : Nat) : State := s.rollGo c x e epc 9 0

/-- A cause takes effect at a bundle boundary (R322, R323): `tpc` the position that does not issue, `epc` the offending one. -/
def State.raiseAt (s : State) (c x : Nat) (e : Exc) (tpc epc : Nat) : State :=
  let t := s.strand c x
  if t.handler.isSome then s.abortLaunch t.part t.lid 0x3F
  else if t.rollsBack e then s.rollback c x e epc
  else s.trap c x e tpc epc

/-! Release of gated work (R318, R327). -/

/-- Releases the stores of depth `d` and deeper: they take a place after every earlier access, in their old order, and the
FENCEs that stood between them stand between them still. -/
def Strand.release (t : Strand) (d from_ : Nat) : Strand :=
  let gated := t.stores.filter (fun r => decide (d ≤ r.depth))
  let rest := t.stores.filter (fun r => !decide (d ≤ r.depth))
  let fs := t.fences.filter (fun f => decide (from_ ≤ f.seq))
  let n := t.seq
  let stores := gated.map (fun r => { r with depth := 0, seq := n + (r.seq - from_) })
  let fences := fs.map (fun f => { f with seq := n + (f.seq - from_) })
  let t := { t with kdep := t.kdep.filter (fun e => decide (e.2 < d)) }
  if gated = [] then t
  else { t with stores := rest ++ stores, fences := t.fences ++ fences, seq := n + (n - from_) + 1 }

/-- Passes the stores and the tokens of depth `d` to the parent region (R327). -/
def Strand.passUp (t : Strand) (d : Nat) : Strand :=
  { t with stores := t.stores.map (fun r => if r.depth = d then { r with depth := d - 1 } else r),
           kdep := t.kdep.map (fun e => if e.2 = d then (e.1, d - 1) else e) }

/-! Return from a trap (R339). -/

/-- The last part of ERET, once its record is read: ACT and RPC. -/
def State.eretAct (s : State) (c x : Nat) (act rpc from_ : Nat) : State :=
  let t := s.strand c x
  match t.handler with
  | none => s
  | some h =>
    let (s, t) := setFrame c (t.regs.fb - 48) t s
    let t := { t with
      handler := none, eret := false, tries := 0, plat := h.plat, sclk := h.sclk, reports := h.reports ++ t.reports, enter := none,
      pc := h.tpc, bpos := h.tpc, idle := h.idle, hold := .run }
    let s := s.setStrand c x t
    match act with
    | 0 =>
      if rpc = h.tpc then s
      else s.setStrand c x
        { t with pc := rpc, bpos := rpc, idle := 0,
                 enter := some { due := h.sclk, target := rpc, land := true, from_ := from_ } }
    | 1 => s.abortLaunch t.part t.lid h.cause.code
    | 2 =>
      if t.frames = [] then s.abortLaunch t.part t.lid 0x3F
      else s.rollback c x { cause := h.cause, slot := h.slot, code := h.code } h.epc
    | _ => s.abortLaunch t.part t.lid 0x3F

/-- ERET after it has issued (R339): its record is read with class 15 at scope CORE; a page fault freezes the strand. -/
def State.eretGo (s : State) (c x : Nat) : State :=
  let t := s.strand c x
  match t.handler with
  | none => s
  | some h =>
    if t.fault.isSome then s
    else
      let (s, mixed) := s.mixSpan c x h.record 32
      if mixed then s.abortLaunch t.part t.lid 0x3F
      else match s.glRead (s.whoOf c x 0) h.record 32 t.bpos with
      | .ok s bs bad ts =>
        if bad then s.abortLaunch t.part t.lid 0x3F
        else (s.countFrames c ts).eretAct c x (fld (bytesNat (bs.take 8)) 19 16) (fld (bytesNat (bs.drop 24)) 23 0) t.bpos
      | .cause s _ _ => s.abortLaunch t.part t.lid 0x3F
      | g =>
        let (s, k) := park t.part (t.recOf c x 0 15 .core 1 t.bpos 0) g
        s.modStrand c x (fun t => { t with eret := true, fault := k })

end Sys2Proof.Machine
end

