-- ==== Sys2Proof/Machine/Pipeline.lean ====
section
/-! DEFINITION. Issue and landing: how a bundle issues as a whole (R38, R57, R62), what happens between bundles (R58, R59,
R80, R89, R171), barriers as a strand leaves them (R280 to R283), and the meaning of a lone operation. -/

namespace Sys2Proof.Machine

/-! Barriers. -/

/-- Whether a strand's gang is bound to a barrier (R280): its launch binds every barrier of its mask. -/
def State.bound (s : State) (t : Strand) (b : Nat) : Bool := bit (s.launch t.part t.lid).bars b

def Cluster.bar (k : Cluster) (b : Nat) : Barrier := tget {} k.bars b
def State.bar (s : State) (cl b : Nat) : Barrier := (s.cluster cl).bar b
def State.setBar (s : State) (cl b : Nat) (v : Barrier) : State :=
  s.modCluster cl (fun k => { k with bars := tput {} k.bars b v })

/-- The strand's arrivals with one more (R310): kept while an access before it is open. -/
def Strand.arrived (t : Strand) (b g : Nat) : List (Nat × Nat × Nat) :=
  (t.arrs ++ [(b, g, t.seq)]).filter (fun a => t.openSeqs.any (fun n => decide (n < a.2.2)))

/-- WaitFor completes (R281): the strand's later accesses follow the accesses before the generation's arrivals (R310). -/
def State.waited (s : State) (c x b : Nat) : State :=
  let t := s.strand c x
  let w := match tget none t.out b with
    | some g => [(b, g, t.seq)]
    | none => []
  s.setStrand c x { t with out := tput none t.out b none, waits := (t.waits ++ w).filter (fun w => s.barOpen (clusterOf c) w.1 w.2.1) }

/-- Whether a command writes into a scratchpad of a cluster: a byte-form destination in SP or CL (R282), be it of DRAIN.bs's scales or of a
receive's counts. -/
def Cmd.writesSp (m : Cmd) : Bool :=
  let near (q : QWord) : Bool := qKind q.toNat == 1 && qAs q.toNat != 1
  match m.kind with
  | .copy _ | .copyRed .. | .trig .. | .gath .. | .scat .. | .drain _ false .. => near m.pd
  | .drain _ true .. | .chRecv _ false => near m.pd || near m.pd1
  | _ => false

/-- Every command that holds a superstep back (R282): issued by a participant before its arrival in this generation. -/
def State.superBusy (s : State) (cl b : Nat) : Bool :=
  let g := (s.bar cl b).gen
  (List.range 4).any (fun i =>
    let k := s.core (4 * cl + i)
    (k.copies ++ k.trigs ++ k.gath ++ k.kiln ++ k.chans).any (fun m =>
      let t := k.strand m.ctx
      m.writesSp && s.bound t b && tget none t.out b == some g && decide (m.seq < tget 0 t.arrSeq b)))

/-- Release (R281): held while a BAR.SS generation's commands run. -/
def State.barRelease (s : State) (cl b : Nat) : State :=
  let k := s.bar cl b
  if k.anySS ∧ s.superBusy cl b then s.setBar cl b { k with held := true }
  else s.setBar cl b { k with count := 0, gen := (k.gen + 1) % 2 ^ 32, anySS := false, held := false }

/-- A strand that exits leaves its barriers (R283). -/
def State.barLeave (s : State) (c x : Nat) : State :=
  let t := s.strand c x
  let cl := clusterOf c
  (List.range 16).foldl (fun s b =>
    if s.bound t b then
      let k := s.bar cl b
      let arrived := tget none t.out b = some k.gen
      let k := { k with expect := k.expect - 1, count := if arrived then k.count - 1 else k.count }
      let s := (s.setBar cl b k).modStrand c x (fun t => { t with out := tput none t.out b none })
      if k.count = k.expect ∧ k.count ≠ 0 then s.barRelease cl b else s
    else s) s

/-! Between bundles. -/

/-- The register an MTC writes (R171). -/
def State.writeCr (s : State) (c x cr : Nat) (v : Word) : State :=
  let n := v.toNat
  let t := s.strand c x
  let k := t.ctl
  match cr with
  | 0x009 => s.setStrand c x { t with ctl := { k with spillBase := n } }
  | 0x00A => s.setStrand c x { t with ctl := { k with spillSize := n } }
  | 0x00B => s.setStrand c x { t with ctl := { k with regionBase := n } }
  | 0x00C => s.setStrand c x { t with ctl := { k with regionSize := n } }
  | 0x010 => s.setStrand c x { t with ctl := { k with cf := bit n 0 } }
  | 0x012 => s.setStrand c x { t with ctl := { k with rseed := v } }
  | 0x013 => s.setStrand c x { t with ctl := { k with rctr := v } }
  | 0x014 => s.setStrand c x { t with ctl := { k with sherr := n - fld n 49 32 * 2 ^ 32 } }
  | 0x021 => s.modCore c (fun k => { k with stall := v })
  | 0x022 => s.modCore c (fun k => { k with l2loc := v })
  | 0x023 => s.modCore c (fun k => { k with l2rem := v })
  | 0x024 => s.modCore c (fun k => { k with l2dom := v })
  | _ => s

/-- FMT after every pending change that is due (R89). -/
def Strand.settleFmt (t : Strand) : Strand :=
  let due := t.plat.fmts.filter (fun e => decide (e.1 ≤ t.sclk))
  match due.getLast? with
  | none => t
  | some (_, v) =>
    { t with ctl := { t.ctl with fmt := v }, plat := { t.plat with fmts := t.plat.fmts.filter (fun e => !decide (e.1 ≤ t.sclk)) } }

/-- Results in landing order: ascending (due, issue, slot). -/
def insertResult (r : Result) : List Result → List Result
  | [] => [r]
  | x :: l =>
    if x.due < r.due ∨ (x.due = r.due ∧ (x.issue < r.issue ∨ (x.issue = r.issue ∧ x.slot ≤ r.slot))) then x :: insertResult r l
    else r :: x :: l

def sortResults (l : List Result) : List Result := l.foldr insertResult []

/-- Performs the writes of results in order; one that carries a cause writes nothing. -/
def State.landAll (s : State) (c x : Nat) (rs : List Result) : State :=
  rs.foldl (fun s r => if r.exc.isSome then s else r.writes.foldl (fun s w => landWrite c x w s) s) s

/-- The bundle position at a boundary: of the idle run under way, or of the next fetch. -/
def Strand.here (t : Strand) : Nat := if t.idle ≠ 0 then t.bpos else t.pc

/-- A link word of KIND 0b10 (R275). -/
def linkWord (w ret : Nat) : Word := BitVec.ofNat 64 (2 ^ 63 + w * 2 ^ 24 + ret % 2 ^ 24)

/-- A pending redirect takes effect (R59, R169, R273): the frame, the link word, the new path. -/
def State.redirect (s : State) (c x : Nat) (r : Redirect) : State :=
  let t := s.strand c x
  let ret := t.pc
  let (s, t) := match r.frame with
    | some f => setFrame c f t s
    | none => (s, t)
  let s := s.setStrand c x t
  let s := match r.link with
    | some (e, w) => landWrite c x (.s 0 e (linkWord w ret)) s
    | none => s
  s.modStrand c x (fun t => { t with pc := r.target, bpos := r.target, idle := 0, enter := some r })

/-- Landings and redirects due at the strand's schedule cy, then the causes due there (R58, R59, R323). Where several registers collide at one
schedule cy COLLISION names the first pair in landing order, a link word's register last: the model's choice, since R58 says only 'that
register' (log 117). -/
def State.land (s : State) (c x : Nat) : State :=
  let t := s.strand c x
  let due := sortResults (t.plat.results.filter (fun r => decide (r.due ≤ t.sclk)))
  if due.any (fun r => !r.arrived) then s
  else
    let reds := t.plat.redirects.filter (fun r => decide (r.due ≤ t.sclk))
    let t := { t with plat :=
      { t.plat with results := t.plat.results.filter (fun r => !decide (r.due ≤ t.sclk)),
                    redirects := t.plat.redirects.filter (fun r => !decide (r.due ≤ t.sclk)) } }
    let s := (s.setStrand c x t).landAll c x due
    let ws := due.flatMap (fun r => r.writes)
    let links := reds.filterMap (fun r => r.link.map (fun l => RegWrite.s 0 l.1 0))
    let onLink := links.findSome? (fun l => ws.find? (fun w => l.same w))
    let clash := (twice ws).or onLink
    let s := if clash.isSome then s.modStrand c x Strand.setCF else s
    let s := reds.foldl (fun s r => s.redirect c x r) s
    let t := s.strand c x
    match due.find? (fun r => r.exc.isSome) with
    | some r => (match r.exc with
        | some e => s.raiseAt c x e t.here r.epc
        | none => s)
    | none =>
      match clash with
      | some w =>
        if t.dbg.strict then
          s.raiseAt c x { cause := .collision, aux := w.name.2 + w.name.1 * 2 ^ 8 } t.here t.here
        else s
      | none => s

/-! Issue. -/

/-- Whether the slots of a bundle together take more entries of a queue than it has (R38, R143, R213). -/
def overfull (ops : List SlotOp) (queue size used : Nat) : Bool :=
  let n := (ops.filter (fun o => o.takes == queue)).length
  n != 0 && decide (size < used + n)

/-- The gate of a bundle: a block of any slot first, then a missing descriptor, then a freeze (R38, R268). -/
def gateOf (ops : List SlotOp) (s : State) : Gate :=
  let gs := ops.map (fun o => o.gate s)
  if gs.any (· == .block) || overfull ops 1 16 (s.core s.cur).copies.length || overfull ops 2 8 (s.core s.cur).kiln.length then .block
  else match gs.find? (fun g => match g with | .load .. => true | _ => false) with
    | some g => g
    | none =>
      if gs.any (· == .freeze) then .freeze
      else if 32 < (ops.map (·.puts s)).sum + s.me.underWay s.cy then .freeze
      else .go

/-- The cause that a slot raises. -/
def excOf : Res → Option Exc
  | .ok _ => none
  | .error e => some e

/-- The effects of a slot whose causes have been checked on the state before its bundle (R38). A cause that only the slots before it would
bring about is not raised: a token that one of them has just armed is armed anew, and a region that has just opened does not bar or hold
what it would refuse (log 85). -/
def runChecked (o : SlotOp) : Nat → State → Res
  | 0, s => o.run s
  | n + 1, s =>
    match o.run s with
    | .ok u => .ok u
    | .error e =>
      match e.cause with
      | .tokenReuse => runChecked o n (s.modMe (fun t => t.setTok e.aux .empty))
      | .regionEffect | .regionFull =>
        (runChecked o n (s.modMe (fun t => { t with frames := [] }))).map (fun u => u.modMe (fun t => { t with frames := s.me.frames }))
      | _ => .error e

/-- Runs the slots of a bundle (R38, R62): each checks its causes on the state before the bundle, the first in slot order decides, and their
effects then follow in slot order. -/
def runOps (ops : List SlotOp) (s : State) : Res :=
  match ops with
  | [o] => o.run s
  | _ =>
    match ops.findSome? (fun o => excOf (o.run s)) with
    | some e => .error e
    | none => ops.foldl (fun r o => match r with
      | .ok s => runChecked o 2 s
      | .error e => .error e) (.ok s)

/-- A strand that does not issue now stays at its bundle. -/
def State.stay (s : State) (g : Gate) : State :=
  let t := s.me
  let t := { t with pc := if t.idle = 0 then t.bpos else t.pc }
  let t := match g with
    | .block => { t with hold := .blocked }
    | .load u h => { t with hold := (match t.hold with | .frozen c => .frozen c | _ => .frozen s.cy), want := some (u, h) }
    | _ => { t with hold := (match t.hold with | .frozen c => .frozen c | _ => .frozen s.cy) }
  { s.setMe t with cy := s.cy + 1 }

/-- EXIT (R285): the strand issues nothing more; its results and redirects are discarded, its barriers left. -/
def State.exitStrand (s : State) : State :=
  let c := s.cur
  let x := s.ctx
  let s := s.barLeave c x
  let s := s.modStrand c x (fun t => { t.discard with exited := true, enter := none, reports := [], hold := .run })
  s.modCore c (fun k => { k with active := none, last := x })

/-- Real time after an issue: one cy, or two where the die or the package is throttled (R389). -/
def State.issueCys (s : State) : Nat := if s.hk.pkgThrottle || tget false s.hk.throttle (dieOf s.cur) then 2 else 1

/-- Two results that write one register at one schedule cy (R58). -/
def clashes (rs : List Result) : Bool :=
  rs.any (fun r => (twice ((rs.filter (fun q => q.due == r.due)).flatMap (·.writes))).isSome)

/-- ERET has issued (R339): its handler's results land, and then its record is read. A cause among them, or a collision under STRICT, is
one in handler state: FATAL (R335). -/
def State.endHandler (s : State) : State :=
  let c := s.cur
  let x := s.ctx
  let t := s.strand c x
  let rs := sortResults t.plat.results
  let s := (s.setStrand c x { t with plat := {} }).landAll c x rs
  let s := if clashes rs then s.modStrand c x Strand.setCF else s
  if rs.any (fun r => r.exc.isSome) || (clashes rs && t.dbg.strict) || t.reports != [] then s.abortLaunch t.part t.lid 0x3F
  else s.eretGo c x

/-- What ends a bundle that issued: the clock, FMT, draws, the MTC of the bundle, EXIT, YIELD or ERET. -/
def State.finish (s : State) : State :=
  let t := s.me
  let post := t.post
  let pend := t.pend
  let t := { t with
    sclk := t.sclk + 1, hold := .run, enter := none, want := none, wantBad := [], tries := 0, pend := none, drawn := 0, step1 := false,
    post := if post = 2 then 2 else 0, ctl := { t.ctl with rctr := t.ctl.rctr + BitVec.ofNat 64 t.drawn } }
  let s := { s.setMe t.settleFmt with cy := s.cy + s.issueCys }
  let s := match pend with
    | some (cr, v) => s.writeCr s.cur s.ctx cr v
    | none => s
  match post with
  | 1 => s.exitStrand
  | 3 => s.endHandler
  | _ => s

/-- A bundle issues: it waits, or takes its first cause, or has the effects of all its slots (R38, R62). -/
def issueBundle (ops : List SlotOp) (s : State) : State :=
  match gateOf ops s with
  | .go =>
    (match runOps ops s with
     | .ok s' => s'.finish
     | .error e =>
       let t := s.me
       s.raiseAt s.cur s.ctx e t.bpos t.bpos)
  | g => s.stay g

/-- The meaning of one operation, alone in its bundle. -/
def meaning (op : SlotOp) (s : State) : Host.Outcome State Fault Refusal := .next (issueBundle [op] s)

/-- An operation that can always issue. -/
def op (slot results : Nat) (run : State → Res) : SlotOp := { slot := slot, results := results, gate := fun _ => .go, run := run }

/-- RESULT_LANDING (R58). -/
def execResultLanding (c x : Nat) (s : State) : Host.Outcome State Fault Refusal := .next (s.land c x)

/-- SUPERSTEP_RELEASE (R282): a held generation is released once its commands are done. -/
def execSuperstepRelease (cl b : Nat) (s : State) : Host.Outcome State Fault Refusal :=
  let k := s.bar cl b
  .next (if k.held ∧ ¬ s.superBusy cl b then s.barRelease cl b else s)

end Sys2Proof.Machine
end

