-- ==== Sys2Proof/Machine/Control.lean ====
section
/-! DEFINITION. The C slot's control operations: transfers (R271 to R276), tokens (R278), barriers (R280 to R283), YIELD and
EXIT (R284, R285), SETFMT, MFC and MTC (R88, R286), DICT.LOAD (R34), and an idle bundle (R27). -/

namespace Sys2Proof.Machine

/-! NOP and idle bundles. -/

/-- NOP (R49): nothing in its slot; LAND acts where a transfer arrives (R60). -/
def opNop (slot : Slot) (_land : Bool) : SlotOp := op slot.num 0 ok
def execNop (slot : Slot) (land : Bool) (s : State) : Host.Outcome State Fault Refusal := meaning (opNop slot land) s

/-- An idle bundle (R27): one schedule cy, and one less of the idle run under way. -/
def opIdleBundle : SlotOp := op 0 0 (fun s => ok (s.modMe (fun t => { t with idle := t.idle - 1 })))
def execIdleBundle (s : State) : Host.Outcome State Fault Refusal := meaning opIdleBundle s

/-! Transfers. -/

/-- A taken transfer: it redirects the fetch of the bundle at t + 3 (R59, R271). -/
def State.transfer (s : State) (target : Nat) (wide land : Bool) (frame : Option Nat) (link : Option (Nat × Nat)) : State :=
  s.modMe (fun t => { t with plat := { t.plat with redirects := t.plat.redirects ++
    [{ due := t.sclk + 3, target := target, wide := wide, land := land, frame := frame, link := link, from_ := t.bpos }] } })

/-- BR (R271). -/
def opBr (_land : Bool) (tgt : BitVec 24) : SlotOp := op 0 0 (fun s => ok (s.transfer tgt.toNat false false none none))
def execBr (land : Bool) (tgt : BitVec 24) (s : State) : Host.Outcome State Fault Refusal := meaning (opBr land tgt) s

/-- BR.cc (R271). -/
def opBrCc (_land : Bool) (cc : CC) (a b : SReg) (tgt : BitVec 24) : SlotOp :=
  op 0 0 (fun s => ok (if ccHolds cc (s.me.sreg a) (s.me.sreg b) then s.transfer tgt.toNat false false none none else s))
def execBrCc (land : Bool) (cc : CC) (a b : SReg) (tgt : BitVec 24) (s : State) : Host.Outcome State Fault Refusal :=
  meaning (opBrCc land cc a b tgt) s

/-- BRI (R271): bits [63:24] of the register that are not 0 raise BRANCH_TARGET on the new path. -/
def opBri (_land : Bool) (a : SReg) : SlotOp :=
  op 0 0 (fun s => let v := (s.me.sreg a).toNat; ok (s.transfer (v % 2 ^ 24) (decide (2 ^ 24 ≤ v)) true none none))
def execBri (land : Bool) (a : SReg) (s : State) : Host.Outcome State Fault Refusal := meaning (opBri land a) s

/-- LOOP (R272). -/
def opLoop (_land : Bool) (a : SReg) (tgt : BitVec 24) : SlotOp :=
  { slot := 0, results := 1, spare := fun s => s.me.sreg a == 0, gate := fun _ => .go,
    run := fun s =>
      let n := s.me.sreg a
      if n = 0 then ok s
      else
        let s' := s.fixed 0 1 [s.me.wS a (n - 1)]
        ok (if n - 1 ≠ 0 then s'.transfer tgt.toNat false false none none else s') }
def execLoop (land : Bool) (a : SReg) (tgt : BitVec 24) (s : State) : Host.Outcome State Fault Refusal := meaning (opLoop land a tgt) s

/-- A call's window check and transfer (R170, R273). -/
def callTo (s : State) (target w : Nat) (wide land : Bool) : Res :=
  let t := s.me
  let f := t.regs.fb + w
  if t.ctl.spillSize < 8 * (f + 48) then raise 0 .access
  else ok (s.transfer target wide land (some f) (some (f - 1, w)))

/-- CALL (R273). -/
def opCall (_land : Bool) (w : BitVec 6) (tgt : BitVec 24) : SlotOp := op 0 0 (fun s => callTo s tgt.toNat w.toNat false false)
def execCall (land : Bool) (w : BitVec 6) (tgt : BitVec 24) (s : State) : Host.Outcome State Fault Refusal := meaning (opCall land w tgt) s

/-- CALLI (R273). -/
def opCalli (_land : Bool) (a : SReg) (w : BitVec 6) : SlotOp :=
  op 0 0 (fun s => let v := (s.me.sreg a).toNat; callTo s (v % 2 ^ 24) w.toNat (decide (2 ^ 24 ≤ v)) true)
def execCalli (land : Bool) (a : SReg) (w : BitVec 6) (s : State) : Host.Outcome State Fault Refusal := meaning (opCalli land a w) s

/-- Entry(e) of the scalar stack; a spilled one is read from the spill area (R169, R274). -/
def State.entryAt (s : State) (e : Nat) : Nat :=
  let t := s.me
  if e < t.regs.low then s.spRead64 s.cur (t.ctl.spillBase + 8 * e) else (tget 0 t.regs.s e).toNat

/-- RET (R274). A spilled link is read as scratchpad is: corrected, or UNCORRECTABLE of a poisoned row (R96, R160). -/
def opRet (_land : Bool) : SlotOp :=
  op 0 0 (fun s =>
    let fb := s.me.regs.fb
    let a := s.me.ctl.spillBase + 8 * (fb - 1)
    let spilled := fb ≠ 0 ∧ fb - 1 < s.me.regs.low
    let l := s.entryAt (fb - 1)
    let s := if spilled then (s.correct s.cur a 8).modCore s.cur (fun k => k.noteBanks true a 8) else s
    if spilled ∧ (s.core s.cur).spPoison a 8 then raise 0 .uncorrectable a
    else if fb = 0 ∨ ¬ bit l 63 ∨ fld l 61 30 ≠ 0 ∨ fld l 29 24 = 0 ∨ fb < fld l 29 24 then raise 0 .access
    else ok (s.transfer (fld l 23 0) false (fld l 63 62 == 3) (some (fb - fld l 29 24)) none))
def execRet (land : Bool) (s : State) : Host.Outcome State Fault Refusal := meaning (opRet land) s

/-! Tokens. -/

/-- The first named token in ERROR, with its cause. -/
def firstError (t : Strand) : List Nat → Option (Nat × Cause)
  | [] => none
  | k :: r => match t.tok k with
    | .error c => if k = 0 then firstError t r else some (k, c)
    | _ => firstError t r

/-- WAIT (R278): blocks while a named token is ARMED; no token changes state. -/
def opWait (_land : Bool) (k0 k1 k2 k3 : KReg) : SlotOp :=
  let ks := [k0.toNat, k1.toNat, k2.toNat, k3.toNat]
  { slot := 0, results := 0,
    gate := fun s => if ks.any (fun k => k != 0 && s.me.tok k == .armed) then .block else .go,
    run := fun s => match firstError s.me ks with
      | some (k, c) => .error { cause := .tokenError, aux := k + c.code * 2 ^ 8, code := some c.code, inner := some c }
      | none => ok (s.modMe (fun t => { t with waited := ks.filter (· != 0) ++ t.waited })) }
def execWait (land : Bool) (k0 k1 k2 k3 : KReg) (s : State) : Host.Outcome State Fault Refusal := meaning (opWait land k0 k1 k2 k3) s

/-! Barriers. -/

/-- OUT(b) is set with g(b) equal to GEN(b): an arrival of this generation not yet waited (R281). -/
def State.outNow (s : State) (b : Nat) : Bool := tget none s.me.out b == some (s.bar (clusterOf s.cur) b).gen

/-- The refusals of a barrier instruction (R280, R283). -/
def barCheck (s : State) (b : Nat) (go : State → Res) : Res :=
  if s.me.frames ≠ [] then raise 0 .regionEffect
  else if !s.bound s.me b then raise 0 .access
  else go s

/-- Arrive (R281). -/
def State.arrive (s : State) (b : Nat) (ss : Bool) : State :=
  let cl := clusterOf s.cur
  let k := s.bar cl b
  let s := s.modMe (fun t => { t with out := tput none t.out b (some k.gen), arrSeq := tput 0 t.arrSeq b t.seq, arrs := t.arrived b k.gen })
  let k := { k with count := k.count + 1, anySS := k.anySS || ss }
  let s := s.setBar cl b k
  if k.count = k.expect then s.barRelease cl b else s

def barGate (b : Nat) (s : State) : Gate := if s.outNow b then .block else .go

/-- BAR.ARRIVE (R281). -/
def opBarArrive (_land : Bool) (b : BReg) : SlotOp :=
  { slot := 0, results := 0, gate := barGate b.toNat, run := fun s => barCheck s b.toNat (fun s => ok (s.arrive b.toNat false)) }
def execBarArrive (land : Bool) (b : BReg) (s : State) : Host.Outcome State Fault Refusal := meaning (opBarArrive land b) s

/-- BAR.WAIT (R281): with OUT 0 it completes at once. -/
def opBarWait (_land : Bool) (b : BReg) : SlotOp :=
  { slot := 0, results := 0, gate := barGate b.toNat,
    run := fun s => barCheck s b.toNat (fun s => ok (s.waited s.cur s.ctx b.toNat)) }
def execBarWait (land : Bool) (b : BReg) (s : State) : Host.Outcome State Fault Refusal := meaning (opBarWait land b) s

/-- BAR.SS (R281): arrives at its issue; its wait half holds the strand before its next bundle. -/
def opBarSs (_land : Bool) (b : BReg) : SlotOp :=
  { slot := 0, results := 0, gate := barGate b.toNat,
    run := fun s => barCheck s b.toNat (fun s => ok ((s.arrive b.toNat true).modMe (fun t => { t with ssWait := some b.toNat }))) }
def execBarSs (land : Bool) (b : BReg) (s : State) : Host.Outcome State Fault Refusal := meaning (opBarSs land b) s

/-! YIELD and EXIT. -/

/-- YIELD (R284): the core may switch after the bundle. -/
def opYield (_land : Bool) : SlotOp := op 0 0 (fun s => ok (s.modMe (fun t => { t with post := 2 })))
def execYield (land : Bool) (s : State) : Host.Outcome State Fault Refusal := meaning (opYield land) s

/-- A store whose fault has been reported freezes a bundle with an M-slot operation or EXIT (R102). -/
def storeFaultGate (s : State) : Gate := if s.me.stores.any Store.parked then .freeze else .go

/-- EXIT (R285). -/
def opExit (_land : Bool) : SlotOp :=
  { slot := 0, results := 0, gate := storeFaultGate,
    run := fun s => if s.me.frames ≠ [] then raise 0 .regionEffect else ok (s.modMe (fun t => { t with post := 1 })) }
def execExit (land : Bool) (s : State) : Host.Outcome State Fault Refusal := meaning (opExit land) s

/-! FMT and the control registers. -/

def Strand.regOrImm (t : Strand) : RegOrImm → Word
  | .reg a => t.sreg a
  | .imm v => v.signExtend 64

/-- SETFMT (R88): governs bundles issued at t + 4 and later. -/
def opSetfmt (_land : Bool) (src : RegOrImm) : SlotOp :=
  op 0 0 (fun s =>
    let v := (s.me.regOrImm src).toNat % 2 ^ 32
    if fmtOk v then ok (s.modMe (fun t => { t with plat := { t.plat with fmts := t.plat.fmts ++ [(t.sclk + 4, v)] } }))
    else raise 0 .reservedField)
def execSetfmt (land : Bool) (src : RegOrImm) (s : State) : Host.Outcome State Fault Refusal := meaning (opSetfmt land src) s

/-- The value of a control register for this bundle (R171). -/
def State.crOf (s : State) (c : Nat) (t : Strand) (cr : Nat) : Word :=
  let k := s.core c
  let n (v : Nat) : Word := BitVec.ofNat 64 v
  match cr with
  | 0x000 => n t.sid | 0x001 => n c | 0x002 => n t.gang | 0x003 => n t.part
  | 0x008 => n t.regs.fb
  | 0x009 => n t.ctl.spillBase | 0x00A => n t.ctl.spillSize | 0x00B => n t.ctl.regionBase | 0x00C => n t.ctl.regionSize
  | 0x010 => t.ctl.status | 0x011 => n t.ctl.fmt | 0x012 => t.ctl.rseed | 0x013 => t.ctl.rctr
  | 0x014 => n t.ctl.sherr | 0x015 => n t.ctl.rgnCause
  | 0x018 => n t.ctl.ttbase | 0x019 => n t.ctl.ttcount | 0x01A => n t.ctl.dbase
  | 0x020 => n s.time
  | 0x021 => k.stall | 0x022 => k.l2loc | 0x023 => k.l2rem | _ => k.l2dom

/-- A control register as the strand that issues reads it. -/
def State.readCr (s : State) (cr : Nat) : Word := s.crOf s.cur s.me cr

/-- MFC (R286). -/
def opMfc (_land : Bool) (a : SReg) (cr : BitVec 12) : SlotOp := op 0 1 (fun s => ok (s.fixed 0 1 [s.me.wS a (s.readCr cr.toNat)]))
def execMfc (land : Bool) (a : SReg) (cr : BitVec 12) (s : State) : Host.Outcome State Fault Refusal := meaning (opMfc land a cr) s

/-- Whether an area of R170 is well placed. -/
def areaOk (base size : Nat) : Bool := decide (base % 64 = 0) && decide (size % 64 = 0) && decide (base + size ≤ Config.spBytes)

/-- The checks of an MTC against R170. -/
def mtcOk (t : Strand) (cr v : Nat) : Bool :=
  match cr with
  | 0x009 => t.regs.low == 0 && decide (v % 64 = 0) && decide (v + t.ctl.spillSize ≤ Config.spBytes)
  | 0x00A => t.regs.low == 0 && decide (v % 64 = 0) && decide (384 ≤ v) && decide (t.ctl.spillBase + v ≤ Config.spBytes)
  | 0x00B => t.frames.isEmpty && decide (v % 64 = 0) && decide (v + t.ctl.regionSize ≤ Config.spBytes)
  | 0x00C => t.frames.isEmpty && decide (v % 64 = 0) && decide (t.ctl.regionBase + v ≤ Config.spBytes)
  | _ => true

/-- MTC (R286): the register holds the value for the bundles after this one. -/
def opMtc (_land : Bool) (cr : BitVec 12) (src : RegOrImm) : SlotOp :=
  op 0 0 (fun s =>
    let v := s.me.regOrImm src
    if mtcOk s.me cr.toNat v.toNat then ok (s.modMe (fun t => { t with pend := some (cr.toNat, v) })) else raise 0 .reservedField)
def execMtc (land : Bool) (cr : BitVec 12) (src : RegOrImm) (s : State) : Host.Outcome State Fault Refusal := meaning (opMtc land cr src) s

/-! DICT.LOAD. -/

/-- DICT.LOAD (R34): the issuing strand blocks until the last entry is written. R34 orders ALIGN before RESERVED_FIELD; REGION_EFFECT (R329)
before both, and ACCESS of a non-canonical address after both, are the model's choice (log 117). -/
def opDictLoad (_land : Bool) (a : SReg) (e0 n : BitVec 12) (clr : Bool) : SlotOp :=
  op 0 0 (fun s =>
    let va := (s.me.sreg a).toNat
    let count := n.toNat + 1
    if s.me.frames ≠ [] then raise 0 .regionEffect
    else if va % 16 ≠ 0 then raise 0 .align va
    else if 4096 < e0.toNat + count then raise 0 .reservedField
    else if !canonical va then raise 0 .access va
    else
      let s := if clr then s.modCore s.cur (fun k => { k with dict := k.dict.filterMap (fun e =>
          if (e.2 : DictEntry).word = 0 ∧ e.2.source = 0 then none else some (e.1, { e.2 with valid := false })) }) else s
      ok (s.modMe (fun t => { t with dict := some (e0.toNat, e0.toNat + count, va) })))
def execDictLoad (land : Bool) (a : SReg) (e0 n : BitVec 12) (clr : Bool) (s : State) : Host.Outcome State Fault Refusal :=
  meaning (opDictLoad land a e0 n clr) s

/-- DICT.LOAD's read of one entry as an event: of the C slot, after every access of its strand (R34, R307). -/
def Strand.dictEvent (t : Strand) (va : Nat) : Event :=
  { seq := t.seq, cls := 15, wr := false, rd := true, sc := .core, at_ := [(.gl va, 48)], m := false }

/-- Writes the entries of a running DICT.LOAD, up to a page fault, a cause, or an access that comes first (R34, R307, R310, R313): one of its
own strand that is still to be performed, a store to the bytes it reads among them (log 73), or of another (`State.mayPerform`). -/
def State.dictGo (c x : Nat) : Nat → State → State
  | 0, s => s
  | fuel + 1, s =>
    let t := s.strand c x
    match t.dict with
    | none => s
    | some (e, end_, va) =>
      if end_ ≤ e then s.setStrand c x { t with dict := none }
      else if s.owes c x va 48 || !s.mayPerform c x t (t.dictEvent va) then s
      else
        let (s, mixed) := s.mixSpan c x va 48
        match (if mixed then .cause s .mixedSize va else s.glRead (s.whoOf c x 7) va 48 t.bpos) with
        | .ok s bs bad ts =>
          let s := (s.overtake c x (t.dictEvent va)).countFrames c ts
          if bad then
            s.modStrand c x (fun t => { t with dict := none, reports := t.reports ++ [({ cause := .uncorrectable, aux := va }, t.bpos)] })
          else
            let s := s.modCore c (fun k =>
              { k with dict := tput {} k.dict e { valid := true, word := BitVec.ofNat 384 (bytesNat bs), source := va },
                       soft := tput 0 k.soft (dictKey e) 0 })
            dictGo c x fuel (s.modStrand c x (fun t => { t with dict := some (e + 1, end_, va + 48), tries := 0 }))
        | .cause s k va =>
          s.modStrand c x (fun t => { t with dict := none, reports := t.reports ++ [({ cause := k, aux := va }, t.bpos)] })
        | g =>
          let (s, k) := park t.part (t.recOf c x 7 15 .core 1 t.bpos 0) g
          s.modStrand c x (fun t => { t with fault := k })

/-- DICT_LOAD_COMPLETE (R34): the running load writes its entries; one that waits on a page fault stays. -/
def execDictLoadComplete (c x : Nat) (s : State) : Host.Outcome State Fault Refusal :=
  .next (if (s.strand c x).fault.isSome then s else s.dictGo c x 4097)

end Sys2Proof.Machine
end

