-- ==== Sys2Proof/Machine/Region.lean ====
section
/-! DEFINITION. Recovery regions, checks and traps as instructions (R324 to R329, R337, R339). -/

namespace Sys2Proof.Machine

/-- Whether a position of the strand's code segment is a start position within its stream (R28, R29). -/
def State.startPos (s : State) (t : Strand) (pos : Nat) : Bool :=
  match t.handler with
  | some h => decide (pos < h.seg.2.1) && h.seg.2.2.testBit pos
  | none =>
    let l := s.launch t.part t.lid
    decide (pos < l.codeLen) && l.starts.testBit pos

/-- The device writes `n` bytes of the undo area; their layout is not given (log 9). -/
def State.undoWrite (s : State) (a n : Nat) : State :=
  let s' := s.nextFree
  s'.modCore s.cur (fun k => k.devWrite a (freeBytes s.free n))

/-- RGN.BEGIN (R324). -/
def opRgnBegin (_land : Bool) (rid : BitVec 8) (retry abm : BitVec 3) (fs : BitVec 14) (tgt : BitVec 24) : SlotOp :=
  op 0 0 (fun s =>
    let t := s.me
    let base := match t.frames with
      | [] => t.ctl.regionBase
      | f :: _ => f.end_
    if t.handler.isSome then raise 0 .fatal
    else if 8 ≤ t.frames.length then raise 0 .regionDepth
    else if !s.startPos t tgt.toNat then raise 0 .branchTarget
    else if t.ctl.regionBase + t.ctl.regionSize < base + 64 * fs.toNat then raise 0 .regionFull 1
    else
      let f : Frame :=
        { rid := rid.toNat, budget := retry.toNat, abm := abm.toNat, tgt := tgt.toNat, start := base, end_ := base + 64 * fs.toNat,
          fill := 64, fmt := t.ctl.fmt, rseed := t.ctl.rseed, rctr := t.ctl.rctr, fb := t.regs.fb, low := t.regs.low, seq := t.seq }
      ok ((s.modMe (fun t => { t with frames := f :: t.frames })).undoWrite base 64))
def execRgnBegin (land : Bool) (rid : BitVec 8) (retry abm : BitVec 3) (fs : BitVec 14) (tgt : BitVec 24) (s : State) :
    Host.Outcome State Fault Refusal := meaning (opRgnBegin land rid retry abm fs tgt) s

/-- The set bits of a mask, ascending. -/
def maskList (n m : Nat) : List Nat := (List.range n).filter (fun i => m.testBit i)

/-- Bytes of a keep's entry (R325). -/
def keepSize (t : Strand) : Keep → Nat
  | .g m => 16 + 16 * cdiv (8 * (maskList 16 m.toNat).length) 16
  | .s m => 16 + 16 * cdiv (8 * (maskList 48 m.toNat).length) 16
  | .vlo m => 16 + 256 * (maskList 32 m.toNat).length
  | .vhi m => 16 + 256 * (maskList 32 m.toNat).length
  | .y m => 16 + 65536 * (maskList 8 m.toNat).length
  | .p q _ _ => let i := (t.qreg q).toNat; 16 + 64 + 16 * cdiv (qCount i * qSize i) 16

/-- A mask of 0 keeps nothing (R325). -/
def keepEmpty : Keep → Bool
  | .g m => m == 0
  | .s m => m == 0
  | .vlo m => m == 0
  | .vhi m => m == 0
  | .y m => m == 0
  | .p .. => false

/-- What the registers named by a keep hold now. -/
def keepEntries (t : Strand) (id : Nat) : Keep → List KeepEntry
  | .g m => (maskList 16 m.toNat).map (fun r => .g r (tget 0 t.regs.g r))
  | .s m => (maskList 48 m.toNat).map (fun i => .s (t.regs.fb + i) (tget 0 t.regs.s (t.regs.fb + i)))
  | .vlo m => (maskList 32 m.toNat).map (fun r => .v r (tget 0 t.regs.v r))
  | .vhi m => (maskList 32 m.toNat).map (fun r => .v (32 + r) (tget 0 t.regs.v (32 + r)))
  | .y _ => [.pending id]
  | .p .. => [.pending id]

/-- Appends to the innermost frame. -/
def Strand.addKeep (t : Strand) (n : Nat) (es : List KeepEntry) : Strand :=
  match t.frames with
  | [] => t
  | f :: r => { t with frames := { f with fill := f.fill + n, keeps := f.keeps ++ es } :: r }

/-- An access precedes a later command: of class 15, or with a FENCE that names its class after it, at a scope that binds an engine (R308). -/
def Strand.fenced (t : Strand) (cls seq : Nat) (sc : Scope) : Bool :=
  (cls == 15 && sc != .strand) || t.fences.any (fun f => f.sc != .strand && decide (seq ≤ f.seq) && f.mask.testBit cls)

/-- M-slot accesses that are not yet performed and that a command's accesses come after (R308). A gated store is no event before its
release: a command that is released with it comes after it, no other does (R318). -/
def Strand.before (t : Strand) (held : Bool) : List Nat :=
  (t.stores.filterMap (fun r => if (r.depth = 0 ∨ held) ∧ t.fenced r.cls r.seq r.sc then some r.pos else none)) ++
  (t.flying.filterMap (fun r => match r.load with
    | some l => if !r.arrived ∧ t.fenced l.cls r.seq l.sc then some r.seq else none
    | none => none))

/-- The region depth at which new work of a strand stands; a handler's stands in none (R335). -/
def Strand.depth (t : Strand) : Nat := if t.handler.isSome then 0 else t.frames.length

/-- A command's common fields at issue: FMT, RSEED, its place in program order (R89, R125). -/
def newCmd (s : State) (kind : CmdKind) (kp cls : Nat) (sc : Scope) : Cmd :=
  let t := s.me
  { kind := kind, part := t.part, lid := t.lid, gang := t.gang, ctx := s.ctx, sid := t.sid, fmt := t.ctl.fmt, rseed := t.ctl.rseed,
    kp := kp, cls := cls, sc := sc, seq := t.seq, depth := t.depth, pc := t.bpos, born := s.cy, after := t.before false }

/-- Tokens at issue (R144, R214): kp becomes ARMED, the consumed ones are sampled; the early-read exception of a token ends. -/
def Cmd.tokens (m : Cmd) (t : Strand) (ks : List Nat) : Cmd × Strand :=
  let ks := ks.filter (· != 0)
  let isErr (k : Nat) : Bool := match t.tok k with | .error _ => true | _ => false
  let m : Cmd := { m with waits := ks.filter (fun k => t.tok k == .armed), failed := ks.any isErr }
  let t := t.setTok m.kp .armed
  let m : Cmd := if m.held then { m with after := t.before true } else m
  (m, { t with seq := t.seq + 1, kseq := if m.kp = 0 then t.kseq else tins t.kseq m.kp m.seq,
               kdep := if m.kp = 0 then t.kdep else tput 0 t.kdep m.kp m.depth, waited := t.waited.filter (· != m.kp) })

/-- RGN.KEEP (R325). -/
def opRgnKeep (_land : Bool) (keep : Keep) : SlotOp :=
  { slot := 0, results := 0,
    takes := match keep with
      | .y m => if m ≠ 0 then 2 else 0
      | .p .. => 1
      | _ => 0,
    gate := fun s => match keep with
      | .y m => if m ≠ 0 ∧ 8 ≤ (s.core s.cur).kiln.length then .block else .go
      | .p .. => if 16 ≤ (s.core s.cur).copies.length then .block else .go
      | _ => .go,
    run := fun s =>
      let t := s.me
      match t.frames with
      | [] => raise 0 (if t.handler.isSome then .fatal else .regionDepth)
      | f :: _ =>
        if t.handler.isSome then raise 0 .fatal
        else if keepEmpty keep then ok s
        else
          let n := keepSize t keep
          let full := decide (f.end_ - f.start < f.fill + n)
          let place (s : State) : State := s.undoWrite (f.start + f.fill) n
          match keep with
          | .p q kp ka =>
            let i := (t.qreg q).toNat
            let sp := State.span s.cur i none
            if qKind i ≠ 1 ∨ qAs i ≠ 0 then raise 0 .reservedField
            else if kp ≠ 0 ∧ kp = ka then raise 0 .reservedField
            else if patLeast i < 0 ∨ (if qEs i = 0 then patGreatest i / 2 + 1 else patGreatest i + qSize i) > qLim i ∨
                Config.spBytes < sp.2.2 ∨ (s.core s.cur).guarded sp.2.1 (sp.2.2 - sp.2.1) then raise 0 .access (qBase i)
            else if full then raise 0 .regionFull 1
            else if kp ≠ 0 ∧ t.tok kp.toNat = .armed then raise 0 .tokenReuse kp.toNat
            else
              let m := { newCmd s (.keepP t.seq) kp.toNat 15 .core with pd := t.qreg q }
              let (m, t') := m.tokens t [ka.toNat]
              let s := s.setMe (t'.addKeep n (keepEntries t t.seq keep))
              ok (place (s.modCore s.cur (fun k => { k with copies := k.copies ++ [m] })))
          | .y mask =>
            if full then raise 0 .regionFull 1
            else
              let m := newCmd s (.keepY t.seq mask.toNat) 0 15 .core
              let (m, t') := m.tokens t []
              let s := s.setMe (t'.addKeep n (keepEntries t t.seq keep))
              ok (place (s.modCore s.cur (fun k => { k with kiln := k.kiln ++ [m] })))
          | _ =>
            if full then raise 0 .regionFull 1
            else ok (place (s.setMe (t.addKeep n (keepEntries t 0 keep)))) }
def execRgnKeep (land : Bool) (keep : Keep) (s : State) : Host.Outcome State Fault Refusal := meaning (opRgnKeep land keep) s

/-- Held commands of a context at depth `d` and deeper, released (R156, R240, R264, R327). -/
def Core.releaseHeld (k : Core) (x d : Nat) : Core :=
  let f := List.map (fun (m : Cmd) => if m.ctx = x ∧ d ≤ m.depth then { m with depth := 0, held := false } else m)
  { k with copies := f k.copies, kiln := f k.kiln, gath := f k.gath, chans := f k.chans }

/-- Held commands of depth `d` passed to the parent region (R327). -/
def Core.passHeld (k : Core) (x d : Nat) : Core :=
  let f := List.map (fun (m : Cmd) => if m.ctx = x ∧ m.depth = d then { m with depth := d - 1 } else m)
  { k with copies := f k.copies, kiln := f k.kiln, gath := f k.gath, chans := f k.chans }

/-- Closes the innermost region (R327). -/
def closeRegion (s : State) (rid : Nat) (c : Bool) : Res :=
  let t := s.me
  if t.handler.isSome then raise 0 .fatal
  else match t.frames with
    | [] => raise 0 .regionDepth
    | f :: rest =>
      let d := t.frames.length
      if f.rid ≠ rid then raise 0 .regionDepth
      else if 1 < d ∧ ¬ c then
        ok (((s.setMe { t.passUp d with frames := rest }).modCore s.cur (fun k => k.passHeld s.ctx d)).messMap s.cur s.ctx
          (fun a => some (if a.1 = d then (d - 1, a.2) else a)))
      else
        ok (((s.setMe { t.release d f.seq with frames := rest }).modCore s.cur (fun k => k.releaseHeld s.ctx d)).messOver s.cur s.ctx d)

/-- RGN.END (R327). -/
def opRgnEnd (_land : Bool) (rid : BitVec 8) : SlotOp := op 0 0 (fun s => closeRegion s rid.toNat false)
def execRgnEnd (land : Bool) (rid : BitVec 8) (s : State) : Host.Outcome State Fault Refusal := meaning (opRgnEnd land rid) s

/-- RGN.END.C (R327). -/
def opRgnEndC (_land : Bool) (rid : BitVec 8) : SlotOp := op 0 0 (fun s => closeRegion s rid.toNat true)
def execRgnEndC (land : Bool) (rid : BitVec 8) (s : State) : Host.Outcome State Fault Refusal := meaning (opRgnEndC land rid) s

/-- RGN.ABORT (R329). -/
def opRgnAbort (_land : Bool) (code : BitVec 8) : SlotOp :=
  op 0 0 (fun s =>
    if s.me.handler.isSome then raise 0 .fatal
    else if s.me.frames = [] then raise 0 .regionDepth
    else .error { cause := .software, code := some code.toNat })
def execRgnAbort (land : Bool) (code : BitVec 8) (s : State) : Host.Outcome State Fault Refusal := meaning (opRgnAbort land code) s

/-- CHK (R337). -/
def opChk (_land : Bool) (a b : SReg) : SlotOp := op 0 0 (fun s => if s.me.sreg a = s.me.sreg b then ok s else raise 0 .checkFail)
def execChk (land : Bool) (a b : SReg) (s : State) : Host.Outcome State Fault Refusal := meaning (opChk land a b) s

/-- CHK.V (R337): the active lanes, bit for bit. -/
def opChkV (_land : Bool) (a b : VReg) (m : MReg) (ty : Ty) : SlotOp :=
  op 0 0 (fun s =>
    let t := s.me
    if (List.range ty.lanes).all (fun e => !maskBit (t.mreg m) ty.bits e || laneOf (t.vreg a) ty.bits e == laneOf (t.vreg b) ty.bits e)
    then ok s else raise 0 .checkFail)
def execChkV (land : Bool) (a b : VReg) (m : MReg) (ty : Ty) (s : State) : Host.Outcome State Fault Refusal :=
  meaning (opChkV land a b m ty) s

/-- TRAP (R339). -/
def opTrap (_land : Bool) (imm : BitVec 16) : SlotOp := op 0 0 (fun _ => raise 0 .software imm.toNat)
def execTrap (land : Bool) (imm : BitVec 16) (s : State) : Host.Outcome State Fault Refusal := meaning (opTrap land imm) s

/-- ERET (R339): waits until the handler's results have arrived, which land as it issues, and until the strand's earlier accesses are
performed, since its record is read with class 15 (R307). -/
def opEret (_land : Bool) : SlotOp :=
  { slot := 0, results := 0,
    gate := fun s => match s.me.handler with
      | some _ => if s.me.plat.results.any (fun r => !r.arrived) ∨ s.busy15 s.cur s.ctx then .freeze else .go
      | none => .go,
    run := fun s => if s.me.handler.isNone then raise 0 .access else ok (s.modMe (fun t => { t with post := 3 })) }
def execEret (land : Bool) (s : State) : Host.Outcome State Fault Refusal := meaning (opEret land) s

end Sys2Proof.Machine
end

