-- ==== Sys2Proof/Machine/MSlot.lean ====
section
/-! DEFINITION. The M slot: loads, stores, atomics, FENCE, pattern and vector accesses, packed blocks, stash windows and
leases (R131, R133, R137 to R142, R164 to R166, R179 to R183, R207 to R212), and the events that perform them (R56, R166). -/

namespace Sys2Proof.Machine

/-! Pieces and places. -/

/-- Cuts `n` bytes at `a` into parts that cross no boundary of `g` bytes: (offset, length) (R304). -/
def cutAt (g : Nat) : Nat → Nat → Nat → Nat → List (Nat × Nat)
  | 0, _, _, _ => []
  | fuel + 1, a, off, n =>
    if n = 0 then []
    else let m := min n (g - (a + off) % g); (off, m) :: cutAt g fuel a (off + m) (n - m)

/-- Parts of a scalar access, of a whole image or of an engine write. -/
def cut16 (a n : Nat) : List (Nat × Nat) := cutAt 16 (n / 16 + 2) a 0 n

/-- Parts of an element of a vector or tensor access. -/
def cut4 (n : Nat) : List (Nat × Nat) := cutAt 4 (n / 4 + 2) 0 0 n

def Loc.plus : Loc → Nat → Loc
  | .sp c o, n => .sp c (o + n)
  | .gl va, n => .gl ((va + n) % 2 ^ 64)

/-- The address a trap record shows for a place (R338). -/
def Loc.addr : Loc → Nat
  | .sp _ o => o
  | .gl va => va

/-- The bytes of a store at a place, as pieces. -/
def spieces (loc : Loc) (bs : List Byte) : List SPiece :=
  (cut16 loc.addr bs.length).map (fun om => { loc := loc.plus om.1, bytes := (bs.drop om.1).take om.2 })

/-- The bytes of element `e` of a vector or tensor store, as pieces. -/
def epieces (loc : Loc) (e : Nat) (bs : List Byte) : List SPiece :=
  (cut4 bs.length).map (fun om => { loc := loc.plus om.1, bytes := (bs.drop om.1).take om.2, lane := e })

/-- A read of `n` bytes at a place, as pieces. -/
def rpieces (loc : Loc) (n : Nat) : List Piece :=
  (cut16 loc.addr n).map (fun om => { loc := loc.plus om.1, n := om.2 })

/-- A read of element `e` of `n` bytes, as pieces. -/
def repieces (loc : Loc) (n e : Nat) (neg : Bool) : List Piece :=
  (cut4 n).map (fun om => { loc := loc.plus om.1, n := om.2, lane := e, neg := neg })

/-! Own stores seen by own loads (R166). -/

/-- Store-queue entries in program order. -/
def insertStore (r : Store) : List Store → List Store
  | [] => [r]
  | x :: l => if x.pos ≤ r.pos then x :: insertStore r l else r :: x :: l

/-- The bytes of a piece with the strand's earlier stores laid over them; whether every byte came from a store. -/
def State.overlay (s : State) (t : Strand) (pos : Nat) (loc : Loc) (bs : List Byte) : List Byte × Bool :=
  let k := s.key t.part loc
  let mine := (t.stores.filter (fun r => decide (r.pos < pos))).foldr insertStore []
  let start : List (Byte × Bool) := bs.map (fun b => (b, false))
  let out := mine.foldl (fun l r => r.pieces.foldl (fun l q =>
    let kq := s.key t.part q.loc
    if k < kq + q.bytes.length ∧ kq < k + bs.length then
      (List.range l.length).map (fun i =>
        if kq ≤ k + i ∧ k + i < kq + q.bytes.length then (lget 0 q.bytes (k + i - kq), true) else lget (0, false) l i)
    else l) l) start
  (out.map (·.1), out.all (·.2))

/-! Bank passes (R163, R173). -/

/-- Passes beyond the first that an access to scratchpad rows needs: rows as 16-byte numbers. -/
def extraPasses (rows : List (Nat × Nat)) : Nat :=
  let rows := rows.eraseDups
  (rows.foldl (fun m r => max m (rows.filter (fun q => q.1 == r.1 && q.2 % 384 == r.2 % 384)).length) 1) - 1

/-- The scratchpad rows of an access: core and row; an access that a stash window serves has the rows of the window (R141). -/
def State.rowsOf (s : State) (c p : Nat) (at_ : List (Loc × Nat)) : List (Nat × Nat) :=
  let rows (c o n : Nat) : List (Nat × Nat) := (List.range ((o % 16 + n + 15) / 16)).map (fun i => (c, o / 16 + i))
  at_.flatMap (fun a => match a.1 with
    | .sp c o => rows c o a.2
    | .gl va => match (s.core c).window p va with
      | some (_, st, i) => if (tget none st.lines i).isSome then rows c (st.base + (va - st.va)) a.2 else []
      | none => [])

/-- Adds to the M and S fields of BANK.STALL, saturating (R173). -/
def State.stallAdd (s : State) (c m n : Nat) : State :=
  if m + n = 0 then s
  else
    let up (a b : Nat) : Nat := min (a + b) (2 ^ 32 - 1)
    s.modCore c (fun k => { k with stall := BitVec.ofNat 64 (up (k.stall.toNat / 2 ^ 32) n * 2 ^ 32 + up (k.stall.toNat % 2 ^ 32) m) })

/-- The first address of a byte-form pattern's range and its length in bytes. -/
def patRange (q : Nat) : Nat × Nat :=
  let lo := (patLeast q).toNat
  let hi := (patGreatest q).toNat
  if qEs q = 0 then ((qBase q + lo / 2) % 2 ^ 64, hi / 2 + 1 - lo / 2) else ((qBase q + lo) % 2 ^ 64, hi + qSize q - lo)

/-- The bank groups from the least to the greatest byte a pattern can reach (R159, R220). -/
def groupsOf (q : Nat) : List Nat :=
  let (a, n) := patRange q
  let first := a / 1024
  let last := (a + n - 1) / 1024
  ((List.range (min 6 (last - first + 1))).map (fun i => (first + i) % 6)).eraseDups

/-- The byte-form patterns of a command in a space. -/
def Cmd.patsIn (m : Cmd) (as_ : Nat) : List Nat :=
  ([m.pd, m.ps, m.pd1, m.ps1].map BitVec.toNat).filter (fun q => qKind q == 1 && qAs q == as_)

/-- The bank groups that the Kiln of a core takes with its command under way (R162). -/
def Core.feeds (k : Core) : List Nat :=
  (k.kiln.filter (fun m => m.phase == .active)).flatMap (fun m => (m.patsIn 0).flatMap groupsOf)

/-- The scratchpad rows of places, those of global memory aside. -/
def spRows (at_ : List (Loc × Nat)) : List (Nat × Nat) :=
  at_.flatMap (fun a => match a.1 with
    | .sp c o => (List.range ((o % 16 + a.2 + 15) / 16)).map (fun i => (c, o / 16 + i))
    | .gl _ => [])

/-- Two accesses want one bank. -/
def sameBank (a b : List (Nat × Nat)) : Bool := a.any (fun r => b.any (fun q => q.1 == r.1 && q.2 % 384 == r.2 % 384))

/-- Whether the banks of an access may be held by another agent that ranks before it (R162): the feeder that streams their group, the M slot
of a strand (other than `me`) that wants one of them, the device's spill, refill and undo traffic, an access over CL that has waited long,
and, where `low` (the access itself ranks with the engines or comes over CL), an engine of their core, other than the unit `own` of core
`c`: 0 the Shunter with its lanes, 1 the channel engine, whose staging of payloads counts too. -/
def State.contended (s : State) (c : Nat) (me own : Option Nat) (low : Bool) (rows : List (Nat × Nat)) : Bool :=
  rows.any (fun r => (s.core r.1).feeds.contains (r.2 % 384 / 64)) ||
  (List.range 4).any (fun i =>
    let d := 4 * clusterOf c + i
    let k := s.core d
    let units : List (List Cmd) := [k.copies ++ k.trigs ++ k.gath, k.chans]
    k.strands.any (fun e => !(d == c && me == some e.1) && e.2.openSeqs != [] &&
      sameBank rows (e.2.open_.flatMap (fun b => s.rowsOf d e.2.part b.at_))) ||
    k.dev.any (fun b => (b.2 || (low && !(d == c && own == some 1))) && rows.any (fun r => r.1 == d && r.2 % 384 == b.1)) ||
    (List.range 2).any (fun u => !(d == c && own == some u) && (lget [] units u).any (fun m => m.phase == .active &&
      (m.patsIn 2 != [] || (low && m.patsIn 0 != [] && rows.any (fun r => r.1 == d))))))

/-- What an M-slot access of strand `x` adds to BANK.STALL (R163): its passes beyond the first, and the cy it loses to others, which are
free (log 32). `had`: the rows of parts of it performed before. -/
def State.stallM (s : State) (c x : Nat) (cl : Bool) (rows : List (Nat × Nat)) (had : List (Nat × Nat) := []) : State :=
  let n := if had = [] then extraPasses rows else extraPasses (had ++ rows) - extraPasses had
  if rows = [] then s
  else if s.contended c (some x) none cl rows then (s.stallAdd c (n + Config.bankWait s.free) 0).nextFree
  else s.stallAdd c n 0

/-- What accesses of an engine of a core to scratchpad add to BANK.STALL (R163): the cy they lose to others, which are free (log 32). -/
def State.stallS (s : State) (c unit : Nat) (at_ : List (Loc × Nat)) : State :=
  let rows := spRows at_
  if rows != [] && s.contended c none (some unit) true rows then (s.stallAdd c 0 (Config.bankWait s.free)).nextFree else s

/-! Performing accesses. -/

/-- What reading the pieces of an access gives. -/
inductive Read where
  | ok (s : State) (parts : List (Piece × List Byte)) (bad : Option Nat) (touch : List Touch)
  /-- waits on fault records; on none, it tries again -/
  | park (s : State) (keys : List Nat)
  | exc (s : State) (e : Exc)
  /-- a cause reported at the next boundary (TRANSLATION_FATAL, R101) -/
  | report (s : State) (e : Exc)

/-- A fault record's fixed part for an M-slot access to a VA: the window's own where it is its fill that faults (R103, R141). -/
def State.mRec (s : State) (c x cls : Nat) (sc : Scope) (rwx pc handle va : Nat) : FaultRec :=
  let t := s.strand c x
  match (s.core c).window t.part va with
  | some (_, st, i) =>
    if (tget none st.lines i).isNone then t.recOf c x 6 st.cls st.sc rwx pc handle else t.recOf c x 0 cls sc rwx pc handle
  | none => t.recOf c x 0 cls sc rwx pc handle

def Use.rwx : Use → Nat
  | .r => 1 | .w => 2 | .x => 4 | .rw => 3

/-- An element that faults posts or joins a record by itself, once for each page of it (R102, R182). `seen`: what has posted. -/
def parkOne (s : State) (c x : Nat) (l : LoadOp) (pc : Nat) (u : Use) (q : Piece) (va : Nat) (g : Got) (keys : List Nat)
    (seen : List (Nat × Nat)) : State × List Nat × List (Nat × Nat) :=
  if seen.contains (q.lane, pageOf va) then (s, keys, seen)
  else
    let (s, k) := park (s.strand c x).part (s.mRec c x l.cls l.sc u.rwx pc l.handle va) g
    (s, keys ++ k.toList, seen ++ [(q.lane, pageOf va)])

/-- Once one element of an access faults, the others that fault post their own records. -/
def State.parkRest (s : State) (c x : Nat) (l : LoadOp) (pc : Nat) (u : Use) (keys : List Nat) (seen : List (Nat × Nat)) (ps : List Piece) :
    State × List Nat :=
  let r := ps.foldl (fun (a : State × List Nat × List (Nat × Nat)) q =>
    match q.loc with
    | .sp .. => a
    | .gl va =>
      match a.1.glProbe (a.1.mWho c x) va q.n u with
      | .ok s .. => (s, a.2)
      | .cause s .. => (s, a.2)
      | g => parkOne a.1 c x l pc u q va g a.2.1 a.2.2) (s, keys, seen)
  (r.1, r.2.1)

/-- Reads the pieces of an access of a strand. Bytes that the strand's own pending stores hold are theirs, and poison under a piece
that they cover in full is not read (log 83). Pieces read before are taken as they were then. -/
def State.readPieces (s : State) (c x : Nat) (r : Result) (l : LoadOp) (u : Use) : Read :=
  let t := s.strand c x
  (l.pieces.drop r.got.length).foldl (fun acc q =>
    match acc with
    | .ok s parts bad ts =>
      (match q.loc with
       | .sp c' o =>
         let k := s.core c'
         if (l.cl && k.guarded o q.n) || decide (Config.spBytes < o + q.n) then
           .exc s { cause := .access, aux := if l.cl then c' % 4 * 2 ^ 21 + o else o, slot := 2 }
         else
           let (bs, all) := s.overlay t r.seq q.loc (k.spBytes o q.n)
           let b := if k.spPoison o q.n ∧ ¬ all then some (if l.cl then c' % 4 * 2 ^ 21 + o else o) else none
           .ok (s.correct c' o q.n) (parts ++ [(q, bs)]) (bad.or b) ts
       | .gl va =>
         let (s, mixed) := s.mix t.dbg.mixchk t.part (strandAgent c x) q.loc q.n
         if mixed then .exc s { cause := .mixedSize, aux := va, slot := 2 }
         else
           (match s.glRead (s.mWho c x) va q.n r.epc u with
            | .ok s bs p t2 =>
              let (bs, all) := s.overlay t r.seq q.loc bs
              .ok s (parts ++ [(q, bs)]) (bad.or (if p ∧ ¬ all then some va else none)) (ts ++ t2)
            | .cause s .translationFatal a => .report s { cause := .translationFatal, aux := a, slot := 2 }
            | .cause s k a => .exc s { cause := k, aux := a, slot := 2 }
            | g =>
              let (s, keys, seen) := parkOne s c x l r.epc u q va g [] []
              let (s, keys) := s.parkRest c x l r.epc u keys seen l.pieces
              .park s keys))
    | a => a) (.ok s (r.got.map (fun g => (g.1, g.2.1))) (r.got.findSome? (fun g => g.2.2)) r.gotT)

/-- Writes a piece of a strand's access. `cover`: the 64-byte lines that the access covers in full. -/
def State.writePiece (s : State) (c x pc : Nat) (q : SPiece) (cover : List Nat := []) : State × List Touch :=
  match q.loc with
  | .sp c' o => (s.modCore c' (fun k => k.spWrite o q.bytes), [])
  | .gl va => match s.glWrite { s.mWho c x with cover := cover } va pc q.bytes with
    | .ok s _ _ ts => (s, ts)
    | .fault s .. => (s, [])
    | .cause s .. => (s, [])
    | .wait s _ => (s, [])

/-- The new memory value of an ATOM (R181): `w` bits, old and operand as natural numbers. -/
def atomNew (aop : AOp) (sgn : Bool) (w old c cmp : Nat) : Nat :=
  let lt (a b : Nat) : Bool := if sgn then decide (sext w a < sext w b) else decide (a < b)
  let c := c % 2 ^ w
  match aop with
  | .add => (old + c) % 2 ^ w
  | .fadd =>
    let t : Ty := if w = 32 then .f32 else .f64
    roundTo {} t (addN false (decodeF false t old) (decodeF false t c))
  | .min => if lt c old then c else old
  | .max => if lt old c then c else old
  | .and => old &&& c
  | .or => old ||| c
  | .xor => old ^^^ c
  | .xchg => c
  | .cas => if old = cmp % 2 ^ w then c else old

/-- The bytes of all parts, in order. -/
def partBytes (ps : List (Piece × List Byte)) : List Byte := ps.flatMap (·.2)

/-- The value of lane `e`: its parts in order, with the sign of R127. -/
def laneVal (ty : Ty) (ps : List (Piece × List Byte)) (e : Nat) : Option Nat :=
  let mine := ps.filter (fun p => p.1.lane == e)
  match mine with
  | [] => none
  | p :: _ => let v := bytesNat (partBytes mine); some (if p.1.neg then applySign ty v else v)

/-- The packing cursor's numbers (R208): N, P, V, element bytes, MB. -/
structure Cursor where
  n  : Nat
  p  : Nat
  v  : Nat
  w  : Nat
  mb : Nat
  deriving DecidableEq, Repr

/-- A packing cursor, or the refusal of R208. -/
def cursorOf (q : Nat) (ty : Ty) : Except Exc Cursor :=
  let w := ty.bits / 8
  let bad : Exc := { cause := .reservedField, slot := 2 }
  let p := qStr q 1
  let n := qExt q 0
  if qKind q ≠ 1 ∨ qNdim q ≠ 2 ∨ qEs q = 0 ∨ qSize q ≠ w ∨ qStr q 0 ≠ (w : Int) ∨ qExt q 1 ≠ 1 then .error bad
  else if p < 0 ∨ (n : Int) < p ∨ (p < n ∧ p % 8 ≠ 0) then .error bad
  else if qBase q % 16 ≠ 0 then .error { cause := .align, aux := qBase q, slot := 2 }
  else .ok { n := n, p := p.toNat, v := qStart q, w := w, mb := 16 * cdiv n 128 }

/-- A cursor's image with START and P advanced. -/
def cursorPut (q start p : Nat) : Nat := qPut (qPut q 359 320 start) 103 64 p

/-- Finishes a load: its landing writes, or the cause it raises when due. -/
def finishLoad (l : LoadOp) (t : Strand) (ps : List (Piece × List Byte)) : List RegWrite :=
  let v := bytesNat (partBytes ps)
  let n := (partBytes ps).length
  let reg (f : SReg) (e v : Nat) : RegWrite :=
    if f.toNat < 16 then .g f.toNat (BitVec.ofNat 64 v) else .s f.toNat e (BitVec.ofNat 64 v)
  match l.kind with
  | .scalar f e sgn => [reg f e (if sgn then wrap 64 (sext (8 * n) v) else v)]
  | .pair f e => [reg f e (v % 2 ^ 64), reg (f + 1) (e + 1) (v / 2 ^ 64)]
  | .atom f e _ sgn _ _ => [reg f e (if sgn ∧ n = 4 then wrap 64 (sext 32 v) else v)]
  | .lanes d ty keep =>
    let w := ty.bits
    let val := lanesBuild w ty.lanes (fun e => (laneVal ty ps e).getD 0)
    [.v d.toNat (BitVec.ofNat 2048 val) keep]
  | .image q => [.q q.toNat (BitVec.ofNat 512 v)]
  | .expand .. => let _ := t; []
  | .lease .. => []
  | .fill .. => []

/-- The refusals of a QLD's image when due (R131). -/
def imageExc (t : Strand) (v : Nat) : Option Exc :=
  if !imageOk v then some { cause := .reservedField, slot := 2 }
  else if qKind v = 2 ∧ t.ctl.ttcount ≤ qHandle v then some { cause := .access, aux := t.ctl.ttbase + 64 * qHandle v, slot := 2 }
  else none

/-- Changes the results of a strand, its own and those a trap put aside, as one list. -/
def Strand.onResults (t : Strand) (f : List Result → Nat → List Result) : Strand :=
  let n := t.plat.results.length
  let k := (t.handler.elim [] (·.plat.results)).length
  { t with plat := { t.plat with results := f t.plat.results 0 },
           handler := t.handler.map (fun h => { h with plat := { h.plat with results := f h.plat.results n } }),
           atoms := (f t.atoms (n + k)).filter (fun r => !r.arrived) }

/-- Replaces result `i` of a strand. -/
def State.putResult (s : State) (c x i : Nat) (r : Result) : State :=
  s.modStrand c x (fun t => t.onResults (fun l n => if n ≤ i ∧ i < n + l.length then lput l (i - n) r else l))

/-- Drops result `i` of a strand and reports a cause in its place: to the program that a trap interrupted where the access is its. -/
def State.dropResult (s : State) (c x i : Nat) (e : Exc) (epc : Nat) : State :=
  s.modStrand c x (fun t =>
    let own := decide (i < t.plat.results.length) || t.handler.isNone
    let t := t.onResults (fun l n => if n ≤ i ∧ i < n + l.length then ldel l (i - n) else l)
    if own then { t with reports := t.reports ++ [(e, epc)] }
    else { t with handler := t.handler.map (fun h => { h with reports := h.reports ++ [(e, epc)] }) })

/-- Ends the leases of a die that have reached their expiry (R139). -/
def State.lapseAll (s : State) : State :=
  s.leases.foldl (fun s e => match e.2 with
    | some l => if l.over s then s.endLease e.1 else s
    | none => s) s

/-- LEASE.GET at the lease table (R138): the result, and the state after it. Where no number from 1 to 255 is free the result is -1
(log 84). -/
def State.leaseGet (s : State) (c x va len ttl : Nat) (l : LoadOp) : State × Int :=
  let s := s.lapseAll
  let t := s.strand c x
  let die := dieOf c
  let here := s.leases.filterMap (fun e => if e.1 / 256 = die then e.2 else none)
  let mine := here.filter (fun e => e.part == t.part)
  let total (ls : List Lease) : Nat := (ls.map (·.len)).sum
  if va % 512 ≠ 0 ∨ len = 0 ∨ len % 512 ≠ 0 ∨ 2 ^ 25 < len ∨ ttl = 0 ∨ 2 ^ 40 ≤ ttl then (s, -3)
  else if mine.any (fun e => decide (va < e.va + e.len) && decide (e.va < va + len)) then (s, -2)
  else if 2 ^ 25 < total mine + len ∨ 96 * 2 ^ 20 < total here + len then (s, -1)
  else match (List.range 255).find? (fun i => (tget none s.leases (die * 256 + i + 1)).isNone) with
    | none => (s, -1)
    | some i =>
      let rec_ : Lease :=
        { part := t.part, lid := t.lid, gang := t.gang, va := va, len := len, expiry := s.time + ttl, cls := l.cls, sc := l.sc }
      ({ s with leases := tput none s.leases (die * 256 + i + 1) (some rec_) }, ((i + 1 : Nat) : Int))

/-- The fill of a lease (R138): its lines from line `i` on are read as by a load of the instruction's class, up to one that faults. -/
def State.leaseFill (c x va len epc : Nat) (l : LoadOp) : Nat → Nat → State → Read × Nat
  | 0, i, s => (.ok s [] none [], i)
  | n + 1, i, s =>
    let (s', mixed) := s.mixSpan c x (va + 128 * i) 128
    if len ≤ 128 * i then (.ok s [] none [], i)
    else if mixed then (.exc s' { cause := .mixedSize, aux := va + 128 * i, slot := 2 }, i)
    else match s'.glRead (s.whoOf c x 0) (va + 128 * i) 128 epc with
      | .ok s _ _ ts => leaseFill c x va len epc l n (i + 1) (s.countTouches c ts)
      | .cause s .translationFatal a => (.report s { cause := .translationFatal, aux := a, slot := 2 }, i)
      | .cause s k a => (.exc s { cause := k, aux := a, slot := 2 }, i)
      | g =>
        let (s, k) := park (s.strand c x).part ((s.strand c x).recOf c x 0 l.cls l.sc 1 epc 0) g
        (.park s k.toList, i)

/-- VLD.EXPAND's reads and checks (R211). -/
def State.expand (s : State) (c x : Nat) (r : Result) (l : LoadOp) (d : VReg) (q : QReg) (ty : Ty) (active : MWord) (img : Nat)
    (ps : List (Piece × List Byte)) : Read × List RegWrite :=
  match cursorOf img ty with
  | .error e => (.exc s e, [])
  | .ok k =>
    let bytes := partBytes ps
    let h := bytesNat (bytes.take 16)
    let wp := min ty.lanes (k.n - k.p)
    let bm := bytesNat (bytes.drop 16)
    let sel := (List.range wp).filter (fun e => bm.testBit e)
    let nz := fld h 63 32
    let past : Exc := { cause := .packOverrun, slot := 2 }
    if fld h 31 0 ≠ k.n ∨ fld h 68 64 ≠ (tyCode ty).toNat ∨ h / 2 ^ 69 ≠ 0 ∨ k.n < nz ∨
        qLim img < 16 + k.mb + 16 * cdiv (nz * ty.bits) 128 ∨ nz * k.w < k.v + sel.length * k.w then (.exc s past, [])
    else
      let a := qBase img + 16 + k.mb + k.v
      let loc : Loc := match qAs img with
        | 0 => .sp c a
        | 2 => .sp (clCore c a) (a % 2 ^ 21)
        | _ => .gl (a % 2 ^ 64)
      let guard : Bool := match loc with
        | .sp c' o => decide (Config.spBytes < o + sel.length * k.w) || (s.core c').guarded o (sel.length * k.w)
        | .gl _ => false
      if guard ∧ sel ≠ [] then (.exc s { cause := .access, aux := a, slot := 2 }, [])
      else
        let rd := s.readPieces c x { r with got := [] } { l with pieces := (List.range sel.length).flatMap (fun i => repieces (loc.plus (i * k.w)) k.w i false) } .r
        match rd with
        | .ok s parts bad ts =>
          let vals := lanesBuild ty.bits ty.lanes (fun e =>
            if e < wp ∧ bm.testBit e then (laneVal ty parts (sel.idxOf e)).getD 0 else 0)
          let msk := lanesMask ty.bits ty.lanes (fun e => decide (e < wp) && maskBit active ty.bits e)
          (.ok s parts bad ts,
           [.v d.toNat (BitVec.ofNat 2048 (vals &&& msk)) (BitVec.ofNat 2048 msk),
            .q q.toNat (BitVec.ofNat 512 (cursorPut img (k.v + sel.length * k.w) (k.p + wp)))])
        | a => (a, [])

/-- The bytes of store pieces that `sel` selects, or does not: byte `j` of the pieces, counted through. -/
def splitBytes (ps : List SPiece) (sel : Nat → SPiece → Nat → Bool) (want : Bool) : List SPiece :=
  (ps.foldl (fun (a : Nat × List SPiece) q =>
    (a.1 + q.bytes.length, a.2 ++ (List.range q.bytes.length).filterMap (fun j =>
      if sel (a.1 + j) q j = want then some { q with loc := q.loc.plus j, bytes := [lget 0 q.bytes j] } else none))) (0, [])).2

/-- A variable result arrives (R56): its access is performed, or waits, or carries the cause it raises when due. `only`: of an ATOM's write
the bytes that it selects, the others by the turn of a mixed pair (R316). -/
def State.arrive_ (s : State) (c x i : Nat) (only : Option (Nat → SPiece → Nat → Bool) := none) : State :=
  let t := s.strand c x
  match t.flying[i]? with
  | none => s
  | some r =>
    match r.load with
    | none => s
    | some l =>
      if r.arrived ∨ r.faults ≠ [] ∨ ¬ s.mayPerform c x t (r.event l) then s
      else
        let reg (f : SReg) (e : Nat) (n : Int) : RegWrite :=
          if f.toNat < 16 then .g f.toNat (BitVec.ofInt 64 n) else .s f.toNat e (BitVec.ofInt 64 n)
        -- a lease's fill, from its line `j` on
        let fillFrom (f : SReg) (e n va len j : Nat) (s : State) : State :=
          match State.leaseFill c x va len r.epc l (len / 128 + 1) j s with
          | (.ok s .., _) => s.putResult c x i { r with arrived := true, writes := [reg f e n] }
          | (.park s ks, j) => s.putResult c x i { r with faults := ks, load := some { l with kind := .fill f e n va len j } }
          | (.exc s e, _) => s.putResult c x i { r with arrived := true, exc := some e }
          | (.report s e, _) => s.dropResult c x i e r.epc
        match l.kind with
        | .lease f e va len ttl fill =>
          let (s, n) := s.leaseGet c x va len ttl l
          if fill ∧ 0 < n then fillFrom f e n.toNat va len 0 s
          else s.putResult c x i { r with arrived := true, writes := [reg f e n] }
        | .fill f e n va len j => fillFrom f e n va len j s
        | kind =>
          let u : Use := match kind with | .atom .. => .rw | _ => .r
          let rd := s.readPieces c x r l u
          let done (rd : Read) (ws : List RegWrite) : State :=
            match rd with
            | .ok s ps bad ts =>
              let s := ((s.overtake c x (r.event l)).countTouches c ts).stallM c x l.cl (s.rowsOf c t.part (ps.map (fun q => (q.1.loc, q.1.n))))
              (match bad with
               | some a => s.putResult c x i { r with arrived := true, exc := some { cause := .uncorrectable, aux := a, slot := 2 } }
               | none =>
                 (match kind with
                  | .atom _ _ aop sgn cv cmp =>
                    let n := (partBytes ps).length
                    let nv := atomNew aop sgn (8 * n) (bytesNat (partBytes ps)) cv.toNat cmp.toNat
                    let s := match l.pieces with
                      | q :: _ =>
                        let w : SPiece := { loc := q.loc, bytes := natBytes n nv }
                        (match only with
                         | none => (s.writePiece c x r.epc w).1
                         | some f => (splitBytes [w] f true).foldl (fun s q => (s.writePiece c x r.epc q).1) s)
                      | [] => s
                    s.putResult c x i { r with arrived := true, writes := ws }
                  | .image _ =>
                    s.putResult c x i { r with arrived := true, writes := ws, exc := imageExc t (bytesNat (partBytes ps)) }
                  | _ => s.putResult c x i { r with arrived := true, writes := ws }))
            | .park s ks => s.putResult c x i { r with faults := ks }
            | .exc s e => s.putResult c x i { r with arrived := true, exc := some e }
            | .report s e => s.dropResult c x i e r.epc
          match kind, rd with
          | .expand d q ty active img, .ok s ps none ts =>
            let (rd2, ws) := s.expand c x r l d q ty active img.toNat ps
            (match rd2 with
             | .ok s p2 bad t2 => done (.ok s (ps ++ p2) bad (ts ++ t2)) ws
             | a => done a [])
          | _, .ok s ps bad ts => done (.ok s ps bad ts) (finishLoad l t ps)
          | _, a => done a []

/-- RESULT_ARRIVAL (R56). -/
def execResultArrival (c x i : Nat) (s : State) : Host.Outcome State Fault Refusal := .next (s.arrive_ c x i)

/-- What trying the elements of a store finds: those to write, those that stay, the first refusal, and what has posted a record. -/
structure Tried where
  s    : State
  go   : List SPiece := []
  rest : List SPiece := []
  exc  : Option Exc := none
  seen : List (Nat × Nat × Option Nat) := []
  /-- elements of which a piece is refused: they are not written -/
  bad  : List Nat := []
  /-- MIXCHECK refuses a piece: what is left of the access is not performed (R316, log 106) -/
  mixed : Bool := false

/-- One element of a store: refused, waiting on a record of its page, or to be written (R165, R182, R316). -/
def Tried.add (a : Tried) (c x : Nat) (r : Store) (q : SPiece) : Tried :=
  let t := a.s.strand c x
  let no (s : State) (k : Cause) (v : Nat) : Tried := 
    { a with s := s, bad := q.lane :: a.bad, exc := a.exc.or (some { cause := k, aux := v, slot := r.slot }) }
  match q.loc with
  | .sp c' o =>
    if r.cl && (a.s.core c').guarded o q.bytes.length then no a.s .access (c' % 4 * 2 ^ 21 + o)
    else { a with go := a.go ++ [q] }
  | .gl va =>
    if q.fault.isSome then { a with rest := a.rest ++ [q] }
    else match a.seen.find? (fun e => e.1 == q.lane && e.2.1 == pageOf va) with
      | some e => { a with rest := a.rest ++ [{ q with fault := e.2.2 }] }
      | none =>
        match a.s.glProbe (a.s.mWho c x) va q.bytes.length .w with
        | .ok s .. =>
          let (s, mixed) := s.mix t.dbg.mixchk t.part (strandAgent c x) q.loc q.bytes.length
          if mixed then { no s .mixedSize va with mixed := true } else { a with s := s, go := a.go ++ [q] }
        | .cause s k v => no s k v
        | g =>
          let (s, k) := park t.part (a.s.mRec c x r.cls r.sc 2 r.pc r.handle va) g
          { a with s := s, rest := a.rest ++ [{ q with fault := k }], seen := a.seen ++ [(q.lane, pageOf va, k)] }

/-- A place as one number, so that runs of bytes can be joined. -/
def locKey : Loc → Nat
  | .sp c o => (c + 1) * 2 ^ 64 + o
  | .gl va => va % 2 ^ 64

def keyLoc (k : Nat) : Loc := if k < 2 ^ 64 then .gl k else .sp (k / 2 ^ 64 - 1) (k % 2 ^ 64)

/-- Pieces of one store as runs of consecutive bytes: of two that write a byte the later has it (R182), and a half or a row that they
write in full together is written in full (R95, R160). -/
def joinPieces (ps : List SPiece) : List SPiece :=
  match ps with
  | [q] => [q]
  | _ =>
    let t := ps.foldl (fun (t : Tbl Byte) q => (List.range q.bytes.length).foldl (fun t i => tins t (locKey q.loc + i) (lget 0 q.bytes i)) t) []
    (t.foldr (fun e (rs : List (Nat × List Byte)) => match rs with
      | (k, bs) :: r => if e.1 + 1 = k then (e.1, e.2 :: bs) :: r else (e.1, [e.2]) :: (k, bs) :: r
      | [] => [(e.1, [e.2])]) []).map (fun r => { loc := keyLoc r.1, bytes := r.2 })

/-- Writes the pieces `go` of a store, of which `rest` stay: the state, and the entry with what its parts have in common. A line or a row that
they cover in full is clean with its last byte (R96, R160); each line they touch is counted once (R112), and their rows are passes of one
access (R163). -/
def State.writePart (s : State) (c x : Nat) (r : Store) (go rest : List SPiece) : State × Store :=
  let w := s.mWho c x
  let place (q : SPiece) : Loc × Nat := (q.loc, q.bytes.length)
  let split := r.done != [] || rest != []
  let done := r.done ++ go.map place
  let clean := if split then (r.clean ++ s.toClean w (done ++ rest.map place)).eraseDups else []
  let (s, ts) := (joinPieces go).foldl (fun (b : State × List Touch) q =>
    let (s, ts) := b.1.writePiece c x r.pc q clean
    (s, b.2 ++ ts)) (s, [])
  let s := if clean = [] then s
    else let rs := (s.spots w done).map (fun q => (q.1, q.2.1)); s.unpoison (clean.filter (coverUnit rs))
  let rows := s.rowsOf c w.part (go.map place)
  (((s.countTouches c (ts.filter (fun t => !r.touch.contains t))).stallM c x r.cl rows r.passes),
   { r with pieces := rest, done := done, clean := clean, touch := r.touch ++ ts, passes := r.passes ++ rows })

/-- A store is performed (R166), each of its elements by itself: one that is refused is reported and not written, one whose page faults
stays in the entry and waits (R102, R182). With `only`, its first pieces, the others later (R304); under MIXCHECK, which refuses an access
whole, never so (R316, log 106). -/
def State.perform (s : State) (c x i : Nat) (only : Option Nat := none) : State :=
  let t := s.strand c x
  match t.stores[i]? with
  | none => s
  | some r =>
    if r.depth ≠ 0 ∨ ¬ s.mayPerform c x t r.event then s
    else
      let drop (s : State) : State := (s.modStrand c x (fun t => { t with stores := ldel t.stores i })).overtake c x r.event
      match r.act with
      | some (0, lines) =>
        drop (lines.foldl (fun s ln => match tget none s.l2 ln with
          | some l => s.writeBack ln l
          | none => s) s)
      | some (9, lines) => drop (lines.foldl State.freeLine s)
      | some (w + 1, _) => drop (s.stashFlush c w)
      | none =>
        let n := if t.dbg.mixchk then r.pieces.length else only.getD r.pieces.length
        let a : Tried := (r.pieces.take n).foldl (fun a q => a.add c x r q) ({ s := s } : Tried)
        let a : Tried := if a.mixed then { a with go := [], rest := [] }
          else { a with go := a.go.filter (fun q => !a.bad.contains q.lane), rest := a.rest ++ r.pieces.drop n }
        let (s, r') := a.s.writePart c x r a.go a.rest
        let s := if a.rest = [] then drop s
          else (if a.go = [] then s else s.overtake c x r.event).modStrand c x (fun t => { t with stores := lput t.stores i r' })
        match a.exc with
        | some e => if t.exited then s else s.modStrand c x (fun t => { t with reports := t.reports ++ [(e, r.pc)] })
        | none => s

/-- STORE_PERFORMED (R166, R327). -/
def execStorePerformed (c x i : Nat) (s : State) : Host.Outcome State Fault Refusal := .next (s.perform c x i)

/-! Pieces seen apart (R304). -/

/-- The first `n` pieces of a load are read now, the others later (R304). -/
def State.readSome (s : State) (c x i n : Nat) : State :=
  let t := s.strand c x
  match t.flying[i]? with
  | none => s
  | some r =>
    match r.load with
    | none => s
    | some l =>
      let plain : Bool := match l.kind with | .atom .. | .lease .. | .fill .. => false | _ => true
      if !plain ∨ r.arrived ∨ r.faults ≠ [] ∨ ¬ s.mayPerform c x t (r.event l) then s
      else
        match s.readPieces c x r { l with pieces := l.pieces.take n } .r with
        | .ok s ps bad ts => (s.putResult c x i { r with got := ps.map (fun q => (q.1, q.2, bad)), gotT := ts }).overtake c x (r.event l)
        | _ => s

/-- A turn that performs some pieces of an access of a strand. -/
def State.pieceTurn (s : State) (c x i n : Nat) (load : Bool) : State :=
  if load then s.readSome c x i n else s.perform c x i (some n)

/-! Issue of accesses. -/

/-- Whether the strand's stores that are not gated fill its store queue (R166). -/
def Strand.queueFull (t : Strand) : Bool := decide (16 ≤ (t.stores.filter (fun r => r.gate == 0 && r.act.isNone)).length)

/-- Free entries of the core's region store gate (R326). -/
def Core.gateFree (k : Core) : Nat := 1024 - (k.strands.map (fun e => (e.2.stores.map (·.gate)).sum)).sum

/-- Aligned 64-byte blocks that a store's global pieces touch. -/
def gateBlocks (ps : List SPiece) : Nat :=
  (ps.flatMap (fun q => match q.loc with
    | .gl va => [va / 64, (va + q.bytes.length - 1) / 64]
    | .sp .. => [])).eraseDups.length

/-- The gate of an M-slot load. -/
def loadGate (s : State) : Gate := storeFaultGate s

/-- The gate of an M-slot store. -/
def storeGate (s : State) : Gate := if s.me.queueFull then .freeze else storeFaultGate s

/-- A store takes its entry, gated inside a region (R166, R326). -/
def State.store (s : State) (ps : List SPiece) (at_ : MAttr) (cl : Bool) (handle : Nat) : Res :=
  let t := s.me
  let gated := t.frames ≠ [] ∧ t.handler.isNone ∧ ps.any (fun q => match q.loc with | .gl _ => true | .sp .. => false)
  let n := if gated then gateBlocks ps else 0
  if (s.core s.cur).gateFree < n then raise 2 .regionFull 0
  else if ps = [] then ok s
  else
    let r : Store :=
      { seq := t.seq, pos := t.seq, pieces := ps, cls := at_.cls.toNat, sc := at_.sc, cl := cl, pc := t.bpos, handle := handle,
        depth := if gated then t.frames.length else 0, gate := n }
    ok (s.setMe { t with seq := t.seq + 1, stores := t.stores ++ [r] })

/-- EARLY_READ (R279): a marked line, unless the reader's own command has been waited for. -/
def earlyRead (s : State) (at_ : List (Loc × Nat)) : Bool :=
  let t := s.me
  t.dbg.early && at_.any (fun a => match a.1 with
    | .gl _ => false
    | .sp c o => (List.range 4).any (fun j =>
        let from_ := clusterOf s.cur * 4 + j
        (s.core from_).marks.any (fun m =>
          m.1 / 16384 == c && decide (128 * (m.1 % 16384) < o + a.2) && decide (o < 128 * (m.1 % 16384) + 128) &&
          !(from_ == s.cur && m.2.1 == s.ctx && t.waited.contains m.2.2.1))))

/-- A GL access all of whose lines are valid in a mapped window is a stash hit (R141). -/
def State.stashHit (s : State) (ps : List Piece) : Bool :=
  ps != [] && ps.all (fun q => match q.loc with
    | .gl va => (match (s.core s.cur).window s.me.part va with
      | some (_, st, i) => (tget none st.lines i).isSome && (match (s.translate s.me.part s.me.part va .r false).2 with
          | .ok (.hbm pa ..) => !s.watched pa
          | _ => false)
      | none => false)
    | .sp .. => false)

/-- A load's latency (R55, R141): SP, CL, GL, and a stash hit served as SP. -/
def State.loadLat (s : State) (as_ sp cl gl : Nat) (ps : List Piece) : Nat :=
  match as_ with
  | 0 => sp
  | 2 => cl
  | _ => if s.stashHit ps then sp else gl

/-- Puts a load under way after the early-read check. -/
def State.load (s : State) (lat : Nat) (l : LoadOp) : Res :=
  if earlyRead s (l.pieces.map (fun q => (q.loc, q.n))) then raise 2 .earlyRead else ok (s.variable 2 lat l)

/-! LD, ST, ATOM, FENCE. -/

/-- LD (R179, R180). -/
def opLd (as_ : Space) (sz : Size) (sgn : Bool) (t a : SReg) (off : BitVec 18) (at_ : MAttr) : SlotOp :=
  { slot := 2, results := 1, gate := loadGate,
    run := fun s =>
      let n := sizeNat sz
      match s.mAddr 2 (spaceNat as_) (s.me.addr a off) n with
      | .error e => .error e
      | .ok loc =>
        let e := s.me.entry t
        let ps := rpieces loc n
        let kind : LoadKind := if n = 16 then .pair t e else .scalar t e sgn
        s.load (s.loadLat (spaceNat as_) 6 14 72 ps) { kind := kind, pieces := ps, cls := at_.cls.toNat, sc := at_.sc, cl := as_ == .cl } }
def execLd (as_ : Space) (sz : Size) (sgn : Bool) (t a : SReg) (off : BitVec 18) (at_ : MAttr) (s : State) :
    Host.Outcome State Fault Refusal := meaning (opLd as_ sz sgn t a off at_) s

/-- The bytes a scalar store writes (R180). -/
def stBytes (s : Strand) (n : Nat) (t : SReg) : List Byte :=
  if n = 16 then natBytes 8 (s.sreg t).toNat ++ natBytes 8 (s.sreg (t + 1)).toNat else natBytes n (s.sreg t).toNat

/-- ST (R179, R180). -/
def opSt (as_ : Space) (sz : Size) (t a : SReg) (off : BitVec 18) (at_ : MAttr) : SlotOp :=
  { slot := 2, results := 0, gate := storeGate,
    run := fun s =>
      match s.mAddr 2 (spaceNat as_) (s.me.addr a off) (sizeNat sz) with
      | .error e => .error e
      | .ok loc => s.store (spieces loc (stBytes s.me (sizeNat sz) t)) at_ (as_ == .cl) 0 }
def execSt (as_ : Space) (sz : Size) (t a : SReg) (off : BitVec 18) (at_ : MAttr) (s : State) : Host.Outcome State Fault Refusal :=
  meaning (opSt as_ sz t a off at_) s

/-- ATOM (R181). -/
def opAtom (as_ : Space) (sz : Size) (aop : AOp) (ord : Ord) (sgn : Bool) (t a c : SReg) (off : BitVec 18) (at_ : MAttr) : SlotOp :=
  { slot := 2, results := 1, gate := loadGate,
    run := fun s =>
      match s.mAddr 2 (spaceNat as_) (s.me.addr a off) (sizeNat sz) with
      | .error e => .error e
      | .ok loc =>
        if as_ = .gl ∧ s.me.frames ≠ [] then raise 2 .regionEffect
        else
          let ps := rpieces loc (sizeNat sz)
          s.load (s.loadLat (spaceNat as_) 8 16 96 ps)
            { kind := .atom t (s.me.entry t) aop sgn (s.me.sreg c) (s.me.sreg t), pieces := ps, cls := at_.cls.toNat, sc := at_.sc,
              acq := ord == .acq, rel := ord == .rel, cl := as_ == .cl } }
def execAtom (as_ : Space) (sz : Size) (aop : AOp) (ord : Ord) (sgn : Bool) (t a c : SReg) (off : BitVec 18) (at_ : MAttr) (s : State) :
    Host.Outcome State Fault Refusal := meaning (opAtom as_ sz aop ord sgn t a c off at_) s

/-- FENCE (R183): issues at once; its effect falls on later accesses. -/
def opFence (mask : BitVec 16) (sc : Scope) : SlotOp :=
  { slot := 2, results := 0, gate := storeFaultGate,
    run := fun s => ok (s.modMe (fun t =>
      { t with seq := t.seq + 1,
               fences := t.fences.filter (fun f => t.open_.any (fun e => decide (e.seq < f.seq))) ++
                 [{ seq := t.seq, mask := mask.toNat, sc := sc }] })) }
def execFence (mask : BitVec 16) (sc : Scope) (s : State) : Host.Outcome State Fault Refusal := meaning (opFence mask sc) s

/-! Pattern and vector accesses. -/

/-- QLD (R131). -/
def opQld (as_ : Space) (q : QReg) (a : SReg) (off : BitVec 18) (at_ : MAttr) : SlotOp :=
  { slot := 2, results := 1, gate := loadGate,
    run := fun s =>
      match s.mAddr 2 (spaceNat as_) (s.me.addr a off) 64 with
      | .error e => .error e
      | .ok loc =>
        let ps := rpieces loc 64
        s.load (s.loadLat (spaceNat as_) 8 14 72 ps) { kind := .image q, pieces := ps, cls := at_.cls.toNat, sc := at_.sc, cl := as_ == .cl } }
def execQld (as_ : Space) (q : QReg) (a : SReg) (off : BitVec 18) (at_ : MAttr) (s : State) : Host.Outcome State Fault Refusal :=
  meaning (opQld as_ q a off at_) s

/-- The visited elements of a byte-form access with their places (R182): the first that fails its checks decides. -/
def bytePlaces (s : State) (q : Nat) (es : List Nat) : Except Exc (List (Nat × Loc)) :=
  es.foldl (fun acc e =>
    match acc with
    | .error x => .error x
    | .ok l =>
      match patByte q e with
      | none => .error { cause := .access, aux := qBase q, slot := 2 }
      | some (x, _) => (match s.mAddr 2 (qAs q) x (qSize q) with
        | .error x => .error x
        | .ok loc => .ok (l ++ [(e, loc)]))) (.ok [])

/-- The elements an access visits: below Count and W, and active (R182). -/
def visited (q : Nat) (ty : Ty) (m : MWord) : List Nat :=
  (List.range (min (qCount q) ty.lanes)).filter (fun e => maskBit m ty.bits e)

/-- The checks of LDV and STV before their elements (R182). -/
def vecCheck (q : Nat) (ty : Ty) (st : Bool) : Option Exc :=
  if qKind q ≠ 1 ∨ qEs q ≠ tyEs ty then some { cause := .reservedField, slot := 2 }
  else if st ∧ zeroStride q then some { cause := .patternDegenerate, slot := 2 }
  else none

/-- LDV (R182). -/
def opLdv (v : VReg) (q : QReg) (m : MReg) (ty : Ty) (at_ : MAttr) : SlotOp :=
  { slot := 2, results := 1, gate := loadGate,
    run := fun s =>
      let i := (s.me.qreg q).toNat
      match vecCheck i ty false with
      | some e => .error e
      | none =>
        let es := visited i ty (s.me.mreg m)
        match bytePlaces s i es with
        | .error e => .error e
        | .ok ls =>
          let ps := ls.flatMap (fun el => repieces el.2 (qSize i) el.1 false)
          s.load (s.loadLat (qAs i) 8 14 72 ps)
            { kind := .lanes v ty (BitVec.ofNat 2048 (lanesMask ty.bits ty.lanes (fun e => es.contains e))), pieces := ps,
              cls := at_.cls.toNat, sc := at_.sc, cl := qAs i == 2 } }
def execLdv (v : VReg) (q : QReg) (m : MReg) (ty : Ty) (at_ : MAttr) (s : State) : Host.Outcome State Fault Refusal :=
  meaning (opLdv v q m ty at_) s

/-- STV (R182). -/
def opStv (v : VReg) (q : QReg) (m : MReg) (ty : Ty) (at_ : MAttr) : SlotOp :=
  { slot := 2, results := 0, gate := storeGate,
    run := fun s =>
      let i := (s.me.qreg q).toNat
      match vecCheck i ty true with
      | some e => .error e
      | none =>
        match bytePlaces s i (visited i ty (s.me.mreg m)) with
        | .error e => .error e
        | .ok ls =>
          s.store (ls.flatMap (fun el => epieces el.2 el.1 (natBytes (qSize i) (laneOf (s.me.vreg v) ty.bits el.1)))) at_ (qAs i == 2) 0 }
def execStv (v : VReg) (q : QReg) (m : MReg) (ty : Ty) (at_ : MAttr) (s : State) : Host.Outcome State Fault Refusal :=
  meaning (opStv v q m ty at_) s

/-- The gate of a tensor access: its descriptor is in the store (R114). -/
def tensorGate (q : QReg) (g : State → Gate) (s : State) : Gate :=
  let i := (s.me.qreg q).toNat
  if qKind i ≠ 2 then g s
  else match descGate 0 (qHandle i) s with
    | .go => g s
    | x => x

/-- The checks of LDV.T and STV.T before their elements, with the descriptor (R133). -/
def tensorCheck (s : State) (q : Nat) (ty : Ty) (st : Bool) : Except Exc Nat :=
  if qKind q ≠ 2 then .error { cause := .reservedField, slot := 2 }
  else match s.needDesc 2 0 (qHandle q) with
    | .error e => .error e
    | .ok d =>
      if ty ≠ dTy d ∨ qEs q ≠ tyEs ty then .error { cause := .reservedField, slot := 2 }
      else if st ∧ zeroStride q then .error { cause := .patternDegenerate, slot := 2 }
      else .ok d

/-- The resolved elements of a tensor access, checked one by one (R133): element, offset, sign, forced zero. A forced zero is not
checked against the window. `bad e`: lane `e` may not be written to a forced zero. -/
def tensorPlaces (d q : Nat) (bad : Nat → Bool) (es : List Nat) : Except Exc (List (Nat × Nat × Bool × Bool)) :=
  es.foldl (fun acc e =>
    match acc with
    | .error x => .error x
    | .ok l =>
      if patZero d q e then (if bad e then .error { cause := .symViolation, slot := 2 } else .ok (l ++ [(e, 0, false, true)]))
      else match patTensor d q e with
        | none => .error { cause := .access, aux := dBase d, slot := 2 }
        | some c => .ok (l ++ [(e, canon d c)])) (.ok [])

/-- LDV.T (R133): a forced zero is read without an access (R127). -/
def opLdvT (v : VReg) (q : QReg) (m : MReg) (ty : Ty) (at_ : MAttr) : SlotOp :=
  { slot := 2, results := 1, gate := tensorGate q loadGate,
    run := fun s =>
      let i := (s.me.qreg q).toNat
      match tensorCheck s i ty false with
      | .error e => .error e
      | .ok d =>
        let es := visited i ty (s.me.mreg m)
        match tensorPlaces d i (fun _ => false) es with
        | .error e => .error e
        | .ok ls =>
          let ps := ls.flatMap (fun el =>
            if el.2.2.2 then [] else repieces (.gl (dAddr d el.2.1).1) (ty.bits / 8) el.1 el.2.2.1)
          s.load (if s.stashHit ps then 8 else 80)
            { kind := .lanes v ty (BitVec.ofNat 2048 (lanesMask ty.bits ty.lanes (fun e => es.contains e))), pieces := ps,
              cls := at_.cls.toNat, sc := at_.sc, handle := qHandle i } }
def execLdvT (v : VReg) (q : QReg) (m : MReg) (ty : Ty) (at_ : MAttr) (s : State) : Host.Outcome State Fault Refusal :=
  meaning (opLdvT v q m ty at_) s

/-- STV.T (R133, R128): of several elements that resolve to one stored element, the last is written. -/
def opStvT (v : VReg) (q : QReg) (m : MReg) (ty : Ty) (at_ : MAttr) : SlotOp :=
  { slot := 2, results := 0, gate := tensorGate q storeGate,
    run := fun s =>
      let i := (s.me.qreg q).toNat
      let lane (e : Nat) : Nat := laneOf (s.me.vreg v) ty.bits e
      match tensorCheck s i ty true with
      | .error e => .error e
      | .ok d =>
        match tensorPlaces d i (fun e => !isZeroElem ty (lane e)) (visited i ty (s.me.mreg m)) with
        | .error e => .error e
        | .ok ls =>
            let ws := ls.filter (fun el => !el.2.2.2)
            let ws := ws.filter (fun el => !ws.any (fun o => decide (el.1 < o.1) && o.2.1 == el.2.1))
            s.store (ws.flatMap (fun el => epieces (.gl (dAddr d el.2.1).1) el.1
              (natBytes (ty.bits / 8) (if el.2.2.1 then applySign ty (lane el.1) else lane el.1)))) at_ false (qHandle i) }
def execStvT (v : VReg) (q : QReg) (m : MReg) (ty : Ty) (at_ : MAttr) (s : State) : Host.Outcome State Fault Refusal :=
  meaning (opStvT v q m ty at_) s

/-! Packed blocks. -/

/-- Space checks of a list of (address, length) ranges of a block (R208): aligned pieces are not asked for. -/
def blockPlaces (s : State) (as_ : Nat) (rs : List (Nat × Nat)) : Except Exc (List Loc) :=
  rs.foldl (fun acc r =>
    match acc with
    | .error x => .error x
    | .ok l => match s.space 2 as_ (r.1 % 2 ^ 64) r.2 with
      | .error x => .error x
      | .ok loc => .ok (l ++ [loc])) (.ok [])

/-- NonZero (R207): any bit other than a float's sign. -/
def nonZero (ty : Ty) (v : Nat) : Bool := (if ty.isFloat then v % 2 ^ (ty.bits - 1) else v) != 0

/-- The bytes of a bit list, eight to a byte. -/
def bitBytes (n : Nat) (f : Nat → Bool) : List Byte :=
  natBytes (cdiv n 8) ((List.range n).foldl (fun a i => if f i then a + 2 ^ i else a) 0)

/-- A packing store with its new cursor (R209, R210): the parts with the address of each, and the width of its elements, 0 for a part
without elements. -/
def State.packStore (s : State) (q : QReg) (img new : Nat) (parts : List (Nat × Nat × List Byte)) (at_ : MAttr) : Res :=
  let parts := parts.filter (fun p => p.2.2 != [])
  -- the elements of the value area are elements of a vector access, the rest is stored in whole pieces (R304)
  let cut (loc : Loc) (p : Nat × Nat × List Byte) : List SPiece :=
    if p.2.1 = 0 then spieces loc p.2.2
    else (List.range (p.2.2.length / p.2.1)).flatMap (fun i => epieces (loc.plus (i * p.2.1)) (i + 1) ((p.2.2.drop (i * p.2.1)).take p.2.1))
  match blockPlaces s (qAs img) (parts.map (fun p => (p.1, p.2.2.length))) with
  | .error e => .error e
  | .ok ls =>
    match s.store ((ls.zip parts).flatMap (fun lp => cut lp.1 lp.2)) at_ (qAs img == 2) 0 with
    | .error e => .error e
    | .ok s => ok (s.fixed 2 2 [.q q.toNat (BitVec.ofNat 512 new)])

/-- VST.PACK (R209). -/
def opVstPack (v : VReg) (q : QReg) (m : MReg) (ty : Ty) (at_ : MAttr) : SlotOp :=
  { slot := 2, results := 1, gate := storeGate,
    run := fun s =>
      let i := (s.me.qreg q).toNat
      match cursorOf i ty with
      | .error e => .error e
      | .ok k =>
        let wp := min ty.lanes (k.n - k.p)
        let lane (e : Nat) : Nat := laneOf (s.me.vreg v) ty.bits e
        let kept := (List.range wp).filter (fun e => maskBit (s.me.mreg m) ty.bits e && nonZero ty (lane e))
        if qLim i < 16 + k.mb + k.v + kept.length * k.w then raise 2 .packOverrun
        else
          s.packStore q i (cursorPut i (k.v + kept.length * k.w) (k.p + wp))
            [(qBase i + 16 + k.p / 8, 0, bitBytes wp (fun e => kept.contains e)),
             (qBase i + 16 + k.mb + k.v, k.w, kept.flatMap (fun e => natBytes k.w (lane e)))] at_ }
def execVstPack (v : VReg) (q : QReg) (m : MReg) (ty : Ty) (at_ : MAttr) (s : State) : Host.Outcome State Fault Refusal :=
  meaning (opVstPack v q m ty at_) s

/-- VPACK.END (R210). NZ is V / w without its remainder, and a quotient of more than 32 bits runs on into the FMT field: the model's choice,
since R208 puts no bound on V (log 105). -/
def opVpackEnd (q : QReg) (ty : Ty) (at_ : MAttr) : SlotOp :=
  { slot := 2, results := 1, gate := storeGate,
    run := fun s =>
      let i := (s.me.qreg q).toNat
      match cursorOf i ty with
      | .error e => .error e
      | .ok k =>
        let e := 16 + k.mb + 16 * cdiv k.v 16
        let b := qBase i
        if qLim i < e then raise 2 .packOverrun
        else
          let new := qPut (qPut (cursorPut i 0 0) 511 448 (b + e)) 447 384 (qLim i - e)
          s.packStore q i new
            [(b, 0, natBytes 16 (k.n + k.v / k.w * 2 ^ 32 + (tyCode ty).toNat * 2 ^ 64)),
             (b + 16 + cdiv k.p 8, 0, List.replicate (k.mb - cdiv k.p 8) 0),
             (b + 16 + k.mb + k.v, 0, List.replicate (e - 16 - k.mb - k.v) 0)] at_ }
def execVpackEnd (q : QReg) (ty : Ty) (at_ : MAttr) (s : State) : Host.Outcome State Fault Refusal := meaning (opVpackEnd q ty at_) s

/-- The range of the values that a block's bitmask selects, as the strand reads it at issue (R208): its address and length. -/
def State.valuesAt (s : State) (img : Nat) (k : Cursor) (wp : Nat) (bits : List Piece) : Nat × Nat :=
  let bm := bytesNat (bits.flatMap (fun q => (s.overlay s.me s.me.seq q.loc (match q.loc with
    | .sp c o => (s.core c).spBytes o q.n
    | .gl va => match s.glRead (s.mWho s.cur s.ctx) va q.n 0 with
      | .ok _ bs _ _ => bs
      | _ => List.replicate q.n 0)).1))
  (qBase img + 16 + k.mb + k.v, ((List.range wp).filter (fun e => bm.testBit e)).length * k.w)

/-- VLD.EXPAND (R211): header, bitmask and values are read together when the access is performed. The places of values are checked at issue,
by the bitmask as it then is; the read checks them again by the bitmask it finds (log 28). -/
def opVldExpand (v : VReg) (q : QReg) (m : MReg) (ty : Ty) (at_ : MAttr) : SlotOp :=
  { slot := 2, results := 1, gate := loadGate,
    run := fun s =>
      let i := (s.me.qreg q).toNat
      match cursorOf i ty with
      | .error e => .error e
      | .ok k =>
        let wp := min ty.lanes (k.n - k.p)
        let rs := [(qBase i, 16), (qBase i + 16 + k.p / 8, cdiv wp 8)].filter (fun r => r.2 != 0)
        match blockPlaces s (qAs i) rs with
        | .error e => .error e
        | .ok ls =>
          let ps := (ls.zip rs).flatMap (fun lr => rpieces lr.1 lr.2.2)
          let (a, n) := s.valuesAt i k wp ((ls.zip rs).flatMap (fun lr => if lr.2.1 = qBase i then [] else rpieces lr.1 lr.2.2))
          match (if n = 0 then .ok [] else blockPlaces s (qAs i) [(a, n)]) with
          | .error e => .error e
          | .ok vs =>
          let most : Loc := match qAs i with
            | 0 => .sp s.cur a
            | 2 => .sp (clCore s.cur a) (a % 2 ^ 21)
            | _ => .gl (a % 2 ^ 64)
          if earlyRead s (vs.map (fun l => (l, n))) then raise 2 .earlyRead
          else s.load (s.loadLat (qAs i) 8 14 72 (ps ++ vs.flatMap (fun l => rpieces l n)))
            { kind := .expand v q ty (s.me.mreg m) (s.me.qreg q), pieces := ps, cls := at_.cls.toNat, sc := at_.sc, cl := qAs i == 2,
              more := if wp = 0 then [] else [(most, wp * k.w)] } }
def execVldExpand (v : VReg) (q : QReg) (m : MReg) (ty : Ty) (at_ : MAttr) (s : State) : Host.Outcome State Fault Refusal :=
  meaning (opVldExpand v q m ty at_) s

/-! Stash windows and leases. -/

/-- The lines that the strand's earlier stores will write inside a window. -/
def State.windowLines (s : State) (w : Nat) : List Nat :=
  let st := tget {} (s.core s.cur).stash w
  let own := st.lines.filterMap (fun e => e.2.map (·.1))
  let queued := s.me.stores.flatMap (fun r => r.pieces.filterMap (fun q => match q.loc with
    | .gl va => if st.va ≤ va ∧ va < st.va + st.len then
        (match (s.translate s.me.part s.me.part va .w false).2 with | .ok (.hbm pa ..) => some (pa / 128) | _ => none)
      else none
    | .sp .. => none))
  (own ++ queued).eraseDups

/-- A write-back entry after the strand's earlier accesses (R142). -/
def State.writeBacks (s : State) (act : Nat × List Nat) (at_ : MAttr) : State :=
  s.modMe (fun t =>
    { t with seq := t.seq + 1,
             stores := t.stores ++ [{ seq := t.seq, pos := t.seq, pieces := [], cls := at_.cls.toNat, sc := at_.sc, pc := t.bpos, act := some act }] })

/-- STASH.INV (R142): the lines go back to their homes and the window is unmapped; the write-backs follow in order (log 30). A FLUSH of the
window that is still queued, of any strand of the core, keeps the lines it has to write back. -/
def State.stashInv (s : State) (w : Nat) (at_ : MAttr) : State :=
  if (tget {} (s.core s.cur).stash w).mapped then
    let lines := s.windowLines w
    let st := tget {} (s.core s.cur).stash w
    let s := st.lines.foldl (fun s e => match e.2 with
      | some (ln, _) => s.recall ln
      | none => s) s
    let keep (r : Store) : Store := if r.act = some (w + 1, []) then { r with act := some (0, lines) } else r
    (s.modCore s.cur (fun k =>
      { k with stash := tput {} k.stash w {}, strands := k.strands.map (fun e => (e.1, { e.2 with stores := e.2.stores.map keep })) })).writeBacks
        (0, lines) at_
  else s

/-- STASH.MAP (R140). -/
def opStashMap (w : BitVec 3) (a b c : SReg) (at_ : MAttr) : SlotOp :=
  { slot := 2, results := 0, gate := storeFaultGate,
    run := fun s =>
      let t := s.me
      let (base, va, len) := ((t.sreg a).toNat, (t.sreg b).toNat, (t.sreg c).toNat)
      let others := (s.core s.cur).stash.filter (fun e => e.1 != w.toNat && e.2.mapped)
      if base % 128 ≠ 0 ∨ va % 128 ≠ 0 ∨ len % 128 ≠ 0 then
        raise 2 .align (if base % 128 ≠ 0 then base else if va % 128 ≠ 0 then va else len)
      else if len = 0 ∨ 2 ^ 20 < len ∨ Config.spBytes < base + len ∨
          others.any (fun e => meets base len (e.2.base, e.2.len) || meets va len (e.2.va, e.2.len)) then raise 2 .access va
      else
        let s := s.stashInv w.toNat at_
        let st : Stash :=
          { mapped := true, part := t.part, base := base, va := va, len := len, cls := at_.cls.toNat, sc := at_.sc,
            lid := t.lid, gang := t.gang }
        ok (s.modCore s.cur (fun k => { k with stash := tput {} k.stash w.toNat st })) }
def execStashMap (w : BitVec 3) (a b c : SReg) (at_ : MAttr) (s : State) : Host.Outcome State Fault Refusal :=
  meaning (opStashMap w a b c at_) s

/-- STASH.FLUSH (R142). -/
def opStashFlush (w : BitVec 3) (at_ : MAttr) : SlotOp :=
  { slot := 2, results := 0, gate := storeFaultGate, run := fun s => ok (s.writeBacks (w.toNat + 1, []) at_) }
def execStashFlush (w : BitVec 3) (at_ : MAttr) (s : State) : Host.Outcome State Fault Refusal := meaning (opStashFlush w at_) s

/-- STASH.INV (R142). -/
def opStashInv (w : BitVec 3) (at_ : MAttr) : SlotOp :=
  { slot := 2, results := 0, gate := storeFaultGate, run := fun s => ok (s.stashInv w.toNat at_) }
def execStashInv (w : BitVec 3) (at_ : MAttr) (s : State) : Host.Outcome State Fault Refusal := meaning (opStashInv w at_) s

/-- LEASE.GET (R138). -/
def opLeaseGet (d a b c : SReg) (fill : Bool) (at_ : MAttr) : SlotOp :=
  { slot := 2, results := 1, gate := loadGate,
    run := fun s =>
      let t := s.me
      ok (s.variable 2 72
        { kind := .lease d (t.entry d) (t.sreg a).toNat (t.sreg b).toNat (t.sreg c).toNat fill, pieces := [], cls := at_.cls.toNat, sc := at_.sc }) }
def execLeaseGet (d a b c : SReg) (fill : Bool) (at_ : MAttr) (s : State) : Host.Outcome State Fault Refusal :=
  meaning (opLeaseGet d a b c fill at_) s

/-- LEASE.FREE (R139): a number with no live lease of the partition has no effect; the write-backs of dirty lines homed on another die
follow as stores of the instruction's class and scope. -/
def opLeaseFree (a : SReg) (at_ : MAttr) : SlotOp :=
  { slot := 2, results := 0, gate := storeFaultGate,
    run := fun s =>
      let s := s.lapseAll
      let n := (s.me.sreg a).toNat
      let k := dieOf s.cur * 256 + n
      let mine : Bool := match tget none s.leases k with
        | some l => l.part == s.me.part
        | none => false
      let lines := ((s.leaseLines k).filter (fun e => e.2.dirty && e.2.slice / 256 != dieOf s.cur)).map (·.1)
      ok (if 1 ≤ n ∧ n ≤ 255 ∧ mine then (let s := s.endLease k true; if lines = [] then s else s.writeBacks (9, lines) at_) else s) }
def execLeaseFree (a : SReg) (at_ : MAttr) (s : State) : Host.Outcome State Fault Refusal := meaning (opLeaseFree a at_) s

/-! Events of memory. -/

/-- LEASE_EXPIRY (R139): when TIME has reached the expiry. -/
def execLeaseExpiry (die n : Nat) (s : State) : Host.Outcome State Fault Refusal :=
  .next (match tget none s.leases (die * 256 + n) with
    | some l => if l.expiry ≤ s.time then s.endLease (die * 256 + n) else s
    | none => s)

/-- STASH_WRITEBACK (R141): a window writes back a dirty line at its own choice. -/
def execStashWriteback (c w line : Nat) (s : State) : Host.Outcome State Fault Refusal := .next (s.stashClean c w line)

/-- SCRUB_LINE (R95, R97): `line` is a 64-byte line homed on the stack. A poisoned line is passed over; one whose code is good or
mended is checked for its tag. -/
def execScrubLine (stack line : Nat) (seen : LineCheck) (s : State) : Host.Outcome State Fault Refusal :=
  let m := s.metaOf line
  let slot := (m.slot.map (·.1)).getD 0
  let poison (s : State) : State := { s with lines := tput {} s.lines line { m with poison := true, map := s.since line } }
  let b := tget 0 s.pmap (64 * line / 2 ^ 30)
  -- the tag is checked under the line's stored slot with the keys of now (R94, R97)
  let tag (s : State) : State := match m.slot with
    | some (k, g) => if g = s.gen k then s else poison (s.scrubCount stack 3 k (64 * line))
    | none => s
  .next (if m.poison ∨ ¬ isHbm (64 * line) ∨ (home (64 * line / 128 * 128) (fld b 7 5) (fld b 3 0)).2.1 ≠ stack then s
    else match seen with
      | .correctable => tag (s.scrubCount stack 1 slot (64 * line))
      | .uncorrectable => poison (s.scrubCount stack 2 slot (64 * line))
      | .clean => tag s)

end Sys2Proof.Machine
end

