-- ==== Sys2Proof/Machine/Engine.lean ====
section
/-! DEFINITION. What the engines share: tokens at issue and at completion (R143, R144, R214, R277), readiness, element
reads and writes (R127, R128, R146, R152), the translation of a unit before it is performed (R147), early-read marks
(R279). -/

namespace Sys2Proof.Machine

/-! Places of elements. -/

/-- Where an element of a pattern lies: whole bytes (`nib` 2) or one nibble, its sign, and a forced zero (R127). -/
structure EPlace where
  loc  : Loc := .sp 0 0
  n    : Nat := 1
  nib  : Nat := 2
  neg  : Bool := false
  zero : Bool := false
  /-- flat address or tensor offset, as Draw of R150 reads it -/
  x    : Nat := 0
  deriving DecidableEq, Repr

/-- The place of a flat address of a space, seen from a core. -/
def flatLoc (c as_ x : Nat) : Loc :=
  match as_ with
  | 0 => .sp c x
  | 2 => .sp (clCore c x) (x % 2 ^ 21)
  | _ => .gl x

/-- Element `e` of a pattern of an engine of core `c`; the window was checked at issue. -/
def elemPlace (c q : Nat) (d : Option Nat) (e : Nat) : EPlace :=
  match d with
  | none =>
    match patByte q e with
    | some (x, nib) => { loc := flatLoc c (qAs q) x, n := qSize q, nib := if qEs q = 0 then nib else 2, x := x }
    | none => { zero := true }
  | some d =>
    match patTensor d q e with
    | none => { zero := true }
    | some cs =>
      let (o, neg, z) := canon d cs
      let (a, nib) := dAddr d o
      if z then { zero := true, n := cdiv (dTy d).bits 8 }
      else { loc := .gl a, n := cdiv (dTy d).bits 8, nib := if (dTy d).bits = 4 then nib else 2, neg := neg, x := o }

/-- The scratchpad range that an element of a byte-form pattern lies in. -/
def elemBytes (c q e : Nat) : List (Nat × Nat) :=
  let p := elemPlace c q none e
  match p.loc with
  | .sp _ o => [(o, p.n)]
  | .gl _ => []

/-- The engine's reads of scratchpad correct, and count, the single-bit errors that they meet (R160). -/
def State.correctAll (s : State) (c : Nat) (l : List (Nat × Nat)) : State :=
  if (s.core c).soft = [] then s else l.foldl (fun s r => s.correct c r.1 r.2) s

/-- The value an element's bytes hold. -/
def EPlace.val (p : EPlace) (bs : List Byte) : Nat :=
  let v := bytesNat bs
  if p.nib = 2 then v else v / 16 ^ p.nib % 16

/-- Applies the sign of a tensor element (R127). -/
def EPlace.signed (p : EPlace) (d : Option Nat) (v : Nat) : Nat :=
  match d with
  | some d => if p.neg then applySign (dTy d) v else v
  | none => v

/-- Reads the bytes of a place; a forced zero is read without an access. -/
def State.placeRead (s : State) (w : Who) (p : EPlace) : Got :=
  if p.zero then .ok s (List.replicate p.n 0) false []
  else match p.loc with
    | .sp c o => .ok (s.correct c o p.n) ((s.core c).spBytes o p.n) ((s.core c).spPoison o p.n) []
    | .gl va => s.glRead w va p.n 0

/-! Writes of a unit, merged byte by byte. -/

/-- Bytes to write: a place as one number to value, the bits written, poison. -/
abbrev Patch := Tbl (Nat × Nat × Bool)

/-- Adds an element's value; a later element wins (R146). -/
def Patch.put (t : Patch) (p : EPlace) (v : Nat) (bad : Bool) : Patch :=
  if p.zero then t
  else if p.nib = 2 then
    (List.range p.n).foldl (fun t i => tins t (locKey p.loc + i) (v / 256 ^ i % 256, 255, bad)) t
  else
    let k := locKey p.loc
    let o := tget (0, 0, false) t k
    let m := 15 * 16 ^ p.nib
    tins t k ((o.1 &&& (255 - m)) ||| (v % 16 * 16 ^ p.nib), o.2.1 ||| m, o.2.2 || bad)

/-- A patch without the bits that later places write (R128, R146). -/
def Patch.without (t : Patch) (later : List EPlace) : Patch :=
  t.filterMap (fun e =>
    let hit := later.foldl (fun m p =>
      if p.zero then m
      else
        let k := locKey p.loc
        if p.nib = 2 then (if k ≤ e.1 ∧ e.1 < k + p.n then 255 else m) else (if e.1 = k then m ||| 15 * 16 ^ p.nib else m)) 0
    let mask := e.2.2.1 &&& (255 ^^^ hit)
    if mask = 0 then none else some (e.1, (e.2.1, mask, e.2.2.2)))

/-- Dimensions of a pattern by the size of their stride. -/
def insertDim (x : Nat × Nat) : List (Nat × Nat) → List (Nat × Nat)
  | [] => [x]
  | y :: l => if x.1 ≤ y.1 then x :: y :: l else y :: insertDim x l

/-- Whether no two elements of a pattern can share a byte: each dimension steps over all that the smaller ones cover, and a tensor has
no symmetry. -/
def unshared (q : Nat) (d : Option Nat) : Bool :=
  let unit := match d with
    | some _ => 1
    | none => qSize q
  let dims := ((List.range (qNdim q)).filter (fun i => 1 < qExt q i)).map (fun i => ((qStr q i).natAbs, qExt q i))
  let r := (dims.foldr insertDim []).foldl (fun (a : Bool × Nat) x => (a.1 && decide (a.2 ≤ x.1), a.2 + x.1 * (x.2 - 1))) (true, unit)
  r.1 && d.all (fun d => (dUnits d).all (fun u => u.cls == 0))

/-- The runs of consecutive bytes of a patch. -/
def Patch.runs (t : Patch) : List (Nat × List (Nat × Nat × Bool)) :=
  t.foldr (fun e rs => match rs with
    | (k, cs) :: r => if e.1 + 1 = k then (e.1, e.2 :: cs) :: r else (e.1, [e.2]) :: (k, cs) :: r
    | [] => [(e.1, [e.2])]) []

/-- What writing gives: the state, the first refusal, the lines touched. -/
abbrev Wrote := State × Option Cause × List Touch

/-- The check of MIXCHECK over a run of an engine write (R316), 16-byte piece by piece. -/
def State.mixRun (s : State) (on : Bool) (p agent k n : Nat) : State × Bool :=
  match keyLoc k with
  | .sp .. => (s, false)
  | .gl va =>
    if !(on || s.mixing) then (s, false)
    else (cut16 va n).foldl (fun (a : State × Bool) om =>
      let (s, bad) := a.1.mix on p agent (.gl (va + om.1)) om.2
      (s, a.2 || bad)) (s, false)

/-- Writes one run at its place; its pages have been probed. -/
def State.writeRun (s : State) (w : Who) (k : Nat) (cs : List (Nat × Nat × Bool)) : Wrote :=
  match keyLoc k with
  | .sp c o => (s.modCore c (fun k => k.spPut o cs), none, [])
  | .gl va =>
    let whole := cs.all (fun c => c.2.1 == 255)
    let (s, old, oldBad) : State × List Byte × Bool :=
      if whole then (s, [], false)
      else match s.glRead w va cs.length 0 with
        | .ok s bs bad _ => (s, bs, bad)
        | .fault s .. => (s, [], false)
        | .cause s .. => (s, [], false)
        | .wait s _ => (s, [], false)
    let bs := (List.range cs.length).map (fun i =>
      let c := lget (0, 0, false) cs i
      BitVec.ofNat 8 (((lget 0 old i).toNat &&& (255 ^^^ c.2.1)) ||| (c.1 &&& c.2.1)))
    match s.glWrite w va 0 bs with
    | .ok s _ _ ts =>
      let s := (List.range cs.length).foldl (fun s i =>
        let c := lget (0, 0, false) cs i
        if c.2.2 ∨ (c.2.1 ≠ 255 ∧ oldBad) then s.glPoison w (va + i) 1 else s) s
      (s, none, ts)
    | .cause s c _ => (s, some c, [])
    | .fault s .. => (s, none, [])
    | .wait s _ => (s, none, [])

/-- Writes a patch, or nothing of it where MIXCHECK refuses one of its pieces (R316, log 106). -/
def State.writePatch (s : State) (w : Who) (on : Bool) (agent : Nat) (t : Patch) : Wrote :=
  let (s, mixed) := t.runs.foldl (fun (a : State × Bool) r =>
    let (s, bad) := a.1.mixRun on w.part agent r.1 r.2.length
    (s, a.2 || bad)) (s, false)
  if mixed then (s, some .mixedSize, [])
  else t.runs.foldl (fun (a : Wrote) r =>
    let (s, c, ts) := a.1.writeRun w r.1 r.2
    (s, a.2.1.or c, a.2.2 ++ ts)) (s, none, [])

/-- The bytes of a patch up to the start of an aligned 16-byte piece (R304): at most `n` of them. -/
def Patch.cut (t : Patch) (n : Nat) : Nat :=
  (List.range (t.length + 1)).foldl (fun m j =>
    if j ≤ n ∧ (j = t.length ∨ (lget (0, 0, 0, false) t j).1 / 16 ≠ (lget (0, 0, 0, false) t (j - 1)).1 / 16) then j else m) 0

/-! Units: translated before any of their elements is written (R147). -/

/-- Whether a unit may be performed. -/
inductive Probe where
  | ok (s : State)
  | park (s : State) (key : Option Nat)
  | cause (s : State) (c : Cause)
  deriving DecidableEq, Repr

/-- Global pages of places, each once: first address, length there, use and handle. -/
def pagesOf (ps : List (EPlace × Use × Nat)) : List (Nat × Nat × Use × Nat) :=
  ps.foldl (fun l p =>
    if p.1.zero then l
    else match p.1.loc with
      | .sp .. => l
      | .gl va =>
        let e := va + p.1.n - 1
        let add (l : List (Nat × Nat × Use × Nat)) (a n : Nat) : List (Nat × Nat × Use × Nat) :=
          if l.any (fun o => o.1 / 65536 == a / 65536 && o.2.2.1 == p.2.1) then l else l ++ [(a, n, p.2.1, p.2.2)]
        if va / 65536 = e / 65536 then add l va p.1.n
        else add (add l va (65536 - va % 65536)) (e / 65536 * 65536) (e % 65536 + 1)) []

/-- Translates every page of a unit; the first that cannot be used decides. -/
def State.probeAll (s : State) (w : Who) (rec_ : FaultRec) (ps : List (EPlace × Use × Nat)) : Probe :=
  (pagesOf ps).foldl (fun a p =>
    match a with
    | .ok s =>
      (match s.glProbe w p.1 p.2.1 p.2.2.1 with
       | .ok s .. => .ok s
       | .cause s c _ => .cause s c
       | g =>
         let (s, k) := park w.part { rec_ with rwx := p.2.2.1.rwx, handle := p.2.2.2 } g
         .park s k)
    | a => a) (.ok s)

/-! Commands. -/

/-- Who an engine of a core is for a command of it. -/
def State.engWho (s : State) (c : Nat) (m : Cmd) (agent : Nat) : Who :=
  { part := m.part, slot := m.part, core := c, ctx := m.ctx, agent := agent, node := s.node }

/-- A fault record's fixed part for an access of an engine (R103). -/
def Cmd.recOf (m : Cmd) (c agent cursor : Nat) : FaultRec :=
  { va := 0, kind := 0, rwx := 1, level := 0, agent := agent, core := c, strand := 0, gidx := m.gang, cls := m.cls, sc := m.sc,
    pc := 0, handle := 0, cursor := cursor, time := 0 }

/-- The number of an engine as an agent (R305): 4 Shunter, 5 Kiln, 6 channel engine. -/
def engineAgent (c e : Nat) : Nat := c * 8 + e

/-- The numbers of the agents outside the cores (R305): a Pugmill by its stack, a switch, a host function, another package. -/
def pugAgent (k : Nat) : Nat := 2 ^ 20 + k
def switchAgent (k : Nat) : Nat := 2 ^ 21 + k
def hostAgent (f : Nat) : Nat := 2 ^ 22 + f
def remoteAgent (n : Nat) : Nat := 2 ^ 23 + n

/-- Whether the strand of a command was started under MIXCHECK (R316). -/
def State.mixOn (s : State) (c : Nat) (m : Cmd) : Bool := (s.strand c m.ctx).dbg.mixchk

/-- Reads an element for an engine, under MIXCHECK where the strand's policy has it (R316). -/
def State.engRead (s : State) (c : Nat) (m : Cmd) (w : Who) (agent : Nat) (p : EPlace) : Got :=
  if p.zero then s.placeRead w p
  else
    let (s, mixed) := s.mix (s.mixOn c m) m.part agent p.loc p.n
    if mixed then .cause s .mixedSize 0 else s.placeRead w p

/-- The same command. -/
def Cmd.key (m : Cmd) : Sender := (m.lid, m.gang, m.sid, m.seq)
def Cmd.same (a b : Cmd) : Bool := a.part == b.part && a.key == b.key

/-- Changes every command of a core. -/
def Core.mapCmds (k : Core) (f : Cmd → Cmd) : Core :=
  let g := List.map f
  { k with copies := g k.copies, trigs := g k.trigs, kiln := g k.kiln, gath := g k.gath, chans := g k.chans }

/-- Changes a command wherever it stands. -/
def Core.modCmd (k : Core) (m : Cmd) (f : Cmd → Cmd) : Core := k.mapCmds (fun a => if a.same m then f a else a)
def State.putCmd (s : State) (c : Nat) (m : Cmd) : State := s.modCore c (fun k => k.modCmd m (fun _ => m))

/-- Every command of a core. -/
def Core.cmds (k : Core) : List Cmd := k.copies ++ k.trigs ++ k.kiln ++ k.gath ++ k.chans

/-- The accesses a command must follow have been performed (R308); without `gated`, those at the region's gate aside. -/
def State.afterDone (s : State) (c : Nat) (m : Cmd) (gated : Bool := true) : Bool :=
  let t := s.strand c m.ctx
  m.after.all (fun n => !t.stores.any (fun r => r.pos == n && (gated || r.depth == 0)) && !t.flying.any (fun r => r.load.isSome && !r.arrived && r.seq == n))

/-- TGEMM updates its tile in an open region, where only its outputs wait (R240). -/
def CmdKind.isTgemm : CmdKind → Bool
  | .tgemm .. => true
  | _ => false

/-- A command may start (R143, R144): its tokens are satisfied and nothing holds it. -/
def State.cmdReady (s : State) (c : Nat) (m : Cmd) : Bool :=
  m.phase == .queued && !m.failed && (!m.held || m.kind.isTgemm) && m.waits == [] && m.parked.isNone &&
    s.afterDone c m (!m.kind.isTgemm) && !s.overtaken c none

/-- The command of a queue in order that completes next: one that a consumed token fails, wherever it stands (R144), or the head once it
has ended. -/
def dueCmd (q : List Cmd) : Option Cmd :=
  (q.find? (fun m => m.phase == .queued && m.failed)).or (q.head?.filter (fun m => m.phase == .ended && m.left == []))

/-- What a completed token means to the strand's other commands that wait for it (R144). -/
def Cmd.hear (m : Cmd) (ctx k : Nat) (err : Bool) : Cmd :=
  if m.ctx = ctx ∧ m.waits.contains k then { m with waits := m.waits.filter (· != k), failed := m.failed || err } else m

/-- A command leaves its queue and its token completes (R144, R214, R277). -/
def State.completeCmd (s : State) (c : Nat) (m : Cmd) (err : Option Cause) : State :=
  let s := s.modCore c (fun k => k.cancel (fun a => a.same m))
  let t := s.strand c m.ctx
  if m.kp = 0 ∨ t.tok m.kp ≠ .armed ∨ tget 0 t.kseq m.kp ≠ m.seq then s
  else
    let s := s.setStrand c m.ctx (t.setTok m.kp (match err with | none => .done | some e => .error e))
    let f := List.map (fun (a : Cmd) => a.hear m.ctx m.kp err.isSome)
    s.modCore c (fun k => { k with copies := f k.copies, trigs := f k.trigs, kiln := f k.kiln, gath := f k.gath, chans := f k.chans })

/-- Records the first error of a command (R152). -/
def Cmd.note (m : Cmd) (e : Option Cause) : Cmd :=
  match m.err, e with
  | none, some c => { m with err := some c, errAt := m.cursor }
  | _, _ => m

/-- What an engine's unit writes now and what it leaves for its next event (R304): all of it inside a region. -/
def Cmd.firstPart (m : Cmd) (t : Patch) (cut : Option Nat) : Patch × Patch :=
  if m.depth ≠ 0 then (t, []) else let n := t.cut (cut.getD t.length); (t.take n, t.drop n)

/-- The ranges that a patch writes in full and without poison. -/
def Patch.good (t : Patch) : List (Loc × Nat) :=
  Patch.runs (t.filter (fun e => e.2.2.1 == 255 && !e.2.2.2)) |>.map (fun r => (keyLoc r.1, r.2.length))

/-- Clears the poison of the units of `us` in which nothing of a write is left to be done (R96, R160). -/
def State.cleanDone (s : State) (w : Who) (us : List Nat) (rest : Patch) : State :=
  if us = [] then s
  else
    let rs := s.spots w (rest.runs.map (fun r => (keyLoc r.1, r.2.length)))
    s.unpoison (us.filter (fun u => !rs.any (fun r => decide (unitOf r.1 ≤ u) && decide (u ≤ unitOf (r.1 + r.2.1 - 1)))))

/-- Writes a first part of a unit's bytes, and notes in the command what is left of them: the lines and rows that they cover in full are
clean with their last byte (R96, R304). -/
def State.startWrite (s : State) (c : Nat) (m : Cmd) (w : Who) (agent : Nat) (now rest : Patch) : State × Cmd × Option Cause × List Touch :=
  let clean := if rest = [] then [] else s.toClean w (Patch.good (now ++ rest))
  let (s, e, ts) := s.writePatch { w with cover := clean } (s.mixOn c m) agent now
  (s.cleanDone w clean rest, { m with left := rest, clean := clean }, e, ts)

/-- Writes what is left of a unit (R147), or a first part of it: its pages have been translated, and none of it is dropped. The command as it
goes on after its last byte, none where it waits or stays within the unit. -/
def State.writeLeft (s : State) (c : Nat) (m : Cmd) (w : Who) (agent : Nat) (cut : Option Nat := none) : State × Option Cmd × List Touch :=
  match s.probeAll w (m.recOf c w.agent m.cursor) (m.left.map (fun e => (({ loc := keyLoc e.1 } : EPlace), Use.w, 0))) with
  | .park s k => (s.putCmd c { m with parked := k }, none, [])
  | .cause s k => (s, some { m.note (some k) with left := [], leftT := [], clean := [] }, m.leftT)
  | .ok s =>
    let (now, rest) := m.firstPart m.left cut
    let (s, e, ts) := s.writePatch { w with cover := m.clean } (s.mixOn c m) agent now
    let s := s.cleanDone w m.clean rest
    if rest = [] then (s, some { m.note e with left := [], leftT := [], clean := [] }, m.leftT ++ ts)
    else (s.putCmd c { m.note e with left := rest, leftT := m.leftT ++ ts }, none, [])

/-- Replaces a frame's pending keep by what it kept (R325), and goes on with a rollback that waits for it (R330). -/
def State.kept (s : State) (c x id : Nat) (es : List KeepEntry) : State :=
  let sub (f : Frame) : Frame := { f with keeps := f.keeps.flatMap (fun e => if e = .pending id then es else [e]) }
  let s := s.modStrand c x (fun t => { t with frames := t.frames.map sub })
  if (s.strand c x).rolling.isSome then s.rollEnd c x else s

/-! Issue. -/

def eConsumed (e : EAttr) : List Nat := [e.ka.toNat, e.kb.toNat, e.kc.toNat].filter (· != 0)

/-- TOKEN_REUSE (R144). -/
def State.reused (s : State) (e : EAttr) : Bool := e.kp != 0 && s.me.tok e.kp.toNat == .armed

/-- A command of an E-slot instruction, without its patterns. -/
def eCmd (s : State) (kind : CmdKind) (e : EAttr) : Cmd := newCmd s kind e.kp.toNat e.cls.toNat e.sc

/-- Whether the strand's work is inside an open region (R156, R240). -/
def Strand.inRegion (t : Strand) : Bool := t.frames != [] && t.handler.isNone

/-- A command enters a queue: tokens, and the early-read marks of its destination (R144, R279). -/
def State.enqueue (s : State) (m : Cmd) (e : EAttr) (dests : List Nat) (push : Cmd → Core → Core) : State :=
  let t := s.me
  let (m, t') := m.tokens t (eConsumed e)
  let marks := if t.dbg.early then (dests.flatMap (spLines s.cur)).map (fun l => (l.1 * 16384 + l.2, s.ctx, m.kp, m.seq)) else []
  let s := s.setMe t'
  s.modCore s.cur (fun k => push m { k with marks := k.marks ++ marks })

/-- ACCESS of a pattern of an engine command: its window (R123), its space and the protected ranges (R161, R145). -/
def State.patAccess (s : State) (q : Nat) (d : Option Nat) : Option Exc :=
  let bad (a : Nat) : Option Exc := some { cause := .access, aux := a, slot := 5 }
  match d with
  | some d =>
    if patLeast q < 0 ∨ (qLim q : Int) ≤ patGreatest q ∨ (dSize d : Int) ≤ (qBase q : Int) + patGreatest q then bad (dBase d)
    else none
  | none =>
    if patLeast q < 0 ∨ (if qEs q = 0 then (qLim q : Int) < patGreatest q / 2 + 1 else (qLim q : Int) < patGreatest q + (qSize q : Int)) then
      bad (qBase q)
    else
      let (a, n) := patRange q
      match s.space 5 (qAs q) a n with
      | .error e => some e
      | .ok (.sp c o) => if (s.core c).guarded o n then bad a else none
      | .ok (.gl _) => if canonical ((a + n - 1) % 2 ^ 64) then none else bad a

/-- A pattern's descriptor in the Shunter's store (1) or the Kiln's (2), if it is in tensor form (R114). -/
def State.patDesc (s : State) (unit q : Nat) : Except Exc (Option Nat) :=
  if qKind q ≠ 2 then .ok none
  else match s.needDesc 5 unit (qHandle q) with
    | .ok d => .ok (some d)
    | .error e => .error e

/-- The gate of an engine command: a full queue blocks (R143), a missing descriptor freezes (R114). -/
def engineGate (unit : Nat) (full : State → Bool) (qs : List QReg) (s : State) : Gate :=
  if full s then .block
  else
    let gs := qs.map (fun q => let i := (s.me.qreg q).toNat; if qKind i = 2 then descGate unit (qHandle i) s else .go)
    match gs.find? (fun g => g != .go) with
    | some g => g
    | none => .go

end Sys2Proof.Machine
end

