-- ==== Sys2Proof/Machine/Vector.lean ====
section
/-! DEFINITION. The V slots (R184 to R206): every lane result is computed exactly and rounded once where it rounds. -/

namespace Sys2Proof.Machine

/-- The slot number of a V-slot operation. -/
def VUnit.num (u : VUnit) : Nat := u.slot.num

/-- The rounding of lane `e` in the bundle: under SR it draws with the RCTR that R80 assigns (source 1 of R79). -/
def Strand.rc (t : Strand) (mode e : Nat) : Rc :=
  rcOf t.ctl.fmt mode (if mode = 5 then draw (rand t.ctl.rseed (2 ^ 28) (t.ctl.rctr + BitVec.ofNat 64 t.drawn) e 0) else 0)

/-- A V-slot operation: it advances RCTR if it draws (R80). -/
def vop (u : VUnit) (n : Nat) (draws : Strand → Bool) (run : State → State) : SlotOp :=
  op (VUnit.num u) n (fun s =>
    let d := draws s.me
    let s := run s
    ok (if d then s.modMe (fun t => { t with drawn := t.drawn + 1 }) else s))

def never (_ : Strand) : Bool := false
def drawsOf (rnd : Rnd) (t : Strand) : Bool := rndMode rnd t.ctl.fmt == 5

/-- A result of a V slot: the active lanes of `d` (R185). -/
def State.lanes (s : State) (u : VUnit) (lat : Nat) (d : VReg) (m : MReg) (ty : Ty) (f : Strand → Nat → Nat) : State :=
  let t := s.me
  s.fixed (VUnit.num u) lat [wLanes d ty.bits ty.lanes (maskBit (t.mreg m) ty.bits) (f t)]

/-- Lane `e` of a register as an exact value, under FTZ where it applies (R75, R186). -/
def Strand.fl (t : Strand) (ty : Ty) (r : VReg) (e : Nat) : Num := decodeF (fmtFtz t.ctl.fmt) ty (laneOf (t.vreg r) ty.bits e)

/-- Lane `e` of a register as an integer of its type. -/
def Strand.il (t : Strand) (ty : Ty) (r : VReg) (e : Nat) : Int := decodeI ty (laneOf (t.vreg r) ty.bits e)

/-- A rounding float operation. -/
def fop (u : VUnit) (lat : Nat) (ty : Ty) (rnd : Rnd) (d : VReg) (m : MReg) (f : Strand → Bool → Nat → Num) : SlotOp :=
  vop u 1 (drawsOf rnd) (fun s => s.lanes u lat d m ty (fun t e =>
    let mode := rndMode rnd t.ctl.fmt
    roundTo (t.rc mode e) ty (f t (mode == 4) e)))

/-- A float operation that does not round (R188): the value is one of the format's. -/
def fsel (u : VUnit) (ty : Ty) (d : VReg) (m : MReg) (f : Strand → Nat → Num) : SlotOp :=
  vop u 1 never (fun s => s.lanes u 4 d m ty (fun t e => roundTo {} ty (f t e)))

/-- Lesser and greater (R188): any NaN gives NaN, -0 is below +0. -/
def minN (a b : Num) : Num := if isNan a || isNan b then .nan else if below b a then b else a
def maxN (a b : Num) : Num := if isNan a || isNan b then .nan else if below a b then b else a

/-! The functions of R189, each rounded correctly. -/

/-- m with its factors of two moved to the exponent: (odd part, exponent). -/
def oddPart : Nat → Nat → Int → Nat × Int
  | 0, m, e => (m, e)
  | n + 1, m, e => if m % 2 = 0 ∧ m ≠ 0 then oddPart n (m / 2) (e + 1) else (m, e)

def rcpOut (rc : Rc) (ty : Ty) (v : Num) : Nat :=
  match v with
  | .nan => nanOut ty
  | .inf neg => roundTo rc ty (.fin neg 0 0)
  | .fin neg 0 _ => infOut ty neg
  | .fin neg m e =>
    let (m, e) := oddPart 64 m e
    if m = 1 then roundTo rc ty (.fin neg 1 (-e))
    else roundReal rc ty neg (-(m.log2 : Int) - 1 - e) (fun k =>
      if 0 ≤ k - e then (2 ^ (k - e).toNat / m, true) else (0, true))

def rsqOut (rc : Rc) (ty : Ty) (v : Num) : Nat :=
  match v with
  | .nan => nanOut ty
  | .inf neg => if neg then nanOut ty else roundTo rc ty (.fin false 0 0)
  | .fin neg 0 _ => infOut ty neg
  | .fin true _ _ => nanOut ty
  | .fin false m e =>
    let (m, e) := oddPart 64 m e
    if m = 1 ∧ e % 2 = 0 then roundTo rc ty (.fin false 1 (-(e / 2)))
    else roundEncl rc ty (rsqE m e)

def exp2Out (rc : Rc) (ty : Ty) (v : Num) : Nat :=
  match v with
  | .nan => nanOut ty
  | .inf neg => if neg then roundTo rc ty (.fin false 0 0) else infOut ty false
  | .fin neg m e =>
    let (m, e) := oddPart 64 m e
    if m = 0 then roundTo rc ty (.fin false 1 0)
    else if 15 ≤ (m.log2 : Int) + e then roundTo rc ty (if neg then .fin false 3 (-20000) else .fin false 3 20000)
    else if 0 ≤ e then
      let n : Int := (m * 2 ^ e.toNat : Nat)
      roundTo rc ty (.fin false 1 (if neg then -n else n))
    else if (m.log2 : Int) + e < -200 then
      -- 2^x for a tiny x: just above or just below 1
      (if neg then roundTo rc ty (.fin false (2 ^ 200 - 1) (-200)) else roundTo rc ty (.fin false (2 ^ 200 + 1) (-200)))
    else roundEncl rc ty (exp2D neg m e)

def log2Out (rc : Rc) (ty : Ty) (v : Num) : Nat :=
  match v with
  | .nan => nanOut ty
  | .inf neg => if neg then nanOut ty else infOut ty false
  | .fin _ 0 _ => infOut ty true
  | .fin true _ _ => nanOut ty
  | .fin false m e =>
    let (m, e) := oddPart 64 m e
    if m = 1 then roundTo rc ty (ofInt e) else roundEncl rc ty (log2E m e)

/-- An operation of R189. -/
def funop (u : VUnit) (ty : Ty) (rnd : Rnd) (d a : VReg) (m : MReg) (f : Rc → Ty → Num → Nat) : SlotOp :=
  vop u 1 (drawsOf rnd) (fun s => s.lanes u 12 d m ty (fun t e => f (t.rc (rndMode rnd t.ctl.fmt) e) ty (t.fl ty a e)))

/-! Comparisons (R190). -/

/-- A landing write to a mask: the outcome in every bit of each active lane. -/
def State.maskLanes (s : State) (u : VUnit) (lat : Nat) (d m : MReg) (ty : Ty) (f : Strand → Nat → Bool) : State :=
  let t := s.me
  let eb := ty.bits / 8
  let val := lanesBuild eb ty.lanes (fun e => if f t e then 2 ^ eb - 1 else 0)
  let msk := lanesMask eb ty.lanes (maskBit (t.mreg m) ty.bits)
  s.fixed (VUnit.num u) lat [.m d.toNat (BitVec.ofNat 256 (val &&& msk)) (BitVec.ofNat 256 msk)]

/-! Integer and bit operations. -/

def iop (u : VUnit) (lat : Nat) (ty : Ty) (d : VReg) (m : MReg) (f : Strand → Nat → Int) : SlotOp :=
  vop u 1 never (fun s => s.lanes u lat d m ty (fun t e => wrap ty.bits (f t e)))

def bop (u : VUnit) (lat : Nat) (ty : Ty) (d : VReg) (m : MReg) (f : Strand → Nat → Nat) : SlotOp :=
  vop u 1 never (fun s => s.lanes u lat d m ty f)

/-- The count of a vector shift (R196). -/
def Strand.vcount (t : Strand) (ty : Ty) (n : VCount) (e : Nat) : Nat :=
  match n with
  | .reg b => laneOf (t.vreg b) ty.bits e
  | .imm n => n.toNat

/-- VSAR of a lane (R196). -/
def sarLane (w v n : Nat) : Nat := wrap w (Int.fdiv (sext w v) (2 ^ min n w))

/-! Conversion (R191, R192). -/

/-- The source lane that feeds destination lane `l`, if one does. -/
def cvtSource (tyd tys : Ty) (p l : Nat) : Option Nat :=
  if tys.lanes ≤ tyd.lanes then
    (if p * tys.lanes ≤ l ∧ l < p * tys.lanes + tys.lanes then some (l - p * tys.lanes) else none)
  else some (p * tyd.lanes + l)

/-- A CVT draws where it rounds (R80, R191). -/
def cvtDraws (tyd tys : Ty) (rnd : Rnd) (t : Strand) : Bool := !(tyd.isInt && tys.isInt) && drawsOf rnd t

/-- The value of a converted lane. -/
def cvtVal (t : Strand) (tyd tys : Ty) (mode l code : Nat) : Nat :=
  if tyd.isInt && tys.isInt then wrap tyd.bits (satI (decodeI tys code) tyd)
  else roundTo (t.rc mode l) tyd (decodeNum (fmtFtz t.ctl.fmt) tys code)

/-- A CVT's write of destination lanes. -/
def cvtWrite (t : Strand) (tyd tys : Ty) (p : Nat) (d : VReg) (m : MReg) (f : Nat → Nat → Nat) : RegWrite :=
  wLanes d tyd.bits tyd.lanes (fun l => (cvtSource tyd tys p l).isSome && maskBit (t.mreg m) tyd.bits l)
    (fun l => match cvtSource tyd tys p l with
      | some e => f l e
      | none => 0)

/-- The widths a scale or header takes in its register, in bits (R192). -/
def scaleBits (ty : Ty) : Nat := if ty = .e2m1 then 16 else 8

/-! Reductions and scans (R200). -/

/-- One level of ScanTree over present or absent lanes. -/
def scanLevel {α : Type} (node : α → α → Nat → Nat → α) (l : Nat) (x : List (Option α)) : List (Option α) :=
  let h := 2 ^ (l - 1)
  (List.range x.length).map (fun e =>
    let cur := lget none x e
    if h ≤ e then
      match lget none x (e - h), cur with
      | some u, some v => some (node u v l e)
      | some u, none => some u
      | none, c => c
    else cur)

/-- ScanTree (R200). -/
def scanTree {α : Type} (node : α → α → Nat → Nat → α) (x : List (Option α)) : List (Option α) :=
  (List.range x.length.log2).foldl (fun x l => scanLevel node (l + 1) x) x

/-- Identity of a reduction, as a code (R200). -/
def redIdentity (o : RedOp) (ty : Ty) : Nat :=
  match o with
  | .min => if ty.isFloat then infCode ty false else wrap ty.bits (maxInt ty)
  | .max => if ty.isFloat then infCode ty true else wrap ty.bits (minInt ty)
  | .and => 2 ^ ty.bits - 1
  | _ => 0

/-- A float or bit node. -/
def nodeCode (t : Strand) (o : RedOp) (ty : Ty) (mode : Nat) (u v l e : Nat) : Nat :=
  match o with
  | .and => u &&& v
  | .or => u ||| v
  | .xor => u ^^^ v
  | .min => roundTo {} ty (minN (decodeF false ty u) (decodeF false ty v))
  | .max => roundTo {} ty (maxN (decodeF false ty u) (decodeF false ty v))
  | _ => roundTo (t.rc mode (l * 256 + e)) ty (addN (mode == 4) (decodeF false ty u) (decodeF false ty v))

def nodeInt (o : RedOp) (u v : Int) : Int :=
  match o with
  | .min => min u v
  | .max => max u v
  | _ => u + v

/-- The prefixes of a scan as codes; none where no lane is present. -/
def scanCodes (t : Strand) (o : RedOp) (ty : Ty) (mode : Nat) (a : VReg) (m : MReg) : List (Option Nat) :=
  let lanes := List.range ty.lanes
  let on (e : Nat) : Bool := maskBit (t.mreg m) ty.bits e
  if ty.isI6 then
    (scanTree (fun u v _ _ => nodeInt o u v) (lanes.map (fun e => if on e then some (t.il ty a e) else none))).map
      (·.map (fun v => wrap ty.bits (if o = .adds then satI v ty else v)))
  else
    scanTree (nodeCode t o ty mode) (lanes.map (fun e =>
      if on e then some (if ty.isFloat then roundTo {} ty (t.fl ty a e) else laneOf (t.vreg a) ty.bits e) else none))

def redDraws (o : RedOp) (ty : Ty) (rnd : Rnd) (t : Strand) : Bool := o.rounds ty && drawsOf rnd t

/-- The half-row of ACC.RD and ACC.WR (R205): row in bits 6:0, half in bit 7. -/
def Strand.halfRow (t : Strand) : HalfRow → Nat
  | .imm r h => r.toNat + 128 * h.toNat
  | .reg b => (t.sreg b).toNat % 256

/-- A half-row of a tile as a register. -/
def Core.halfRow (k : Core) (y hr : Nat) : Nat :=
  lanesBuild 32 64 (fun e => (k.tile y (hr % 128) (64 * (hr / 128) + e)).toNat)

/-! Instructions. -/

/-- FADD (R188). -/
def opFadd (u : VUnit) (ty : Ty) (rnd : Rnd) (d a b : VReg) (m : MReg) : SlotOp :=
  fop u 4 ty rnd d m (fun t rd e => addN rd (t.fl ty a e) (t.fl ty b e))
def execFadd (u : VUnit) (ty : Ty) (rnd : Rnd) (d a b : VReg) (m : MReg) (s : State) : Host.Outcome State Fault Refusal := meaning (opFadd u ty rnd d a b m) s

/-- FSUB (R188). -/
def opFsub (u : VUnit) (ty : Ty) (rnd : Rnd) (d a b : VReg) (m : MReg) : SlotOp :=
  fop u 4 ty rnd d m (fun t rd e => addN rd (t.fl ty a e) (negN (t.fl ty b e)))
def execFsub (u : VUnit) (ty : Ty) (rnd : Rnd) (d a b : VReg) (m : MReg) (s : State) : Host.Outcome State Fault Refusal := meaning (opFsub u ty rnd d a b m) s

/-- FMUL (R188). -/
def opFmul (u : VUnit) (ty : Ty) (rnd : Rnd) (d a b : VReg) (m : MReg) : SlotOp :=
  fop u 4 ty rnd d m (fun t _ e => mulN (t.fl ty a e) (t.fl ty b e))
def execFmul (u : VUnit) (ty : Ty) (rnd : Rnd) (d a b : VReg) (m : MReg) (s : State) : Host.Outcome State Fault Refusal := meaning (opFmul u ty rnd d a b m) s

/-- FMA (R188): one rounding. -/
def opFma (u : VUnit) (ty : Ty) (rnd : Rnd) (d a b c : VReg) (m : MReg) : SlotOp :=
  fop u 4 ty rnd d m (fun t rd e => addN rd (mulN (t.fl ty a e) (t.fl ty b e)) (t.fl ty c e))
def execFma (u : VUnit) (ty : Ty) (rnd : Rnd) (d a b c : VReg) (m : MReg) (s : State) : Host.Outcome State Fault Refusal := meaning (opFma u ty rnd d a b c m) s

/-- FMIN (R188). -/
def opFmin (u : VUnit) (ty : Ty) (d a b : VReg) (m : MReg) : SlotOp :=
  fsel u ty d m (fun t e => minN (t.fl ty a e) (t.fl ty b e))
def execFmin (u : VUnit) (ty : Ty) (d a b : VReg) (m : MReg) (s : State) : Host.Outcome State Fault Refusal := meaning (opFmin u ty d a b m) s

/-- FMAX (R188). -/
def opFmax (u : VUnit) (ty : Ty) (d a b : VReg) (m : MReg) : SlotOp :=
  fsel u ty d m (fun t e => maxN (t.fl ty a e) (t.fl ty b e))
def execFmax (u : VUnit) (ty : Ty) (d a b : VReg) (m : MReg) (s : State) : Host.Outcome State Fault Refusal := meaning (opFmax u ty d a b m) s

/-- FABS (R188). -/
def opFabs (u : VUnit) (ty : Ty) (d a : VReg) (m : MReg) : SlotOp :=
  fsel u ty d m (fun t e => absN (t.fl ty a e))
def execFabs (u : VUnit) (ty : Ty) (d a : VReg) (m : MReg) (s : State) : Host.Outcome State Fault Refusal := meaning (opFabs u ty d a m) s

/-- FNEG (R188). -/
def opFneg (u : VUnit) (ty : Ty) (d a : VReg) (m : MReg) : SlotOp :=
  fsel u ty d m (fun t e => negN (t.fl ty a e))
def execFneg (u : VUnit) (ty : Ty) (d a : VReg) (m : MReg) (s : State) : Host.Outcome State Fault Refusal := meaning (opFneg u ty d a m) s

/-- FRCP (R189). -/
def opFrcp (u : VUnit) (ty : Ty) (rnd : Rnd) (d a : VReg) (m : MReg) : SlotOp :=
  funop u ty rnd d a m rcpOut
def execFrcp (u : VUnit) (ty : Ty) (rnd : Rnd) (d a : VReg) (m : MReg) (s : State) : Host.Outcome State Fault Refusal := meaning (opFrcp u ty rnd d a m) s

/-- FRSQ (R189). -/
def opFrsq (u : VUnit) (ty : Ty) (rnd : Rnd) (d a : VReg) (m : MReg) : SlotOp :=
  funop u ty rnd d a m rsqOut
def execFrsq (u : VUnit) (ty : Ty) (rnd : Rnd) (d a : VReg) (m : MReg) (s : State) : Host.Outcome State Fault Refusal := meaning (opFrsq u ty rnd d a m) s

/-- FEXP2 (R189). -/
def opFexp2 (u : VUnit) (ty : Ty) (rnd : Rnd) (d a : VReg) (m : MReg) : SlotOp :=
  funop u ty rnd d a m exp2Out
def execFexp2 (u : VUnit) (ty : Ty) (rnd : Rnd) (d a : VReg) (m : MReg) (s : State) : Host.Outcome State Fault Refusal := meaning (opFexp2 u ty rnd d a m) s

/-- FLOG2 (R189). -/
def opFlog2 (u : VUnit) (ty : Ty) (rnd : Rnd) (d a : VReg) (m : MReg) : SlotOp :=
  funop u ty rnd d a m log2Out
def execFlog2 (u : VUnit) (ty : Ty) (rnd : Rnd) (d a : VReg) (m : MReg) (s : State) : Host.Outcome State Fault Refusal := meaning (opFlog2 u ty rnd d a m) s

/-- FCMP (R190). -/
def opFcmp (u : VUnit) (cc : VCC) (ty : Ty) (d : MReg) (a b : VReg) (m : MReg) : SlotOp :=
  vop u 1 never (fun s => s.maskLanes u 4 d m ty (fun t e => fccHolds cc (t.fl ty a e) (t.fl ty b e)))
def execFcmp (u : VUnit) (cc : VCC) (ty : Ty) (d : MReg) (a b : VReg) (m : MReg) (s : State) : Host.Outcome State Fault Refusal := meaning (opFcmp u cc ty d a b m) s

/-- CVT (R191). -/
def opCvt (u : VUnit) (tyd tys : Ty) (rnd : Rnd) (d a : VReg) (m : MReg) (part : BitVec 4) : SlotOp :=
  vop u 1 (cvtDraws tyd tys rnd) (fun s =>
    let t := s.me
    s.fixed (VUnit.num u) 4 [cvtWrite t tyd tys part.toNat d m (fun l e =>
      cvtVal t tyd tys (rndMode rnd t.ctl.fmt) l (laneOf (t.vreg a) tys.bits e))])
def execCvt (u : VUnit) (tyd tys : Ty) (rnd : Rnd) (d a : VReg) (m : MReg) (part : BitVec 4) (s : State) : Host.Outcome State Fault Refusal := meaning (opCvt u tyd tys rnd d a m part) s

/-- The two results of CVT.q (R192): codes of the active lanes, and a scale or header for each block with an active lane. -/
def cvtQrun (u : VUnit) (tyd tys : Ty) (rnd : Rnd) (d c a : VReg) (m : MReg) (part : BitVec 4) (s : State) : State :=
  let t := s.me
  let mode := rndMode rnd t.ctl.fmt
  let p := part.toNat
  let fed (B : Nat) : Bool := (cvtSource tyd tys p (32 * B)).isSome
  let blocks := (List.range (tyd.lanes / 32)).map (fun B =>
    if fed B then quantBlock t.ctl.fmt tyd
      ((List.range 32).map (fun i => match cvtSource tyd tys p (32 * B + i) with
        | some e => t.fl tys a e
        | none => .fin false 0 0)) (fun i => t.rc mode (32 * B + i))
    else (0, []))
  let live (B : Nat) : Bool := fed B && (List.range 32).any (fun i => maskBit (t.mreg m) tyd.bits (32 * B + i))
  (s.fixed (VUnit.num u) 4 [cvtWrite t tyd tys p d m (fun l _ => lget 0 (lget (0, []) blocks (l / 32)).2 (l % 32))]).fixed (VUnit.num u) 4
    [wLanes c (scaleBits tyd) (tyd.lanes / 32) live (fun B => (lget (0, []) blocks B).1)]

/-- CVT.q (R192). -/
def opCvtQ (u : VUnit) (tyd tys : Ty) (rnd : Rnd) (d c a : VReg) (m : MReg) (part : BitVec 4) : SlotOp :=
  op (VUnit.num u) 2 (fun s =>
    if !(tyd.isNarrow && tys.isF3) then raise (VUnit.num u) .typeCombo
    else (vop u 2 (drawsOf rnd) (cvtQrun u tyd tys rnd d c a m part)).run s)
def execCvtQ (u : VUnit) (tyd tys : Ty) (rnd : Rnd) (d c a : VReg) (m : MReg) (part : BitVec 4) (s : State) : Host.Outcome State Fault Refusal := meaning (opCvtQ u tyd tys rnd d c a m part) s

/-- CVT.dq (R192). -/
def opCvtDq (u : VUnit) (tyd tys : Ty) (rnd : Rnd) (d a b : VReg) (m : MReg) (part : BitVec 4) : SlotOp :=
  op (VUnit.num u) 1 (fun s =>
    if !(tys.isNarrow && tyd.isF3) then raise (VUnit.num u) .typeCombo
    else (vop u 1 (drawsOf rnd) (fun s =>
      let t := s.me
      s.fixed (VUnit.num u) 4 [cvtWrite t tyd tys part.toNat d m (fun l e =>
        roundTo (t.rc (rndMode rnd t.ctl.fmt) l) tyd
          (decodeScaled (fmtFtz t.ctl.fmt) t.ctl.fmt tys (laneOf (t.vreg b) (scaleBits tys) (e / 32)) (laneOf (t.vreg a) tys.bits e)))])).run s)
def execCvtDq (u : VUnit) (tyd tys : Ty) (rnd : Rnd) (d a b : VReg) (m : MReg) (part : BitVec 4) (s : State) : Host.Outcome State Fault Refusal := meaning (opCvtDq u tyd tys rnd d a b m part) s

/-- IADD (R193). -/
def opIadd (u : VUnit) (ty : Ty) (d a b : VReg) (m : MReg) : SlotOp :=
  iop u 2 ty d m (fun t e => t.il ty a e + t.il ty b e)
def execIadd (u : VUnit) (ty : Ty) (d a b : VReg) (m : MReg) (s : State) : Host.Outcome State Fault Refusal := meaning (opIadd u ty d a b m) s

/-- ISUB (R193). -/
def opIsub (u : VUnit) (ty : Ty) (d a b : VReg) (m : MReg) : SlotOp :=
  iop u 2 ty d m (fun t e => t.il ty a e - t.il ty b e)
def execIsub (u : VUnit) (ty : Ty) (d a b : VReg) (m : MReg) (s : State) : Host.Outcome State Fault Refusal := meaning (opIsub u ty d a b m) s

/-- IMUL (R193). -/
def opImul (u : VUnit) (ty : Ty) (d a b : VReg) (m : MReg) : SlotOp :=
  iop u 4 ty d m (fun t e => t.il ty a e * t.il ty b e)
def execImul (u : VUnit) (ty : Ty) (d a b : VReg) (m : MReg) (s : State) : Host.Outcome State Fault Refusal := meaning (opImul u ty d a b m) s

/-- IADD.SAT (R193). -/
def opIaddSat (u : VUnit) (ty : Ty) (d a b : VReg) (m : MReg) : SlotOp :=
  iop u 2 ty d m (fun t e => satI (t.il ty a e + t.il ty b e) ty)
def execIaddSat (u : VUnit) (ty : Ty) (d a b : VReg) (m : MReg) (s : State) : Host.Outcome State Fault Refusal := meaning (opIaddSat u ty d a b m) s

/-- ISUB.SAT (R193). -/
def opIsubSat (u : VUnit) (ty : Ty) (d a b : VReg) (m : MReg) : SlotOp :=
  iop u 2 ty d m (fun t e => satI (t.il ty a e - t.il ty b e) ty)
def execIsubSat (u : VUnit) (ty : Ty) (d a b : VReg) (m : MReg) (s : State) : Host.Outcome State Fault Refusal := meaning (opIsubSat u ty d a b m) s

/-- IMAD (R193). -/
def opImad (u : VUnit) (ty : Ty) (d a b c : VReg) (m : MReg) : SlotOp :=
  iop u 4 ty d m (fun t e => t.il ty a e * t.il ty b e + t.il ty c e)
def execImad (u : VUnit) (ty : Ty) (d a b c : VReg) (m : MReg) (s : State) : Host.Outcome State Fault Refusal := meaning (opImad u ty d a b c m) s

/-- VMAC.I8 (R194): reads d at issue. -/
def opVmacI8 (u : VUnit) (tya tyb : Ty) (d a b : VReg) (m : MReg) (part : BitVec 2) : SlotOp :=
  iop u 4 .s32 d m (fun t e => t.il .s32 d e + t.il tya a (part.toNat * 64 + e) * t.il tyb b (part.toNat * 64 + e))
def execVmacI8 (u : VUnit) (tya tyb : Ty) (d a b : VReg) (m : MReg) (part : BitVec 2) (s : State) : Host.Outcome State Fault Refusal := meaning (opVmacI8 u tya tyb d a b m part) s

/-- VDOT4.I8 (R194): reads d at issue. -/
def opVdot4I8 (u : VUnit) (tya tyb : Ty) (d a b : VReg) (m : MReg) : SlotOp :=
  iop u 4 .s32 d m (fun t e => t.il .s32 d e +
    ((List.range 4).map (fun j => t.il tya a (4 * e + j) * t.il tyb b (4 * e + j))).sum)
def execVdot4I8 (u : VUnit) (tya tyb : Ty) (d a b : VReg) (m : MReg) (s : State) : Host.Outcome State Fault Refusal := meaning (opVdot4I8 u tya tyb d a b m) s

/-- VRSHR (R195). -/
def opVrshr (u : VUnit) (ty : Ty) (d a b : VReg) (m : MReg) (sh : BitVec 5) (part : BitVec 2) : SlotOp :=
  vop u 1 never (fun s =>
    let t := s.me
    let p := part.toNat
    s.fixed (VUnit.num u) 4 [wLanes d ty.bits ty.lanes (fun l => decide (p * 64 ≤ l) && decide (l < p * 64 + 64) && maskBit (t.mreg m) ty.bits l)
      (fun l => wrap ty.bits (requant (t.il .s32 a (l - p * 64)) sh.toNat (t.il .s32 b (l - p * 64)) ty))])
def execVrshr (u : VUnit) (ty : Ty) (d a b : VReg) (m : MReg) (sh : BitVec 5) (part : BitVec 2) (s : State) : Host.Outcome State Fault Refusal := meaning (opVrshr u ty d a b m sh part) s

/-- VAND (R196). -/
def opVand (u : VUnit) (ty : Ty) (d a b : VReg) (m : MReg) : SlotOp :=
  bop u 2 ty d m (fun t e => laneOf (t.vreg a) ty.bits e &&& laneOf (t.vreg b) ty.bits e)
def execVand (u : VUnit) (ty : Ty) (d a b : VReg) (m : MReg) (s : State) : Host.Outcome State Fault Refusal := meaning (opVand u ty d a b m) s

/-- VOR (R196). -/
def opVor (u : VUnit) (ty : Ty) (d a b : VReg) (m : MReg) : SlotOp :=
  bop u 2 ty d m (fun t e => laneOf (t.vreg a) ty.bits e ||| laneOf (t.vreg b) ty.bits e)
def execVor (u : VUnit) (ty : Ty) (d a b : VReg) (m : MReg) (s : State) : Host.Outcome State Fault Refusal := meaning (opVor u ty d a b m) s

/-- VXOR (R196). -/
def opVxor (u : VUnit) (ty : Ty) (d a b : VReg) (m : MReg) : SlotOp :=
  bop u 2 ty d m (fun t e => laneOf (t.vreg a) ty.bits e ^^^ laneOf (t.vreg b) ty.bits e)
def execVxor (u : VUnit) (ty : Ty) (d a b : VReg) (m : MReg) (s : State) : Host.Outcome State Fault Refusal := meaning (opVxor u ty d a b m) s

/-- VANDN (R196). -/
def opVandn (u : VUnit) (ty : Ty) (d a b : VReg) (m : MReg) : SlotOp :=
  bop u 2 ty d m (fun t e => laneOf (t.vreg a) ty.bits e &&& ((2 ^ ty.bits - 1) ^^^ laneOf (t.vreg b) ty.bits e))
def execVandn (u : VUnit) (ty : Ty) (d a b : VReg) (m : MReg) (s : State) : Host.Outcome State Fault Refusal := meaning (opVandn u ty d a b m) s

/-- VSHL (R196). -/
def opVshl (u : VUnit) (ty : Ty) (d a : VReg) (n : VCount) (m : MReg) : SlotOp :=
  bop u 2 ty d m (fun t e => let n := t.vcount ty n e; if ty.bits ≤ n then 0 else laneOf (t.vreg a) ty.bits e <<< n)
def execVshl (u : VUnit) (ty : Ty) (d a : VReg) (n : VCount) (m : MReg) (s : State) : Host.Outcome State Fault Refusal := meaning (opVshl u ty d a n m) s

/-- VSHR (R196). -/
def opVshr (u : VUnit) (ty : Ty) (d a : VReg) (n : VCount) (m : MReg) : SlotOp :=
  bop u 2 ty d m (fun t e => let n := t.vcount ty n e; if ty.bits ≤ n then 0 else laneOf (t.vreg a) ty.bits e >>> n)
def execVshr (u : VUnit) (ty : Ty) (d a : VReg) (n : VCount) (m : MReg) (s : State) : Host.Outcome State Fault Refusal := meaning (opVshr u ty d a n m) s

/-- VSAR (R196). -/
def opVsar (u : VUnit) (ty : Ty) (d a : VReg) (n : VCount) (m : MReg) : SlotOp :=
  bop u 2 ty d m (fun t e => sarLane ty.bits (laneOf (t.vreg a) ty.bits e) (t.vcount ty n e))
def execVsar (u : VUnit) (ty : Ty) (d a : VReg) (n : VCount) (m : MReg) (s : State) : Host.Outcome State Fault Refusal := meaning (opVsar u ty d a n m) s

/-- VPERM (R197). -/
def opVperm (u : VUnit) (z : Bool) (ty : Ty) (d a b c : VReg) (m : MReg) : SlotOp :=
  bop u 4 ty d m (fun t e =>
    let size := if ty = .b8 then ty.lanes else 2 * ty.lanes
    let x := laneOf (t.vreg b) ty.bits e
    let i := x % size
    if z ∧ size ≤ x then 0
    else if i < ty.lanes then laneOf (t.vreg a) ty.bits i else laneOf (t.vreg c) ty.bits (i - ty.lanes))
def execVperm (u : VUnit) (z : Bool) (ty : Ty) (d a b c : VReg) (m : MReg) (s : State) : Host.Outcome State Fault Refusal := meaning (opVperm u z ty d a b c m) s

/-- VBCAST (R198). -/
def opVbcast (u : VUnit) (ty : Ty) (d : VReg) (src : BcastSrc) (m : MReg) : SlotOp :=
  bop u 4 ty d m (fun t _ => match src with
    | .lane a i => laneOf (t.vreg a) ty.bits i.toNat
    | .scalar a => (t.sreg a).toNat)
def execVbcast (u : VUnit) (ty : Ty) (d : VReg) (src : BcastSrc) (m : MReg) (s : State) : Host.Outcome State Fault Refusal := meaning (opVbcast u ty d src m) s

/-- VSEL (R198): unmasked. -/
def opVsel (u : VUnit) (ty : Ty) (d a b : VReg) (m : MReg) : SlotOp :=
  vop u 1 never (fun s =>
    let t := s.me
    s.fixed (VUnit.num u) 2 [wLanes d ty.bits ty.lanes (fun _ => true) (fun e => if maskBit (t.mreg m) ty.bits e then laneOf (t.vreg a) ty.bits e else laneOf (t.vreg b) ty.bits e)])
def execVsel (u : VUnit) (ty : Ty) (d a b : VReg) (m : MReg) (s : State) : Host.Outcome State Fault Refusal := meaning (opVsel u ty d a b m) s

/-- VRED (R201): lane 0 is written whatever the mask. -/
def opVred (u : VUnit) (o : RedOp) (ty : Ty) (rnd : Rnd) (d a : VReg) (m : MReg) : SlotOp :=
  vop u 1 (redDraws o ty rnd) (fun s =>
    let t := s.me
    let x := scanCodes t o ty (rndMode rnd t.ctl.fmt) a m
    s.fixed (VUnit.num u) 8 [wLanes d ty.bits ty.lanes (fun e => e == 0) (fun _ => (lget none x (ty.lanes - 1)).getD (redIdentity o ty))])
def execVred (u : VUnit) (o : RedOp) (ty : Ty) (rnd : Rnd) (d a : VReg) (m : MReg) (s : State) : Host.Outcome State Fault Refusal := meaning (opVred u o ty rnd d a m) s

/-- VSCAN (R202). -/
def opVscan (u : VUnit) (o : RedOp) (ex : Bool) (ty : Ty) (rnd : Rnd) (d a : VReg) (m : MReg) : SlotOp :=
  vop u 1 (redDraws o ty rnd) (fun s =>
    let x := scanCodes s.me o ty (rndMode rnd s.me.ctl.fmt) a m
    s.lanes u 8 d m ty (fun _ e =>
      if ex then (if e = 0 then redIdentity o ty else (lget none x (e - 1)).getD (redIdentity o ty))
      else (lget none x e).getD 0))
def execVscan (u : VUnit) (o : RedOp) (ex : Bool) (ty : Ty) (rnd : Rnd) (d a : VReg) (m : MReg) (s : State) : Host.Outcome State Fault Refusal := meaning (opVscan u o ex ty rnd d a m) s

/-- VCMP (R190). -/
def opVcmp (u : VUnit) (cc : VCC) (ty : Ty) (d : MReg) (a b : VReg) (m : MReg) : SlotOp :=
  vop u 1 never (fun s => s.maskLanes u 2 d m ty (fun t e => iccHolds cc (t.il ty a e) (t.il ty b e)))
def execVcmp (u : VUnit) (cc : VCC) (ty : Ty) (d : MReg) (a b : VReg) (m : MReg) (s : State) : Host.Outcome State Fault Refusal := meaning (opVcmp u cc ty d a b m) s

/-- MAND (R203). -/
def opMand (u : VUnit) (d a b : MReg) : SlotOp :=
  vop u 1 never (fun s => let t := s.me; s.fixed (VUnit.num u) 2 [.m d.toNat (t.mreg a &&& t.mreg b) (BitVec.allOnes 256)])
def execMand (u : VUnit) (d a b : MReg) (s : State) : Host.Outcome State Fault Refusal := meaning (opMand u d a b) s

/-- MOR (R203). -/
def opMor (u : VUnit) (d a b : MReg) : SlotOp :=
  vop u 1 never (fun s => let t := s.me; s.fixed (VUnit.num u) 2 [.m d.toNat (t.mreg a ||| t.mreg b) (BitVec.allOnes 256)])
def execMor (u : VUnit) (d a b : MReg) (s : State) : Host.Outcome State Fault Refusal := meaning (opMor u d a b) s

/-- MNOT (R203). -/
def opMnot (u : VUnit) (d a : MReg) : SlotOp :=
  vop u 1 never (fun s => let t := s.me; s.fixed (VUnit.num u) 2 [.m d.toNat (~~~t.mreg a) (BitVec.allOnes 256)])
def execMnot (u : VUnit) (d a : MReg) (s : State) : Host.Outcome State Fault Refusal := meaning (opMnot u d a) s

/-- MPOPC (R203). -/
def opMpopc (u : VUnit) (ty : Ty) (d : SReg) (a : MReg) : SlotOp :=
  vop u 1 never (fun s =>
    let t := s.me
    s.fixed (VUnit.num u) 4 [t.wS d (BitVec.ofNat 64 ((List.range ty.lanes).filter (fun e => maskBit (t.mreg a) ty.bits e)).length)])
def execMpopc (u : VUnit) (ty : Ty) (d : SReg) (a : MReg) (s : State) : Host.Outcome State Fault Refusal := meaning (opMpopc u ty d a) s

/-- The lane of VMOV (R199). -/
def Strand.laneIx (t : Strand) (ty : Ty) : LaneSel → Nat
  | .imm i => i.toNat
  | .reg b => (t.sreg b).toNat % ty.lanes

/-- VMOV.S (R199). -/
def opVmovS (u : VUnit) (ty : Ty) (d : SReg) (a : VReg) (lane : LaneSel) : SlotOp :=
  vop u 1 never (fun s =>
    let t := s.me
    let v := laneOf (t.vreg a) ty.bits (t.laneIx ty lane)
    s.fixed (VUnit.num u) 4 [t.wS d (BitVec.ofNat 64 (if ty.isSigned then wrap 64 (sext ty.bits v) else v))])
def execVmovS (u : VUnit) (ty : Ty) (d : SReg) (a : VReg) (lane : LaneSel) (s : State) : Host.Outcome State Fault Refusal := meaning (opVmovS u ty d a lane) s

/-- VMOV.V (R199). -/
def opVmovV (u : VUnit) (ty : Ty) (d : VReg) (a : SReg) (lane : LaneSel) : SlotOp :=
  vop u 1 never (fun s =>
    let t := s.me
    s.fixed (VUnit.num u) 4 [wLanes d ty.bits ty.lanes (fun e => e == t.laneIx ty lane) (fun _ => (t.sreg a).toNat)])
def execVmovV (u : VUnit) (ty : Ty) (d : VReg) (a : SReg) (lane : LaneSel) (s : State) : Host.Outcome State Fault Refusal := meaning (opVmovV u ty d a lane) s

/-- VRAND (R204). -/
def opVrand (u : VUnit) (ty : Ty) (d : VReg) (m : MReg) (seq : BitVec 12) : SlotOp :=
  vop u 1 (fun _ => true) (fun s => s.lanes u 4 d m ty (fun t e =>
    (rand t.ctl.rseed seq.toNat (t.ctl.rctr + BitVec.ofNat 64 t.drawn) e 0).toNat / 2 ^ (64 - ty.bits)))
def execVrand (u : VUnit) (ty : Ty) (d : VReg) (m : MReg) (seq : BitVec 12) (s : State) : Host.Outcome State Fault Refusal := meaning (opVrand u ty d m seq) s

/-- ACC.RD (R205, R206). -/
def opAccRd (u : VUnit) (ty : Ty) (d : VReg) (y : YReg) (hr : HalfRow) (m : MReg) : SlotOp :=
  op (VUnit.num u) 1 (fun s =>
    let t := s.me
    let k := s.core s.cur
    let w := wLanes d ty.bits ty.lanes (maskBit (t.mreg m) ty.bits) (laneOf (BitVec.ofNat 2048 (k.halfRow y.toNat (t.halfRow hr))) 32)
    let s := s.fixed (VUnit.num u) 6 [w]
    -- a poisoned tile raises when the result is due, but not in a handler (R206, R335)
    ok (if tget false k.tPoison y.toNat ∧ t.handler.isNone then
        s.modMe (fun t => { t with plat := { t.plat with results := t.plat.results.dropLast ++
          (t.plat.results.getLast?.map (fun r => { r with exc := some { cause := .uncorrectable, aux := 2 ^ 63 + y.toNat, slot := VUnit.num u } })).toList } })
      else s))
def execAccRd (u : VUnit) (ty : Ty) (d : VReg) (y : YReg) (hr : HalfRow) (m : MReg) (s : State) : Host.Outcome State Fault Refusal := meaning (opAccRd u ty d y hr m) s

/-- ACC.WR (R205): reaches the tile at t + 6. -/
def opAccWr (u : VUnit) (ty : Ty) (y : YReg) (a : VReg) (hr : HalfRow) (m : MReg) : SlotOp :=
  op (VUnit.num u) 1 (fun s =>
    let t := s.me
    let msk := lanesMask ty.bits ty.lanes (maskBit (t.mreg m) ty.bits)
    ok (s.fixed (VUnit.num u) 6 [.t y.toNat (t.halfRow hr) (t.vreg a) (BitVec.ofNat 2048 msk)]))
def execAccWr (u : VUnit) (ty : Ty) (y : YReg) (a : VReg) (hr : HalfRow) (m : MReg) (s : State) : Host.Outcome State Fault Refusal := meaning (opAccWr u ty y a hr m) s

end Sys2Proof.Machine
end

