-- ==== Sys2Proof/Machine/Copy.lean ====
section
/-! DEFINITION. The Shunter: copies, reduce-add copies, triggered copies and TOK.CLR (R143 to R158), and its events. -/

namespace Sys2Proof.Machine

/-! Checks at issue (R145). -/

/-- What the checks of a copy find: the descriptors, and whether sectors run downwards. -/
structure CopyPlan where
  dd   : Option Nat
  ds   : Option Nat
  down : Bool
  deriving DecidableEq, Repr

/-- CopyIssue up to the overlap check (R145, R149, R150). That `qd`'s base lies above `qs`'s is taken of the first bytes that the patterns
span, not of their BASE fields (log 86). `l`: CPY.L; `red`: CPY.RED's operation and type. -/
def copyPlan (s : State) (qd qs : Nat) (e : EAttr) (l : Bool) (red : Option (CRedOp × Ty)) : Except Exc CopyPlan :=
  let bad (c : Cause) : Except Exc CopyPlan := .error { cause := c, slot := 5 }
  let empty (q : Nat) : Bool := qKind q == 0 || qKind q == 3
  if empty qd ∨ empty qs then bad .reservedField
  else if qEs qd ≠ qEs qs ∨ qCount qd ≠ qCount qs ∨ 2 ^ 32 < qCount qs then bad .reservedField
  else if e.kp ≠ 0 ∧ (eConsumed e).contains e.kp.toNat then bad .reservedField
  else match s.patDesc 1 qd with
  | .error x => .error x
  | .ok dd =>
  match s.patDesc 1 qs with
  | .error x => .error x
  | .ok ds =>
    let width (d : Option Nat) (q : Nat) : Bool := match d with | some d => tyEs (dTy d) != qEs q | none => false
    if width dd qd ∨ width ds qs then bad .reservedField
    else if red.any (fun r => tyEs r.2 != qEs qs) then bad .reservedField
    else if l ∧ qKind qd = 1 ∧ qAs qd ≠ 1 then bad .reservedField
    else match (s.patAccess qd dd).or (s.patAccess qs ds) with
    | some x => .error x
    | none =>
      if zeroStride qd && red.all (fun r => r.1 == .adds) then bad .patternDegenerate
      else match overlap s.cur qd qs dd ds with
        | .refused => bad .copyOverlap
        | .ordinary => .ok { dd := dd, ds := ds, down := false }
        | .memmove => .ok { dd := dd, ds := ds, down := decide ((State.span s.cur qs ds).2.1 < (State.span s.cur qd dd).2.1) }

/-- A destination outside scratchpad: global memory or a tensor. -/
def toGlobal (q : Nat) : Bool := qKind q == 2 || qAs q == 1

/-- The command of a copy that passed its checks. -/
def copyCmd (s : State) (kind : CmdKind) (e : EAttr) (qd qs : QReg) (p : CopyPlan) : Cmd :=
  let t := s.me
  let img (d : Option Nat) : Option QWord := d.map (BitVec.ofNat 512)
  let dd := img p.dd
  let ds := img p.ds
  { eCmd s kind e with
    pd := t.qreg qd, ps := t.qreg qs, dd := dd, ds := ds, down := p.down,
    held := t.inRegion && toGlobal (t.qreg qd).toNat,
    busy := !(s.segHeld t.part dd || s.segHeld t.part ds) }

/-- Issue of a copy: the checks, TOKEN_REUSE, the queue (R145). -/
def runCopy (kind : CmdKind) (l : Bool) (red : Option (CRedOp × Ty)) (qd qs : QReg) (e : EAttr) (s : State) : Res :=
  match copyPlan s (s.me.qreg qd).toNat (s.me.qreg qs).toNat e l red with
  | .error x => .error x
  | .ok p =>
    if s.reused e then raise 5 .tokenReuse e.kp.toNat
    else ok (s.enqueue (copyCmd s kind e qd qs p) e [(s.me.qreg qd).toNat] (fun m k => { k with copies := k.copies ++ [m] }))

/-- The Shunter's queue of 16 is full (R143). -/
def copyFull (s : State) : Bool := decide (16 ≤ (s.core s.cur).copies.length)

/-- CPY (R145, R146). -/
def opCpy (qd qs : QReg) (e : EAttr) : SlotOp :=
  { slot := 5, results := 0, takes := 1, gate := engineGate 1 copyFull [qd, qs], run := runCopy (.copy false) false none qd qs e }
def execCpy (qd qs : QReg) (e : EAttr) (s : State) : Host.Outcome State Fault Refusal := meaning (opCpy qd qs e) s

/-- CPY.L (R148): a line in a live lease of the gang is not written through to HBM. -/
def opCpyL (qd qs : QReg) (e : EAttr) : SlotOp :=
  { slot := 5, results := 0, takes := 1, gate := engineGate 1 copyFull [qd, qs], run := runCopy (.copy true) true none qd qs e }
def execCpyL (qd qs : QReg) (e : EAttr) (s : State) : Host.Outcome State Fault Refusal := meaning (opCpyL qd qs e) s

/-- CPY.RED (R150). -/
def opCpyRed (o : CRedOp) (ty : Ty) (qd qs : QReg) (e : EAttr) : SlotOp :=
  { slot := 5, results := 0, takes := 1, gate := engineGate 1 copyFull [qd, qs], run := runCopy (.copyRed o ty) false (some (o, ty)) qd qs e }
def execCpyRed (o : CRedOp) (ty : Ty) (qd qs : QReg) (e : EAttr) (s : State) : Host.Outcome State Fault Refusal :=
  meaning (opCpyRed o ty qd qs e) s

/-! Triggers (R157). -/

/-- CNT of a channel of the strand's gang (R248). -/
def State.cnt (s : State) (p lid g n : Nat) : Nat := (tget {} ((s.launch p lid).gang g).ends n).cnt

def Cmd.onChannel (m : Cmd) (n : Nat) : Bool := match m.kind with | .trig k _ => k == n | _ => false
def Cmd.ofGang (m : Cmd) (p lid g : Nat) : Bool := m.part == p && m.lid == lid && m.gang == g

/-- Triggers of a gang's channel, armed and not yet complete, on every core. -/
def State.trigsOn (s : State) (p lid g n : Nat) : List Cmd :=
  s.cores.flatMap (fun e => e.2.trigs.filter (fun m => m.ofGang p lid g && m.onChannel n))

/-- Four triggers are armed on a channel (R157). -/
def trigFull (n : NReg) (s : State) : Bool :=
  let t := s.me
  decide (4 ≤ ((s.trigsOn t.part t.lid t.gang n.toNat).filter (fun m => m.phase == .queued)).length)

/-- TRIG (R156, R157). -/
def opTrig (n : NReg) (count : BitVec 4) (qd qs : QReg) (e : EAttr) : SlotOp :=
  { slot := 5, results := 0, gate := engineGate 1 (trigFull n) [qd, qs],
    run := fun s =>
      let t := s.me
      if t.frames ≠ [] then raise 5 .regionEffect
      else match copyPlan s (t.qreg qd).toNat (t.qreg qs).toNat e false none with
        | .error x => .error x
        | .ok p =>
          if s.reused e then raise 5 .tokenReuse e.kp.toNat
          else
            let target := (s.cnt t.part t.lid t.gang n.toNat + count.toNat + 1) % 2 ^ 32
            ok (s.enqueue (copyCmd s (.trig n.toNat target) e qd qs p) e [(t.qreg qd).toNat] (fun m k => { k with trigs := k.trigs ++ [m] })) }
def execTrig (n : NReg) (count : BitVec 4) (qd qs : QReg) (e : EAttr) (s : State) : Host.Outcome State Fault Refusal :=
  meaning (opTrig n count qd qs e) s

/-- TOK.CLR (R158). -/
def opTokClr (k0 k1 k2 k3 : KReg) : SlotOp :=
  op 5 0 (fun s =>
    let ks := [k0, k1, k2, k3].map BitVec.toNat
    match ks.find? (fun k => s.me.tok k == .armed) with
    | some k => raise 5 .tokenReuse k
    | none => ok (s.modMe (fun t => ks.foldl (fun t k => t.setTok k .empty) t)))
def execTokClr (k0 k1 k2 k3 : KReg) (s : State) : Host.Outcome State Fault Refusal := meaning (opTokClr k0 k1 k2 k3) s

/-! Sectors (R147). -/

/-- Elements of a sector. -/
def sectorSize (q : Nat) : Nat := if qEs q = 0 then 8192 else 4096 / qSize q

/-- The pattern whose elements a command walks: a keep has a single one. -/
def Cmd.walk (m : Cmd) : Nat := if m.kind.isKeep then m.pd.toNat else m.ps.toNat
def Cmd.sectors (m : Cmd) : Nat := cdiv (qCount m.walk) (sectorSize m.walk)

/-- The sector a cursor stands for (R149). -/
def Cmd.sectorAt (m : Cmd) (i : Nat) : Nat := if m.down then m.sectors - 1 - i else i

/-- The elements of the next sector. -/
def Cmd.sectorElems (m : Cmd) : List Nat :=
  let n := sectorSize m.walk
  let b := m.sectorAt m.cursor * n
  (List.range (min n (qCount m.walk - b))).map (b + ·)

/-- CURSOR of a parked copy's record (R151). -/
def Cmd.copyCursor (m : Cmd) : Nat := m.sectorAt m.cursor + (if m.down then 2 ^ 32 else 0)

/-- The combination of CPY.RED (R150). -/
def combine (o : CRedOp) (ty : Ty) (rc : Rc) (old c : Nat) : Nat :=
  match o with
  | .adds => wrap ty.bits (satI (decodeI ty old + decodeI ty c) ty)
  | .add =>
    if ty.isFloat then roundTo rc ty (addN (rc.mode == 4) (decodeF rc.ftz ty old) (decodeF rc.ftz ty c)) else (old + c) % 2 ^ ty.bits
  | .min =>
    if ty.isFloat then roundTo {} ty (minN (decodeF rc.ftz ty old) (decodeF rc.ftz ty c))
    else if decodeI ty c < decodeI ty old then c else old
  | .max =>
    if ty.isFloat then roundTo {} ty (maxN (decodeF rc.ftz ty old) (decodeF rc.ftz ty c))
    else if decodeI ty old < decodeI ty c then c else old

/-- What a sector's reads give: for each element its number, its destination's, its value and poison. -/
structure SectorRead where
  s     : State
  vals  : List (Nat × Nat × Nat × Bool) := []
  err   : Option Cause := none
  touch : List Touch := []

/-- Reads elements of a sector (R127, R146), after those that have been read (R304). -/
def State.sectorRead (s : State) (c : Nat) (m : Cmd) (w : Who) (es : List Nat) : SectorRead :=
  let d := m.ds.map BitVec.toNat
  es.foldl (fun r e =>
    let p := elemPlace c m.ps.toNat d e
    match r.s.engRead c m w (engineAgent c 4) p with
      | .ok s bs bad ts =>
        { r with s := s, vals := r.vals ++ [(e, e, p.signed d (p.val bs), bad)], touch := r.touch ++ ts,
                 err := r.err.or (if bad then some .uncorrectable else none) }
      | .cause s k _ => { r with s := s, err := r.err.or (some k) }
      | .fault s .. => { r with s := s }
      | .wait s _ => { r with s := s }) { s := s, vals := m.got, touch := m.leftT }

/-- The bytes a sector of a copy writes, and whether an element may not be written (R128, R146, R152): of several elements of the command
that write a byte only the last does, be it of a later sector. -/
def sectorPatch (c : Nat) (m : Cmd) (r : SectorRead) : Patch × Bool :=
  let d := m.dd.map BitVec.toNat
  let ty := (d.map dTy).getD .b8
  let ps := r.vals.map (fun v => (v, elemPlace c m.pd.toNat d v.1))
  let sym := d.isSome && ps.any (fun v => v.2.zero && !isZeroElem ty v.1.2.2.1)
  let patch := ps.foldl (fun (t : Patch) v => t.put v.2 (v.2.signed d v.1.2.2.1) v.1.2.2.2) []
  if m.down || unshared m.pd.toNat d then (patch, sym)
  else
    let next := (m.sectorAt m.cursor + 1) * sectorSize m.walk
    (patch.without ((List.range (qCount m.pd.toNat - next)).map (fun i => elemPlace c m.pd.toNat d (next + i))), sym)

/-- The line of a VA, where it lies in a live lease of the gang of a command. -/
def State.leasedLine (s : State) (m : Cmd) (va : Nat) : Option Nat :=
  if s.leases.any (fun e => match e.2 with
      | some l => !l.over s && l.part == m.part && l.lid == m.lid && l.gang == m.gang && decide (l.va ≤ va) && decide (va < l.va + l.len)
      | none => false) then
    (match (s.translate m.part m.part va .r false).2 with
     | .ok (.hbm pa ..) => some (pa / 128)
     | _ => none)
  else none

/-- CPY writes the lines of a lease of its gang through to HBM, CPY.L does not (R148, log 96). -/
def State.through (s : State) (m : Cmd) (t : Patch) : State :=
  match m.kind with
  | .copy false | .trig .. =>
    if s.leases = [] then s
    else ((t.filterMap (fun e => match keyLoc e.1 with
      | .gl va => s.leasedLine m va
      | .sp .. => none)).eraseDups).foldl (fun s ln => match tget none s.l2 ln with
        | some l => s.writeBack ln l
        | none => s) s
  | _ => s

/-- Destination elements that share bytes of memory with a source element under another address (R149): their values are free. -/
def State.aliased (s : State) (c : Nat) (m : Cmd) : List Nat :=
  let qd := m.pd.toNat
  let qs := m.ps.toNat
  let dd := m.dd.map BitVec.toNat
  let ds := m.ds.map BitVec.toNat
  if !(toGlobal qd && toGlobal qs) || overlap c qd qs dd ds != .ordinary then []
  else
    let frame (va : Nat) : Option Nat := match (s.translate m.part m.part va .r false).2 with
      | .ok (.hbm pa ..) => some pa
      | _ => none
    let es := m.sectorElems
    let sp := State.span c qs ds
    let srcPages := (List.range (sp.2.2 / 65536 + 1 - sp.2.1 / 65536)).filterMap (fun i => (frame ((sp.2.1 / 65536 + i) * 65536)).map (· / 65536))
    let at_ (p : EPlace) : Option Nat := match p.zero, p.loc with
      | false, .gl va => frame va
      | _, _ => none
    let dst := es.filterMap (fun e => (at_ (elemPlace c qd dd e)).map (fun pa => (e, pa)))
    if !dst.any (fun x => srcPages.contains (x.2 / 65536)) then []
    else
      let src := (List.range (qCount qs)).filterMap (fun e => let p := elemPlace c qs ds e; (at_ p).map (fun pa => (pa, p.n)))
      (dst.filter (fun x => let n := (elemPlace c qd dd x.1).n; src.any (fun y => decide (x.2 < y.1 + y.2) && decide (y.1 < x.2 + n)))).map (·.1)

/-- A sector's reads with free values in the place of those of aliased elements (R149, log 9). -/
def SectorRead.free (r : SectorRead) (es : List Nat) : SectorRead :=
  if es = [] then r
  else { r with s := r.s.nextFree, vals := r.vals.map (fun v =>
    if es.contains v.1 then (v.1, v.2.1, bytesNat ((List.range 8).map (fun j => Config.freeByte (r.s.free * 65536 + 8 * (v.1 % 8192) + j))), v.2.2.2)
    else v) }

/-- Combines a sector of CPY.RED element by element (R150, R152). -/
def State.sectorRed (c : Nat) (m : Cmd) (w : Who) (o : CRedOp) (ty : Ty) (r : SectorRead) : Wrote :=
  let d := m.dd.map BitVec.toNat
  r.vals.foldl (fun (a : Wrote) v =>
    let p := elemPlace c m.pd.toNat d v.1
    match a.1.placeRead w p with
    | .ok s bs bad ts =>
      let old := p.signed d (p.val bs)
      let dr := draw (rand m.rseed (4 * 2 ^ 28) (BitVec.ofNat 64 p.x) (v.1 / 2 ^ 32) (v.1 % 2 ^ 32))
      let n := combine o ty (rcOf m.fmt (fmtMode m.fmt) dr) old v.2.2.1
      if p.zero then (s, a.2.1.or (if isZeroElem ty n then none else some .symViolation), a.2.2)
      else
        let (s, e, t2) := s.writePatch w (s.mixOn c m) (engineAgent c 4) (Patch.put [] p (p.signed d n) (v.2.2.2 || bad))
        (s, (a.2.1.or (if bad then some .uncorrectable else none)).or e, a.2.2 ++ ts ++ t2)
    | .cause s k _ => (s, a.2.1.or (some k), a.2.2)
    | .fault s .. => (s, a.2.1, a.2.2)
    | .wait s _ => (s, a.2.1, a.2.2)) (r.s, r.err, r.touch)

/-- A sector's places with their uses. -/
def Cmd.sectorPlaces (m : Cmd) (c : Nat) : List (EPlace × Use × Nat) :=
  let es := m.sectorElems
  let u : Use := match m.kind with | .copyRed .. => .rw | _ => .w
  es.map (fun e => (elemPlace c m.ps.toNat (m.ds.map BitVec.toNat) e, Use.r, if m.ds.isSome then qHandle m.ps.toNat else 0)) ++
  es.map (fun e => (elemPlace c m.pd.toNat (m.dd.map BitVec.toNat) e, u, if m.dd.isSome then qHandle m.pd.toNat else 0))

/-- Moves a command past its sector, ended after its last one. -/
def Cmd.advance (m : Cmd) : Cmd :=
  { m with cursor := m.cursor + 1, left := [], leftT := [], clean := [], got := [], taken := 0, rmw := 0,
           phase := if m.ended || decide (m.sectors ≤ m.cursor + 1) then .ended else .active }

/-- The places of a unit that lie in scratchpad. -/
def spPlaces (ps : List (EPlace × Use × Nat)) : List (Loc × Nat) :=
  ps.filterMap (fun p => match p.1.zero, p.1.loc with
    | false, .sp c o => some (.sp c o, p.1.n)
    | _, _ => none)

/-- Performs the next sector of an active copy (R147, R151): its reads, then its writes, which agents may see one after another; with
`cut`, a part of it (`Turn.part`), the rest at the sector's next events (R146, R304). A copy of a region is never left within a sector. -/
def State.sector (s : State) (c : Nat) (m : Cmd) (cut : Option Nat := none) : State :=
  if m.phase ≠ .active ∨ m.parked.isSome then s
  else if m.kind.isKeep then s.putCmd c m.advance
  else
    let w := s.engWho c m 2
    if m.left ≠ [] then
      match s.writeLeft c m w (engineAgent c 4) cut with
      | (s, none, _) => s.through m m.left
      | (s, some n, ts) => ((s.through m m.left).countTouches c ts).putCmd c n.advance
    else match s.probeAll w (m.recOf c 2 m.copyCursor) (m.sectorPlaces c) with
    | .park s k => s.putCmd c { m with parked := k }
    | .cause s k => s.putCmd c { m.note (some k) with phase := .ended }
    | .ok s =>
      let cut := if m.depth = 0 then cut else none
      let todo := m.sectorElems.drop m.taken
      let now := todo.take (cut.getD todo.length)
      let r := s.sectorRead c m w now
      let m := m.note r.err
      if now.length < todo.length then
        (r.s.stallS c 0 (spPlaces (now.map (fun e => (elemPlace c m.ps.toNat (m.ds.map BitVec.toNat) e, Use.r, 0))))).putCmd c
          { m with got := r.vals, taken := m.taken + now.length, leftT := r.touch }
      else
        let at_ := spPlaces (m.sectorPlaces c)
        let cut := cut.map (· - todo.length)
        let m : Cmd := { m with taken := m.sectorElems.length }
        match m.kind with
        | .copyRed o ty =>
          let n := cut.getD r.vals.length
          let (s, e, ts) := State.sectorRed c m w o ty { r with vals := (r.vals.drop m.rmw).take n }
          let s := s.stallS c 0 at_
          if m.rmw + n < r.vals.length then s.putCmd c { m.note e with got := r.vals, rmw := m.rmw + n, leftT := ts }
          else (s.countTouches c ts).putCmd c (m.note e).advance
        | _ =>
          let r := r.free (r.s.aliased c m)
          let (patch, sym) := sectorPatch c m r
          let (now, rest) := m.firstPart patch cut
          let (s, m, e, ts) := r.s.startWrite c m w (engineAgent c 4) now rest
          let m := (m.note (if sym then some .symViolation else none)).note e
          let s := (s.through m now).stallS c 0 at_
          if rest ≠ [] then s.putCmd c { m with leftT := r.touch ++ ts }
          else (s.countTouches c (r.touch ++ ts)).putCmd c m.advance

/-- A keep's source holds a poisoned row: its command ends in error (R152). -/
def State.keepPoison (s : State) (c : Nat) (m : Cmd) : Bool :=
  (List.range (qCount m.pd.toNat)).any (fun e =>
    let p := elemPlace c m.pd.toNat none e
    match p.loc with
    | .sp c o => (s.core c).spPoison o p.n
    | .gl _ => false)

/-- The bytes of a pattern a keep reads, in order (R325). -/
def State.keepBytes (s : State) (c : Nat) (m : Cmd) : List KeepEntry :=
  let patch := (List.range (qCount m.pd.toNat)).foldl (fun (t : Patch) e =>
    let p := elemPlace c m.pd.toNat none e
    match p.loc with
    | .sp c o => t.put p (p.val ((s.core c).spBytes o p.n)) ((s.core c).spPoison o p.n)
    | .gl _ => t) []
  patch.runs.map (fun r => match keyLoc r.1 with
    | .sp _ o => .p o r.2
    | .gl va => .p va r.2)

/-! Events. -/

/-- Commands of a core's Shunter, its queue first and its trigger lane after it. -/
def Core.shunter (k : Core) : List Cmd := k.copies ++ k.trigs

/-- Armed and running triggers of gangs that are not resident and last ran on a core: partition, saved set, command (R157). -/
def State.awayTrigs (s : State) (c : Nat) : List (Nat × Nat × Cmd) :=
  s.parts.flatMap (fun e => (List.range e.2.saved.length).flatMap (fun j =>
    match e.2.saved[j]? with
    | none => []
    | some v => if v.cluster = clusterOf c then
        (v.cores.filter (fun k => k.1 == c % 4)).flatMap (fun k => k.2.trigs.map (fun m => (e.1, j, m)))
      else []))

/-- A core with the request and stall counters of another: they belong to the core, not to what runs on it (R303, R357). -/
def Core.counts (k live : Core) : Core := { k with l2loc := live.l2loc, l2rem := live.l2rem, l2dom := live.l2dom, stall := live.stall }

/-- Acts with a saved set in the place of its cluster's cores, whose scratchpads are then the set's save area (R157). What the copies
request counts in the cores themselves. -/
def State.withSaved (s : State) (p j : Nat) (f : State → State) : State :=
  match (s.part p).saved[j]? with
  | none => s
  | some v =>
    let ids := v.cores.map (fun k => 4 * v.cluster + k.1)
    let s := s.l2.foldl (fun s e => match e.2 with
      | some l => (match l.owner with
        | .stash c _ _ => if ids.contains c then s.recall e.1 else s
        | _ => s)
      | none => s) s
    let live := ids.map (fun c => (c, s.core c))
    let s := v.cores.foldl (fun s k => s.modCore (4 * v.cluster + k.1) (fun live => k.2.counts live)) s
    let s := f s
    let back := v.cores.map (fun k => (k.1, s.core (4 * v.cluster + k.1)))
    let s := live.foldl (fun s e => s.modCore e.1 (fun k => e.2.counts k)) s
    s.modPart p (fun q => { q with saved := lput q.saved j { v with cores := back } })

/-- Acts on command `i` of a Shunter: its queue, its trigger lane, then the triggers of gangs that are away. -/
def State.onShunter (s : State) (c i : Nat) (f : Cmd → State → State) : State :=
  let here := (s.core c).shunter
  match here[i]? with
  | some m => f m s
  | none =>
    match (s.awayTrigs c)[i - here.length]? with
    | some (p, j, m) => s.withSaved p j (f m)
    | none => s

/-- COPY_START (R143): the oldest ready command joins the active set. -/
def execCopyStart (c : Nat) (s : State) : Host.Outcome State Fault Refusal :=
  let q := (s.core c).copies
  if 4 ≤ (q.filter (fun m => m.phase == .active && m.parked.isNone)).length then .next s
  else
    .next (match q.find? (fun m => s.cmdReady c m && (m.busy || !(s.segHeld m.part m.dd || s.segHeld m.part m.ds))) with
      | some m => s.putCmd c { m with phase := .active, busy := true }
      | none => s)

/-- COPY_SECTOR (R147): command `i` of the Shunter, counted over its queue and then its trigger lane; a core
that is stopped has its engines pause at their boundaries (R389). -/
def execCopySector (c i : Nat) (s : State) : Host.Outcome State Fault Refusal :=
  .next (if (s.core c).stopped then s else s.onShunter c i (fun m s => s.sector c m))

/-- SHERR (R153). -/
def sherrWord (e : Cause) (kp sector : Nat) : Nat := e.code * 2 ^ 56 + kp % 64 * 2 ^ 50 + sector % 2 ^ 32

/-- Ends a copy whose sectors are over, or one that a consumed token fails (R144, R153). A command without a token that meets an error
writes SHERR too, with TOK 0: the model's choice, since R144 only says that it completes silently (log 107). -/
def State.copyEnd (c : Nat) (m : Cmd) (s : State) : State :=
  let failed := m.phase = .queued ∧ m.failed
  if m.phase ≠ .ended ∧ ¬ failed then s
  else
    let isKeep : Bool := match m.kind with | .keepP _ => true | _ => false
    let err := if failed then some Cause.tokenError else if isKeep ∧ s.keepPoison c m then some .uncorrectable else m.err
    let sector := if failed then 0 else m.sectorAt m.errAt
    let es := match m.kind with | .keepP _ => if failed then [] else s.keepBytes c m | _ => []
    let s := match err with
      | some e => if m.ended then s else s.modStrand c m.ctx (fun t => { t with ctl := { t.ctl with sherr := sherrWord e m.kp sector } })
      | none => s
    let s := if isKeep ∧ ¬ failed then s.correctAll c ((List.range (qCount m.pd.toNat)).flatMap (elemBytes c m.pd.toNat)) else s
    let s := s.completeCmd c { m with left := [] } err
    match m.kind with
    | .keepP id => s.kept c m.ctx id es
    | _ => s

/-- COPY_COMPLETE (R144, R153). -/
def execCopyComplete (c i : Nat) (s : State) : Host.Outcome State Fault Refusal := .next (s.onShunter c i (State.copyEnd c))

/-- A trigger starts once CNT has reached its target, its tokens are satisfied and no earlier trigger of its channel is under
way (R157). -/
def State.fire (c : Nat) (m : Cmd) (s : State) : State :=
  match m.kind with
  | .trig n target =>
    let reached := (s.cnt m.part m.lid m.gang n + 2 ^ 32 - target) % 2 ^ 32 < 2 ^ 31
    let first := (s.trigsOn m.part m.lid m.gang n).all (fun o => decide (m.born ≤ o.born))
    if reached ∧ first ∧ s.cmdReady c m ∧ (m.busy ∨ ¬ (s.segHeld m.part m.dd ∨ s.segHeld m.part m.ds)) then s.putCmd c { m with phase := .active, busy := true } else s
  | _ => s

/-- TRIGGER_FIRE (R157): trigger `i` of the core's lane, those of gangs that are away after the others. -/
def execTriggerFire (c i : Nat) (s : State) : Host.Outcome State Fault Refusal :=
  .next (s.onShunter c ((s.core c).copies.length + i) (State.fire c))

end Sys2Proof.Machine
end

