-- ==== Sys2Proof/Machine/Kiln.lean ====
section
/-! DEFINITION. The matrix engine: its checks at issue, operand feeding, K steps, tiles and the Glaze (R213 to R236), and the
events of its queue. -/

namespace Sys2Proof.Machine

/-! Type combinations (R217). -/

/-- KS and the accumulator of an operand pair (R85, R217). -/
def pairRow (a b : Nat) : Option (Nat × Ty) :=
  match tyOf (BitVec.ofNat 5 a), tyOf (BitVec.ofNat 5 b) with
  | some .f64, some .f64 => some (4, .f64)
  | some .f32, some .f32 => some (8, .f32)
  | some .tf32, some .tf32 => some (8, .f32)
  | some .bf16, some .bf16 => some (16, .f32)
  | some .f16, some .f16 => some (16, .f32)
  | some .s4, some .s4 => some (32, .s32)
  | some ta, some tb =>
    if ta.isNarrow ∧ tb.isNarrow then some (32, .f32)
    else if (ta = .s8 ∨ ta = .n8) ∧ (tb = .s8 ∨ tb = .n8) then some (32, .s32)
    else none
  | _, _ => none

/-- KS of one operand's type (R85). -/
def ksOf (a : Nat) : Option Nat := (pairRow a a).map (·.1)

def codeTy (a : Nat) : Ty := (tyOf (BitVec.ofNat 5 a)).getD .b8
def isTy (a : Nat) : Bool := (tyOf (BitVec.ofNat 5 a)).isSome
def narrowCode (a : Nat) : Bool := match tyOf (BitVec.ofNat 5 a) with | some t => t.isNarrow | none => false

/-- The tile and output pairs that DRAIN accepts (R233). -/
def drainPair (tyt tyo : Nat) : Bool :=
  match tyOf (BitVec.ofNat 5 tyt), tyOf (BitVec.ofNat 5 tyo) with
  | some .f32, some o => (o.isFloat && o != .tf32) || o.isInt
  | some .s32, some o => o.isInt
  | some .f64, some o => o == .f64 || o == .f32
  | _, _ => false

/-! Checks at issue (R215). -/

/-- ES of a pattern against a type code; a code with no meaning is left to TYPE_COMBO. -/
def esBad (q ty : Nat) : Bool := isTy ty && qEs q != tyEs (codeTy ty)

/-- A byte-form SP pattern. -/
def spForm (q : Nat) : Bool := qKind q == 1 && qAs q == 0

/-- Extent of a dimension, 1 past NDIM. -/
def qDim (q d : Nat) : Nat := if d < qNdim q then qExt q d else 1

/-- An operand of MMA or TGEMM (R218): wrong form, ES, or a half-byte stride. -/
def operandBad (q ty : Nat) : Bool :=
  !spForm q || decide (2 < qNdim q) || esBad q ty || (isTy ty && (codeTy ty).bits == 4 && qStr q 0 != 1)

def groupsMeet (a b : Nat) : Bool := (groupsOf a).any (fun g => (groupsOf b).contains g)

/-- Block scales of an operand (R71, R219). -/
def scaleRows (q : Nat) : Nat := qDim q 1
def scaleCols (q : Nat) : Nat := qDim q 2
def scaleCount (q : Nat) : Nat := qDim q 0 * qDim q 3 * qDim q 4

/-- RESERVED_FIELD of a scale pattern over `m` rows and `k` columns. -/
def scaleBad (q m k : Nat) : Bool :=
  !spForm q || decide (m % scaleRows q ≠ 0) || decide (scaleCount q < m / scaleRows q * (k / scaleCols q))

/-- TYPE_COMBO of a scale pattern. -/
def scaleCombo (q : Nat) (ty : Nat) : Bool :=
  scaleRows q * scaleCols q != 32 || (decide (1 < qNdim q) && qStr q 1 != 0) || (decide (2 < qNdim q) && qStr q 2 != 0) ||
  qEs q != (if codeTy ty = .e2m1 then 2 else 1)

/-- The byte offset of scale element `b`: dimensions 0, 3 and 4 alone (R124). -/
def scaleOff (q b : Nat) : Int :=
  let d (i : Nat) : Int := if i < qNdim q then qStr q i else 0
  (qStart q : Int) + ((b % qDim q 0 : Nat) : Int) * d 0 + ((b / qDim q 0 % qDim q 3 : Nat) : Int) * d 3 +
    ((b / qDim q 0 / qDim q 3 % qDim q 4 : Nat) : Int) * d 4

/-- A 64-byte or 32-byte block named by BASE + START. -/
def blockAddr (q : Nat) : Nat := (qBase q + qStart q) % 2 ^ 64
def blockBad (q n : Nat) : Bool := !spForm q || decide (blockAddr q % n ≠ 0)

/-- ACCESS of a block and its pattern. -/
def State.blockAccess (s : State) (q n : Nat) : Option Exc :=
  match s.space 5 0 (blockAddr q) n with
  | .error e => some e
  | .ok _ => s.patAccess q none

/-- A register and the one after it. -/
def Strand.qNat (t : Strand) (q : QReg) : Nat := (t.qreg q).toNat
def Strand.qNext (t : Strand) (q : QReg) : Nat := (t.qreg (q + 1)).toNat

/-- A list of refusals in order: the first that holds. -/
def firstExc (l : List (Bool × Cause)) : Option Exc := (l.find? (·.1)).map (fun x => { cause := x.2, slot := 5 })

/-- The first refusal of a list of patterns' ACCESS checks. -/
def firstSome (l : List (Option Exc)) : Option Exc := l.findSome? id

/-- The kinds of MMA. -/
inductive MmaForm where
  | plain | gathered | window
  deriving DecidableEq, Repr

/-- RESERVED_FIELD, TYPE_COMBO, BANK_GROUP and ACCESS of the MMA forms (R215, R217 to R224). A command that needs any auxiliary pattern
takes neither register 31 (R47). -/
def mmaCheck (s : State) (f : MmaForm) (tya tyb : Nat) (qa qb : QReg) : Option Exc :=
  let t := s.me
  let fmt := t.ctl.fmt
  let (a, b, a1, b1) := (t.qNat qa, t.qNat qb, t.qNext qa, t.qNext qb)
  let bsa := fmtBsa fmt
  let bsb := fmtBsb fmt
  let m := match f with | .plain => qDim a 1 | .gathered => qCount a1 | .window => 1
  let k := qDim b 0
  let n := qDim b 1
  let ks := (ksOf tya).getD 1
  let aBad := match f with
    | .window => !spForm a || decide (qNdim a ≠ 4) || esBad a tya || (isTy tya && (codeTy tya).bits == 4 && qStr a 0 != 1)
    | _ => operandBad a tya || decide (qDim a 0 ≠ k)
  let auxBad := match f with
    | .plain => false
    | .gathered => !spForm a1 || qEs a1 != 3
    | .window => blockBad a1 32
  let form := f != .plain
  (firstExc
    [ ((qa == 31 || qb == 31) && (form || bsa || bsb), .reservedField),
      (aBad, .reservedField), (operandBad b tyb, .reservedField), (auxBad, .reservedField),
      (decide (m = 0) || decide (128 < m) || decide ((if codeTy tya = .f64 ∧ isTy tya then 64 else 128) < n), .reservedField),
      (decide (k % ks ≠ 0) || decide (2 ^ 20 < k), .reservedField),
      (!form && bsa && narrowCode tya && scaleBad a1 m k, .reservedField),
      (bsb && narrowCode tyb && scaleBad b1 n k, .reservedField),
      (form && bsa, .typeCombo), ((pairRow tya tyb).isNone, .typeCombo),
      (bsa && !narrowCode tya, .typeCombo), (bsb && !narrowCode tyb, .typeCombo),
      (!form && bsa && scaleCombo a1 tya, .typeCombo), (bsb && scaleCombo b1 tyb, .typeCombo),
      (groupsMeet a b && !(f == .plain && a == b), .bankGroup) ]).or
  (firstSome
    [ s.patAccess a none, s.patAccess b none,
      (match f with | .plain => none | .gathered => s.patAccess a1 none | .window => s.blockAccess a1 32),
      (if bsa then s.patAccess a1 none else none), (if bsb then s.patAccess b1 none else none) ])

/-- The matrix-engine queue of 8 is full (R213). -/
def kilnFull (s : State) : Bool := decide (8 ≤ (s.core s.cur).kiln.length)

/-- A command of the matrix engine with its four snapshots. -/
def kilnCmd (s : State) (kind : CmdKind) (e : EAttr) (qa qb : QReg) : Cmd :=
  let t := s.me
  { eCmd s kind e with ps := t.qreg qa, ps1 := t.qreg (qa + 1), pd := t.qreg qb, pd1 := t.qreg (qb + 1) }

def pushKiln (m : Cmd) (k : Core) : Core := { k with kiln := k.kiln ++ [m] }

/-- TOKEN_REUSE, then the queue. -/
def State.toKiln (s : State) (e : EAttr) (m : Cmd) (dests : List Nat) : Res :=
  if s.reused e then raise 5 .tokenReuse e.kp.toNat else ok (s.enqueue m e dests pushKiln)

/-- MMA (R221). -/
def opMma (i : Bool) (tya tyb : BitVec 5) (y : YReg) (qa qb : QReg) (e : EAttr) : SlotOp :=
  { slot := 5, results := 0, takes := 2, gate := engineGate 2 kilnFull [],
    run := fun s => match mmaCheck s .plain tya.toNat tyb.toNat qa qb with
      | some x => .error x
      | none => s.toKiln e (kilnCmd s (.mma i tya.toNat tyb.toNat y.toNat) e qa qb) [] }
def execMma (i : Bool) (tya tyb : BitVec 5) (y : YReg) (qa qb : QReg) (e : EAttr) (s : State) : Host.Outcome State Fault Refusal :=
  meaning (opMma i tya tyb y qa qb e) s

/-- MMA.G (R222). -/
def opMmaG (f i : Bool) (tya tyb : BitVec 5) (y : YReg) (qa qb : QReg) (e : EAttr) : SlotOp :=
  { slot := 5, results := 0, takes := 2, gate := engineGate 2 kilnFull [],
    run := fun s => match mmaCheck s .gathered tya.toNat tyb.toNat qa qb with
      | some x => .error x
      | none => s.toKiln e (kilnCmd s (.mmaG f i tya.toNat tyb.toNat y.toNat) e qa qb) [] }
def execMmaG (f i : Bool) (tya tyb : BitVec 5) (y : YReg) (qa qb : QReg) (e : EAttr) (s : State) : Host.Outcome State Fault Refusal :=
  meaning (opMmaG f i tya tyb y qa qb e) s

/-- MMA.W (R224). -/
def opMmaW (i : Bool) (tya tyb : BitVec 5) (y : YReg) (qa qb : QReg) (e : EAttr) : SlotOp :=
  { slot := 5, results := 0, takes := 2, gate := engineGate 2 kilnFull [],
    run := fun s => match mmaCheck s .window tya.toNat tyb.toNat qa qb with
      | some x => .error x
      | none => s.toKiln e (kilnCmd s (.mmaW i tya.toNat tyb.toNat y.toNat) e qa qb) [] }
def execMmaW (i : Bool) (tya tyb : BitVec 5) (y : YReg) (qa qb : QReg) (e : EAttr) (s : State) : Host.Outcome State Fault Refusal :=
  meaning (opMmaW i tya tyb y qa qb e) s

/-! TGEMM and DRAIN at issue. -/

/-- The classes of an output over its index positions 0 and 1: of the pair, of 0 alone, of 1 alone (R234). -/
def outClasses (d : Nat) : Nat × Nat × Nat :=
  if dGroup d 0 = dGroup d 1 then (dClass d (dGroup d 0), 0, 0) else (0, dClass d (dGroup d 0), dClass d (dGroup d 1))

/-- An output's handle: whether its descriptor can be had, and otherwise the cause that stands with ACCESS (R215). -/
def splitDesc (r : Except Exc (Option Nat)) : Option Nat × Option Exc × Option Exc :=
  match r with
  | .ok d => (d, none, none)
  | .error e => if e.cause = .access then (none, none, some e) else (none, some e, none)

/-- The checks of TGEMM, with the output's descriptor (R234). -/
def tgemmCheck (s : State) (tya tyb : Nat) (qa qb : QReg) : Except Exc (Option Nat) :=
  let t := s.me
  let fmt := t.ctl.fmt
  let (a, b, o, g) := (t.qNat qa, t.qNat qb, t.qNext qa, t.qNext qb)
  let m := qDim a 1
  let n := qDim b 1
  let k := qDim b 0
  let ks := (ksOf tya).getD 1
  let (d?, early, late) := splitDesc (s.patDesc 2 o)
  let d := d?.getD 0
  let dOut (f : Bool) : Bool := d?.isSome && f
  let cls := (outClasses d).1
  let acc := ((pairRow tya tyb).map (·.2)).getD .f32
  match firstExc [(qa == 31 || qb == 31, .reservedField), (operandBad a tya || operandBad b tyb, .reservedField),
      (qDim a 0 != k, .reservedField), (qKind o != 2, .reservedField)] with
  | some x => .error x
  | none =>
  match early.or (firstExc
    [ (decide (qBase o ≠ 0) || decide (qCount o ≠ m * n), .reservedField),
      (dOut (decide (dRank d ≠ 2) || qEs o != tyEs (dTy d)), .reservedField),
      (decide (65536 < m) || decide (65536 < n) || decide (k % ks ≠ 0) || decide (2 ^ 20 < k), .reservedField),
      (blockBad g 64, .reservedField),
      (dOut ((cls == 1 || cls == 2 || cls == 3) && m != n), .reservedField),
      (fmtBsa fmt || fmtBsb fmt, .typeCombo), ((pairRow tya tyb).isNone, .typeCombo),
      (dOut (!drainPair (tyCode acc).toNat (dEfmt d)), .typeCombo),
      (groupsMeet a b && a != b, .bankGroup) ]) with
  | some x => .error x
  | none =>
  match late.or (firstSome [s.patAccess a none, s.patAccess b none, s.patAccess o d?, s.blockAccess g 64]) with
  | some x => .error x
  | none =>
    if zeroStride o then .error { cause := .patternDegenerate, slot := 5 } else .ok d?

/-- TGEMM (R234). -/
def opTgemm (tya tyb : BitVec 5) (y : YReg) (qa qb : QReg) (e : EAttr) : SlotOp :=
  { slot := 5, results := 0, takes := 2, gate := engineGate 2 kilnFull [qa + 1],
    run := fun s => match tgemmCheck s tya.toNat tyb.toNat qa qb with
      | .error x => .error x
      | .ok d? =>
        s.toKiln e { kilnCmd s (.tgemm tya.toNat tyb.toNat y.toNat) e qa qb with
          ds1 := d?.map (BitVec.ofNat 512), held := s.me.inRegion } [] }
def execTgemm (tya tyb : BitVec 5) (y : YReg) (qa qb : QReg) (e : EAttr) (s : State) : Host.Outcome State Fault Refusal :=
  meaning (opTgemm tya tyb y qa qb e) s

/-- A scale pattern writes one element more than once: a stride of 0 in one of its dimensions 0, 3 and 4 (R124, R215). -/
def scaleDegenerate (q : Nat) : Bool :=
  [0, 3, 4].any (fun i => decide (i < qNdim q) && decide (1 < qExt q i) && qStr q i == 0)

/-- The checks of DRAIN, with the destination's descriptor (R233). -/
def drainCheck (s : State) (bs : Bool) (tyt tyo : Nat) (qa qb : QReg) : Except Exc (Option Nat) :=
  let t := s.me
  let (a, a1, g) := (t.qNat qa, t.qNext qa, t.qNat qb)
  let n := qDim a 0
  let m := qDim a 1
  let o := codeTy tyo
  let (d?, early, late) := splitDesc (s.patDesc 2 a)
  match firstExc
    [ (qb == 31 || (bs && qa == 31), .reservedField),
      (!(spForm a || qKind a == 2) || decide (2 < qNdim a), .reservedField) ] with
  | some x => .error x
  | none =>
  match early.or (firstExc
    [ (esBad a tyo || (d?.isSome && dEfmt (d?.getD 0) != tyo), .reservedField),
      (isTy tyo && o.bits == 4 && qKind a == 1 && qStr a 0 != 1, .reservedField),
      (decide (128 < m) || decide ((if tyt = 0 then 64 else 128) < n), .reservedField),
      (blockBad g 64, .reservedField),
      (bs && (scaleBad a1 m n || decide (n % scaleCols a1 ≠ 0)), .reservedField),
      (!drainPair tyt tyo || (bs && !narrowCode tyo), .typeCombo),
      (bs && scaleCombo a1 tyo, .typeCombo) ]) with
  | some x => .error x
  | none =>
  match late.or (firstSome [s.patAccess a d?, s.blockAccess g 64, if bs then s.patAccess a1 none else none]) with
  | some x => .error x
  | none =>
    if zeroStride a ∨ (bs ∧ scaleDegenerate a1) then .error { cause := .patternDegenerate, slot := 5 } else .ok d?

/-- DRAIN (R233). Its destination stands in `pd`, its scales in `pd1`, GLZ in `ps`, the residual in `ps1`. With a tensor destination in an
open region it is held whole (R156, log 88). -/
def opDrain (z bs : Bool) (tyt tyo : BitVec 5) (qa : QReg) (y : YReg) (qb : QReg) (e : EAttr) : SlotOp :=
  { slot := 5, results := 0, takes := 2, gate := engineGate 2 kilnFull [qa],
    run := fun s => match drainCheck s bs tyt.toNat tyo.toNat qa qb with
      | .error x => .error x
      | .ok d? =>
        let t := s.me
        s.toKiln e { eCmd s (.drain z bs tyt.toNat tyo.toNat y.toNat) e with
          pd := t.qreg qa, pd1 := t.qreg (qa + 1), ps := t.qreg qb, ps1 := t.qreg (qb + 1), dd := d?.map (BitVec.ofNat 512),
          held := t.inRegion && qKind (t.qNat qa) == 2 } (if bs then [t.qNat qa, t.qNext qa] else [t.qNat qa]) }
def execDrain (z bs : Bool) (tyt tyo : BitVec 5) (qa : QReg) (y : YReg) (qb : QReg) (e : EAttr) (s : State) :
    Host.Outcome State Fault Refusal := meaning (opDrain z bs tyt tyo qa y qb e) s

/-- The checks of TCON, with both operands' descriptors (R235). -/
def tconCheck (s : State) (tya tyb : Nat) (qa qb : QReg) : Except Exc (Option Nat × Option Nat) :=
  let t := s.me
  let (a, b) := (t.qNat qa, t.qNat qb)
  let form (q : Nat) : Bool := qKind q == 2 && qBase q == 0 && qNdim q == 1 && qStr q 0 == 1
  let (da?, ea, la) := splitDesc (s.patDesc 2 a)
  let (db?, eb, lb) := splitDesc (s.patDesc 2 b)
  let (da, db) := (da?.getD 0, db?.getD 0)
  let both := da?.isSome && db?.isSome
  let fits (d? : Option Nat) (q ty : Nat) : Bool := match d? with
    | some d => qExt q 0 == dSize d && dEfmt d == ty && qEs q == tyEs (dTy d)
    | none => true
  match firstExc [(!form a || !form b, .reservedField)] with
  | some x => .error x
  | none =>
  match (ea.or eb).or (firstExc
    [ (!fits da? a tya || !fits db? b tyb, .reservedField),
      (both && (dRank da != dRank db || (List.range 6).any (fun i => dExt da i != dExt db i)), .reservedField),
      (tya != tyb || !(tya == 0 || tya == 1 || tya == 3 || tya == 4), .typeCombo),
      (fmtBsa t.ctl.fmt || fmtBsb t.ctl.fmt, .typeCombo) ]) with
  | some x => .error x
  | none =>
  match (la.or lb).or (firstSome [s.patAccess a da?, s.patAccess b db?]) with
  | some x => .error x
  | none =>
    .ok (da?, db?)

/-- TCON (R235). -/
def opTcon (i : Bool) (tya tyb : BitVec 5) (y : YReg) (qa qb : QReg) (e : EAttr) : SlotOp :=
  { slot := 5, results := 0, takes := 2, gate := engineGate 2 kilnFull [qa, qb],
    run := fun s => match tconCheck s tya.toNat tyb.toNat qa qb with
      | .error x => .error x
      | .ok (da?, db?) =>
        s.toKiln e { kilnCmd s (.tcon i tya.toNat tyb.toNat y.toNat) e qa qb with
          ds := da?.map (BitVec.ofNat 512), dd := db?.map (BitVec.ofNat 512) } [] }
def execTcon (i : Bool) (tya tyb : BitVec 5) (y : YReg) (qa qb : QReg) (e : EAttr) (s : State) : Host.Outcome State Fault Refusal :=
  meaning (opTcon i tya tyb y qa qb e) s

/-- ACC.ZERO (R227). -/
def opAccZero (y : YReg) (e : EAttr) : SlotOp :=
  { slot := 5, results := 0, takes := 2, gate := engineGate 2 kilnFull [], run := fun s => s.toKiln e (eCmd s (.accZero y.toNat) e) [] }
def execAccZero (y : YReg) (e : EAttr) (s : State) : Host.Outcome State Fault Refusal := meaning (opAccZero y e) s

/-! Tiles as typed elements (R226). -/

def Core.tileGet (k : Core) (y i j : Nat) (acc : Ty) : Nat :=
  if acc = .f64 then (k.tile y i (2 * j)).toNat + (k.tile y i (2 * j + 1)).toNat * 2 ^ 32 else (k.tile y i j).toNat

def Core.tilePut (k : Core) (y i j : Nat) (acc : Ty) (v : Nat) : Core :=
  if acc = .f64 then (k.setTile y i (2 * j) (BitVec.ofNat 32 v)).setTile y i (2 * j + 1) (BitVec.ofNat 32 (v / 2 ^ 32))
  else k.setTile y i j (BitVec.ofNat 32 v)

/-! K steps (R85). -/

/-- An operand element: a value, an element of a gathered row of zeros (R222), or poison. -/
inductive KVal where
  | val (v : Num)
  | zrow
  | bad

/-- Val of R85: `h` is the block's scale or header. -/
def kNum (fmt : Nat) (t : Ty) (h : Option Nat) (code : Nat) : Num :=
  if t = .tf32 then roundVal { mode := 1, ftz := fmtFtz fmt } .tf32 (decodeF (fmtFtz fmt) .f32 code)
  else match h with
    | some h => decodeScaled (fmtFtz fmt) fmt t h code
    | none => decodeNum (fmtFtz fmt) t code

/-- One product; a row of zeros gives +0 whatever the other operand holds. -/
def kMul : KVal → KVal → Num
  | .val a, .val b => mulN a b
  | _, _ => .fin false 0 0

/-- The exact sum of one step's products. -/
def kSum : List Num → Num
  | [] => .fin false 0 0
  | p :: r => r.foldl (addN false) p

/-- An exact integer as Int. -/
def numInt : Num → Int
  | .fin neg m e => let v : Int := (m * 2 ^ e.toNat : Nat); if neg then -v else v
  | _ => 0

/-- The accumulator after one step. -/
def kAcc (fmt : Nat) (acc : Ty) (old : Nat) (s : Num) : Nat :=
  if acc = .s32 then wrap 32 (sext 32 old + numInt s)
  else roundTo { mode := 1, ftz := fmtFtz fmt } acc (addN false (decodeF (fmtFtz fmt) acc old) s)

def KVal.isBad : KVal → Bool
  | .bad => true
  | _ => false

/-- One K step over rows and columns of a tile: (tile index, elements of the step); none where a read met poison. -/
def State.kStep (s : State) (c y : Nat) (fmt : Nat) (acc : Ty) (rows cols : List (Nat × List KVal)) : Option State :=
  if rows.any (fun r => r.2.any KVal.isBad) ∨ cols.any (fun r => r.2.any KVal.isBad) then none
  else some (s.modCore c (fun k => rows.foldl (fun k r => cols.foldl (fun k q =>
    k.tilePut y r.1 q.1 acc (kAcc fmt acc (k.tileGet y r.1 q.1 acc) (kSum ((r.2.zip q.2).map (fun p => kMul p.1 p.2))))) k) k))

/-- An element of a byte-form SP pattern as a code, none where its row is poisoned. -/
def Core.spElem (k : Core) (c q e : Nat) : Option Nat :=
  let p := elemPlace c q none e
  match p.loc with
  | .sp _ o => if k.spPoison o p.n then none else some (p.val (k.spBytes o p.n))
  | .gl _ => none

/-- A scale element's place and value (R124, R219). -/
def scalePlace (q b : Nat) : Nat := (qBase q + (scaleOff q b).toNat) % 2 ^ 64
def Core.scaleAt (k : Core) (q b : Nat) : Option Nat :=
  let a := scalePlace q b
  if k.spPoison a (qSize q) then none else some (bytesNat (k.spBytes a (qSize q)))

/-- The scale element of element (r, k) of an operand of K elements a row (R219). -/
def scaleIx (sq kk r i : Nat) : Nat := r / scaleRows sq * (kk / scaleCols sq) + i / scaleCols sq

/-- The scratchpad that element (r, k) of an operand is read from, with its scale. -/
def operandBytes (c q : Nat) (sc : Option Nat) (kk r i : Nat) : List (Nat × Nat) :=
  elemBytes c q (r * kk + i) ++ (sc.map (fun sq => (scalePlace sq (scaleIx sq kk r i), qSize sq))).toList

/-- Element (r, k) of an operand of K elements a row, under its scales if it has any. -/
def Core.operand (k : Core) (c q : Nat) (ty : Ty) (fmt : Nat) (sc : Option Nat) (kk r i : Nat) : KVal :=
  match k.spElem c q (r * kk + i) with
  | none => .bad
  | some code =>
    match sc with
    | none => .val (kNum fmt ty none code)
    | some sq =>
      match k.scaleAt sq (scaleIx sq kk r i) with
      | none => .bad
      | some h => .val (kNum fmt ty (some h) code)

/-! Sliding windows (R224, R225). -/

structure Win where
  owm : Nat
  ohm : Nat
  handle : Nat
  padl : Nat
  padt : Nat
  dw : Nat
  dh : Nat
  sw : Nat
  sh : Nat
  kw : Nat
  kh : Nat
  m : Nat
  p0 : Nat

def winOf (w : Nat) : Win :=
  { owm := fld w 111 96 + 1, ohm := fld w 95 80 + 1, handle := fld w 79 68, padl := fld w 67 64, padt := fld w 63 60,
    dw := fld w 59 57 + 1, dh := fld w 56 54 + 1, sw := fld w 53 51 + 1, sh := fld w 50 48 + 1, kw := fld w 47 44 + 1,
    kh := fld w 43 40 + 1, m := fld w 38 32 + 1, p0 := fld w 31 0 }

/-- What WinVal (R225) takes: +0, PAD, or an element of the image. -/
inductive WinPick where
  | zero | pad
  | elem (e : Nat)

def Win.pick (w : Win) (q i kk : Nat) : WinPick :=
  let (cc, ww, hh, nn) := (qExt q 0, qExt q 1, qExt q 2, qExt q 3)
  if w.kh * w.kw * cc ≤ kk then .zero
  else
    let ch := kk % cc
    let sx := kk / cc % w.kw
    let r := kk / (cc * w.kw)
    let p := w.p0 + i
    if nn * w.ohm * w.owm ≤ p then .zero
    else
      let n := p / (w.ohm * w.owm)
      let ih : Int := ((p / w.owm % w.ohm * w.sh : Nat) : Int) - w.padt + ((r * w.dh : Nat) : Int)
      let iw : Int := ((p % w.owm * w.sw : Nat) : Int) - w.padl + ((sx * w.dw : Nat) : Int)
      if ih < 0 ∨ (hh : Int) ≤ ih ∨ iw < 0 ∨ (ww : Int) ≤ iw then .pad
      else .elem (ch + cc * (iw.toNat + ww * (ih.toNat + hh * n)))

/-- WinVal (R225). PAD of a .f64 image, which has 32 bits, is extended by zeros to an element of tya: the model's choice, since R225
takes the element from the field's low bits (log 118). -/
def Core.winVal (k : Core) (c q : Nat) (ty : Ty) (fmt : Nat) (w : Win) (pad i kk : Nat) : KVal :=
  match w.pick q i kk with
  | .zero => .val (.fin false 0 0)
  | .pad => .val (kNum fmt ty none (pad % 2 ^ ty.bits))
  | .elem e => match k.spElem c q e with
    | none => .bad
    | some code => .val (kNum fmt ty none code)

/-! The Glaze (R229 to R231). -/

def gAct (w : Nat) : Nat := fld w 346 344
def gOrnd (w : Nat) : Nat := fld w 363 361
def gRes (w : Nat) : Bool := bit w 342

/-- A GLZ word the command refuses (R229, R230, R234). -/
def glzBad (tyt : Ty) (tg : Bool) (w : Nat) : Bool :=
  let int := tyt == .s32
  fld w 447 388 != 0 || bit w 371 || bit w 364 || fld w 360 356 != 0 || decide (4 < gAct w) || decide (5 < gOrnd w) ||
  (int && (gAct w != 0 || bit w 343)) || (!int && bit w 365) ||
  (tyt == .f64 && (bit w 341 || gRes w || bit w 343 || gAct w != 0)) || (tg && gRes w) ||
  (bit w 341 && fld w 340 320 % 4 != 0)

/-- The type a residual is read as (R230). -/
def resTy (tyt tyo : Ty) : Ty :=
  if tyt = .s32 then .s32 else if tyo = .f32 ∨ tyo = .bf16 ∨ tyo = .f16 then tyo else .f32

/-- A value inside the Glaze: exact, or enclosed where GELU_TANH or SILU made it irrational. There it falls short of `lim` by an amount
that depends on `u`, the size of the argument, and falls as `u` grows; `far` where that amount lies below every step of a format. -/
inductive GVal where
  | num (v : Num)
  | enc (f : Encl) (lim : Num) (u : Nat × Int) (far : Bool)

/-- Act (R230). GELU_TANH and SILU come within 2^-450 of their limit for arguments from 2^4 and 2^9 on. -/
def gActivate (act : Nat) (clo chi v : Num) : GVal :=
  let gate (wE : Bool → Nat → Int → Encl) (k : Nat) : GVal := match v with
    | .nan => .num .nan
    | .inf true => .num (.fin true 0 0)
    | .inf false => .num (.inf false)
    | .fin neg m e =>
      if m = 0 then .num v
      else .enc (gateE neg m e (wE neg m e)) (if neg then .fin true 0 0 else v) (m, e) (decide ((k : Int) ≤ (m.log2 : Int) + e))
  match act with
  | 1 => .num (maxN v (.fin false 0 0))
  | 2 => gate geluE 4
  | 3 => gate selfE 9
  | 4 => .num (minN (maxN v clo) chi)
  | _ => .num v

/-- Adds an exact term; `rd` is RD, for the sign of an exact zero (R77). -/
def gAdd (rd : Bool) (g : GVal) (r : Num) : GVal :=
  match g, r with
  | .num v, r => .num (addN rd v r)
  | .enc f l u far, .fin neg m e => .enc (addE f neg m e) (addN rd l r) u far
  | .enc .., r => .num r

/-- The output rounding (R231, R84). -/
def gRound (rc : Rc) (ty : Ty) : GVal → Nat
  | .num v => roundTo rc ty v
  | .enc f .. => roundEncl rc ty f

/-- A value for a quantiser: a number on the same side of every step of a format as the irrational one, and the numbers of two values
in the order of the values (log 24). Near its limit a value is the limit less an amount below 2^-1000 that falls as `u` grows. -/
def gNum : GVal → Num
  | .num v => v
  | .enc f lim (m, e) far =>
    if far then addN false (addN false lim (.fin true 1 (-1000))) (.fin false m (e - 1300))
    else let (lo, _) := f 1280; .fin (decide (lo < 0)) (2 * lo.natAbs + 1) (-1281)

/-- What the Glaze of one command reads. -/
structure Glz where
  w    : Nat
  tyt  : Ty
  tyo  : Ty
  fmt  : Nat

def Glz.mode (g : Glz) : Nat := if gOrnd g.w = 0 then fmtMode g.fmt else gOrnd g.w
def Glz.seed (g : Glz) : Word := BitVec.ofNat 64 (fld g.w 63 0)
def Glz.key (g : Glz) : Word := BitVec.ofNat 64 (fld g.w 127 64)
def Glz.row (g : Glz) (gi : Nat) : Nat := (fld g.w 159 128 + gi) % 2 ^ 32
def Glz.col (g : Glz) (gj : Nat) : Nat := (fld g.w 191 160 + gj) % 2 ^ 32

/-- The rounding of an output element (R231). -/
def Glz.rc (g : Glz) (gi gj : Nat) : Rc :=
  rcOf g.fmt g.mode (draw (rand g.seed (2 * 2 ^ 28) g.key (g.row gi) (g.col gj)))

/-- GlazeFloat (R230) on the tile's bits, the bias and the residual. A NaN that dropout drops gives +0, as the pseudocode's last step
has it: the model's choice beside R230's list, by which a NaN at any step gives the canonical NaN (log 118). -/
def Glz.float (g : Glz) (x : Nat) (bias res : Option Nat) (gi gj : Nat) : GVal :=
  let ftz := fmtFtz g.fmt
  let f32 (hi lo : Nat) : Num := decodeF ftz .f32 (fld g.w hi lo)
  let rd := g.mode == 4
  let v := mulN (decodeF ftz g.tyt x) (f32 223 192)
  let v := match bias with | some b => addN rd v (decodeF ftz .f32 b) | none => v
  let a := gActivate (gAct g.w) (f32 255 224) (f32 287 256) v
  let a := match res with | some r => gAdd rd a (decodeF ftz (resTy g.tyt g.tyo) r) | none => a
  if bit g.w 343 ∧ fld g.w 387 372 ≤ (rand g.seed (3 * 2 ^ 28) g.key (g.row gi) (g.col gj)).toNat / 2 ^ 48 then .num (.fin false 0 0)
  else a

/-- GlazeInt (R230), as the output's bits. -/
def Glz.int (g : Glz) (x : Nat) (bias res : Option Nat) : Nat :=
  let v := sext 32 x + (match bias with | some b => sext 32 b | none => 0) + (match res with | some r => sext 32 r | none => 0)
  wrap g.tyo.bits (if bit g.w 365 then requant v (fld g.w 370 366) (sext 32 (fld g.w 319 288)) g.tyo else satI v g.tyo)

/-- The Glaze's side inputs of an element, or what ends the command. -/
inductive Side where
  | ok (s : State) (bias res : Option Nat) (touch : List Touch)
  | cause (s : State) (c : Cause)

/-- Reads the bias and the residual of an element; `ds1` is the residual's descriptor. The bounds, the space and the handle of the residual's
pattern are checked here and as the command starts, and only where RESEN is set: the model's choice, since R215 and R233 name no
moment for a pattern that GLZ, read as the command runs, may leave unused (log 109). -/
def State.glazeSide (s : State) (c : Nat) (m : Cmd) (g : Glz) (n gi gj : Nat) : Side :=
  let ba := fld g.w 340 320 + 4 * gj
  let s := if bit g.w 341 then s.correctAll c [(ba, 4)] else s
  let k := s.core c
  let bad := bit g.w 341 && (decide (Config.spBytes < ba + 4) || k.guarded ba 4)
  if bad then .cause s .access
  else if bit g.w 341 ∧ k.spPoison ba 4 then .cause s .uncorrectable
  else
    let bias := if bit g.w 341 then some (bytesNat (k.spBytes ba 4)) else none
    if !gRes g.w then .ok s bias none []
    else
      let d := m.ds1.map BitVec.toNat
      let e := gi * n + gj
      let inside := match d with
        | none => (patByte m.ps1.toNat e).isSome
        | some d => (patTensor d m.ps1.toNat e).isSome
      let p := elemPlace c m.ps1.toNat d e
      let guard := match p.loc with
        | .sp c' o => d.isNone && (decide (Config.spBytes < o + p.n) || (s.core c').guarded o p.n)
        | .gl _ => false
      if !inside || guard then .cause s .access
      else match s.engRead c m (s.engWho c m 3) (engineAgent c 5) p with
        | .ok s bs b ts => if b then .cause s .uncorrectable else .ok s bias (some (p.signed d (p.val bs))) ts
        | .cause s k _ => .cause s k
        | .fault s .. => .cause s .access
        | .wait s _ => .cause s .access

/-- Glazes a list of elements: (tile row, tile column, gi, gj); outputs (gi, gj, value), with the lines that residuals touched. -/
def State.glazeAll (s : State) (c : Nat) (m : Cmd) (g : Glz) (y n : Nat) (es : List (Nat × Nat × Nat × Nat)) :
    State × Except Cause (List (Nat × Nat × GVal)) :=
  let r := es.foldl (fun (a : State × Except Cause (List (Nat × Nat × GVal)) × List Touch) e =>
    match a with
    | (s, .error x, ts) => (s, .error x, ts)
    | (s, .ok out, ts) =>
      let (i, j, gi, gj) := e
      (match s.glazeSide c m g n gi gj with
       | .cause s x => (s, .error x, ts)
       | .ok s bias res t2 =>
         let x := (s.core c).tileGet y i j g.tyt
         let v := if g.tyt = .s32 then GVal.num (ofInt (decodeI g.tyo (g.int x bias res))) else g.float x bias res gi gj
         (s, .ok (out ++ [(gi, gj, v)]), ts ++ t2))) (s, .ok [], [])
  (r.1.countFrames c r.2.2, r.2.1)

/-- The output's bits of a glazed element. -/
def Glz.out (g : Glz) (e : Nat × Nat × GVal) : Nat × Nat × Nat :=
  (e.1, e.2.1, if g.tyt = .s32 then roundTo {} g.tyo (gNum e.2.2) else gRound (g.rc e.1 e.2.1) g.tyo e.2.2)

/-- Ord of R231 and the distance of two outputs. -/
def ordOf (t : Ty) (v : Nat) : Int :=
  if t.isFloat then (let w : Int := (v % 2 ^ (t.bits - 1) : Nat); if v.testBit (t.bits - 1) then -w else w) else decodeI t v

def farther (t : Ty) (a b tol : Nat) : Bool :=
  (t.isFloat && isNan (decodeF false t a) != isNan (decodeF false t b)) || decide (tol < (ordOf t a - ordOf t b).natAbs)

/-- The SYM or ASYM group of two index positions of a descriptor: positions, antisymmetric, block size or 0 (R231). Of two such groups the
first decides: the model's choice, since R231 speaks of one pair (log 108). -/
def pairOf (d : Nat) : Option (Nat × Nat × Bool × Nat) :=
  (dUnits d).findSome? (fun u =>
    if (u.cls = 1 ∨ u.cls = 2) ∧ u.ix.length = 2 then
      some (lget 0 u.ix 0, lget 0 u.ix 1, u.cls == 2, if isPair d u then dBlock d else 0)
    else none)

def canonicalPair (x z : Nat) (anti : Bool) (b : Nat) : Bool :=
  if b ≠ 0 then decide (x / b < z / b) || (x / b == z / b && decide (x % b ≤ z % b)) else decide (x < z) || (x == z && !anti)

/-- Placement (R231): the patch to write, mismatches and violations. `outs`: (element, bits) in iteration order. -/
def placeOuts (c q : Nat) (d : Option Nat) (g : Glz) (outs : List (Nat × Nat)) : Patch × Nat × Nat :=
  let chk := bit g.w 347
  let tol := fld g.w 355 348
  outs.foldl (fun (a : Patch × Nat × Nat) o =>
    let (t, mis, viol) := a
    let p := elemPlace c q d o.1
    match d with
    | none => (t.put p o.2 false, mis, viol)
    | some dn =>
      let at_ (e : Nat) : List Nat := (patTensor dn q e).getD []
      let byR128 (v mis : Nat) : Patch × Nat × Nat :=
        if p.zero then (t, mis, if isZeroElem g.tyo v then viol else viol + 1) else (t.put p (p.signed d v) false, mis, viol)
      match pairOf dn with
      | none => byR128 o.2 mis
      | some (i0, i1, anti, b) =>
        let cs := at_ o.1
        let x := lget 0 cs i0
        let z := lget 0 cs i1
        if anti ∧ x = z ∧ chk then (t, if farther g.tyo o.2 0 tol then mis + 1 else mis, viol)
        else if (anti ∧ x = z) ∨ canonicalPair x z anti b then byR128 o.2 mis
        else
          let mc := (cs.set i0 z).set i1 x
          match outs.find? (fun r => at_ r.1 == mc) with
          | none => byR128 o.2 mis
          | some r =>
            let mv := if anti then applySign g.tyo r.2 else r.2
            let mis := if chk ∧ farther g.tyo o.2 mv tol then mis + 1 else mis
            if b = 0 then (t, mis, viol) else byR128 mv mis) ([], 0, 0)

/-! Commands under way. -/

/-- Ends a command with an error, the first of which stands. -/
def State.endCmd (s : State) (c : Nat) (m : Cmd) (e : Option Cause) : State :=
  s.putCmd c { m with phase := .ended, err := m.err.or e, errAt := m.cursor }

/-- An uncorrectable read of a command that targets a tile (R228). -/
def State.endPoison (s : State) (c : Nat) (m : Cmd) (y : Nat) : State :=
  (s.modCore c (fun k => { k with tPoison := tput false k.tPoison y true })).endCmd c m (some .uncorrectable)

/-- The tile at the start of MMA: zeroed under `.i`, or refused where it is poisoned (R221). -/
def State.tileStart (s : State) (c y : Nat) (i : Bool) (m : Cmd) : State :=
  if i then (s.modCore c (fun k => k.zeroTile y)).putCmd c m
  else if tget false (s.core c).tPoison y then s.endCmd c m (some .uncorrectable)
  else s.putCmd c m

/-- A descriptor an engine reads while it runs (R114): from the store, or from the descriptor table. -/
def State.descRead (s : State) (c : Nat) (m : Cmd) (h : Nat) : Got :=
  let t := s.strand c m.ctx
  match (s.core c).desc 2 m.part t.ctl.ttbase h with
  | some d => .ok s (natBytes 64 d) false []
  | none =>
    if t.ctl.ttcount ≤ h then .cause s .access (t.ctl.ttbase + 64 * h)
    else
      let (s, mixed) := s.mixSpan c m.ctx (t.ctl.ttbase + 64 * h) 64
      if mixed then .cause s .mixedSize (t.ctl.ttbase + 64 * h)
      else match s.glRead (s.engWho c m 3) (t.ctl.ttbase + 64 * h) 64 0 with
        | .ok s bs bad ts => .ok (s.countFrames c ts) bs bad []
        | g => g

/-- Parks a command on what its access waits for (R151). -/
def State.parkCmd (c : Nat) (m : Cmd) (agent rwx handle : Nat) (g : Got) : State :=
  let (s, k) := park m.part { m.recOf c agent m.cursor with rwx := rwx, handle := handle } g
  s.putCmd c { m with parked := k }

/-- The rows an index pattern names, each plus one, 0 for an index outside T; none where a read met poison (R222, R237). -/
def Core.indices (k : Core) (c q n t : Nat) : Option (List Nat) :=
  (List.range n).foldl (fun a i => match a with
    | none => none
    | some l => match k.spElem c q i with
      | none => none
      | some v => let x := sext 32 v; some (l ++ [if x < 0 ∨ (t : Int) ≤ x then 0 else x.toNat + 1])) (some [])

/-- The first part of MMA.W (R224, R225): the window block and its descriptor. A HANDLE at or past TTCOUNT ends the command with ACCESS, as
R114 has it for a handle: the model's choice, since R224 names RESERVED_FIELD for a bad block (log 118). -/
def State.winBegin (s : State) (c : Nat) (m : Cmd) (i : Bool) (tya tyb y : Nat) : State :=
  let a := blockAddr m.ps1.toNat
  let s := s.correctAll c [(a, 32)]
  let k := s.core c
  if k.spPoison a 32 then s.endPoison c m y
  else
    let w := bytesNat (k.spBytes a 32)
    let win := winOf w
    let ks := ((pairRow tya tyb).map (·.1)).getD 1
    let kk := cdiv (win.kh * win.kw * qExt m.ps.toNat 0) ks * ks
    if fld w 255 112 ≠ 0 ∨ bit w 39 ∨ qDim m.pd.toNat 0 ≠ kk then s.endCmd c m (some .reservedField)
    else match s.descRead c m win.handle with
      | .ok s bs bad _ =>
        let d := bytesNat bs
        if bad then s.endPoison c m y
        else if !descOk d ∨ dEfmt d ≠ tya then s.endCmd c m (some .reservedField)
        else s.tileStart c y i { m with phase := .active, aux := w, ds := some (BitVec.ofNat 512 d) }
      | .cause s x _ => s.endCmd c m (some x)
      | g => State.parkCmd c m 3 1 win.handle g

/-- Reads the GLZ word (R229). -/
def State.glzBegin (s : State) (c : Nat) (m : Cmd) (q : Nat) (tyt : Ty) (tg : Bool) : Except Cause Nat :=
  let k := s.core c
  let _ := m
  if k.spPoison (blockAddr q) 64 then .error .uncorrectable
  else
    let w := bytesNat (k.spBytes (blockAddr q) 64)
    if glzBad tyt tg w then .error .reservedField else .ok w

/-- What a command reads of scratchpad as it starts: an index pattern (R222), GLZ (R229). -/
def Cmd.startBytes (m : Cmd) (c : Nat) : List (Nat × Nat) :=
  match m.kind with
  | .mmaG .. => (List.range (qCount m.ps1.toNat)).flatMap (elemBytes c m.ps1.toNat)
  | .tgemm .. => [(blockAddr m.pd1.toNat, 64)]
  | .drain .. => [(blockAddr m.ps.toNat, 64)]
  | _ => []

/-- A command leaves the head's wait and starts. A DRAIN's residual is checked for form and handle here, where RESEN is set (log 109). Of a
tensor-form residual ES alone is held against the type read, and where its descriptor's EFMT is another type of that ES, EFMT gives the
elements' places and signs: the model's choice, since R230 names only ES (log 118). -/
def State.kilnBegin (s : State) (c : Nat) (m : Cmd) : State :=
  let m := { m with phase := .active }
  let s := s.correctAll c (m.startBytes c)
  match m.kind with
  | .mma i _ _ y => s.tileStart c y i m
  | .mmaG f i _ _ y =>
    (match (s.core c).indices c m.ps1.toNat (qCount m.ps1.toNat) (qDim m.ps.toNat 1) with
     | none => s.endPoison c m y
     | some l => if f ∧ l.contains 0 then s.endCmd c m (some .gatherRange) else s.tileStart c y i { m with rows := l })
  | .mmaW i tya tyb y => s.winBegin c { m with phase := .queued } i tya tyb y
  | .tcon i _ _ y => if i then s.putCmd c m else s.tileStart c y false m
  | .tgemm tya tyb y =>
    (match s.glzBegin c m m.pd1.toNat (((pairRow tya tyb).map (·.2)).getD .f32) true with
     | .error e => if e = .uncorrectable then s.endPoison c m y else s.endCmd c m (some e)
     | .ok w => s.putCmd c { m with aux := w })
  | .drain _ _ tyt tyo _ =>
    (match s.glzBegin c m m.ps.toNat (codeTy tyt) false with
     | .error e => s.endCmd c m (some e)
     | .ok w =>
       let r := m.ps1.toNat
       if gRes w ∧ (!(qKind r == 1 || qKind r == 2) ∨ qEs r ≠ tyEs (resTy (codeTy tyt) (codeTy tyo))) then
         s.endCmd c { m with aux := w } (some .reservedField)
       else if gRes w ∧ qKind r = 2 then
         (match s.descRead c m (qHandle r) with
          | .ok s bs bad _ =>
            if bad then s.endCmd c m (some .uncorrectable)
            else if !descOk (bytesNat bs) then s.endCmd c m (some .reservedField)
            else s.putCmd c { m with aux := w, ds1 := some (BitVec.ofNat 512 (bytesNat bs)) }
          | .cause s x _ => s.endCmd c m (some x)
          | g => State.parkCmd c { m with phase := .queued } 3 1 (qHandle r) g)
       else s.putCmd c { m with aux := w })
  | _ => s.putCmd c m

/-- One K step of MMA, MMA.G or MMA.W. -/
def State.mmaStep (s : State) (c : Nat) (m : Cmd) (tya tyb y : Nat) : State :=
  match pairRow tya tyb with
  | none => s.endCmd c m none
  | some (ks, acc) =>
    let k := s.core c
    let (qa, qb) := (m.ps.toNat, m.pd.toNat)
    let kk := qDim qb 0
    let at_ := (List.range ks).map (m.cursor * ks + ·)
    let sa := if (match m.kind with | .mma .. => true | _ => false) && fmtBsa m.fmt then some m.ps1.toNat else none
    let sb := if fmtBsb m.fmt then some m.pd1.toNat else none
    let win := winOf m.aux
    let pad := (m.ds.map (fun d => dPad d.toNat)).getD 0
    let rows := match m.kind with
      | .mmaG .. => (List.range m.rows.length).map (fun i =>
          let r := lget 0 m.rows i
          (i, at_.map (fun j => if r = 0 then KVal.zrow else k.operand c qa (codeTy tya) m.fmt none kk (r - 1) j)))
      | .mmaW .. => (List.range win.m).map (fun i => (i, at_.map (fun j => k.winVal c qa (codeTy tya) m.fmt win pad i j)))
      | _ => (List.range (qDim qa 1)).map (fun i =>
          (i, at_.map (fun j => k.operand c qa (codeTy tya) m.fmt sa kk i j)))
    let cols := (List.range (qDim qb 1)).map (fun i =>
      (i, at_.map (fun j => k.operand c qb (codeTy tyb) m.fmt sb kk i j)))
    let reads := at_.flatMap (fun j =>
      (match m.kind with
       | .mmaG .. => (m.rows.filter (· != 0)).flatMap (fun r => operandBytes c qa none kk (r - 1) j)
       | .mmaW .. => (List.range win.m).flatMap (fun i => match win.pick qa i j with
         | .elem e => elemBytes c qa e
         | _ => [])
       | _ => (List.range (qDim qa 1)).flatMap (fun i => operandBytes c qa sa kk i j)) ++
      (List.range (qDim qb 1)).flatMap (fun i => operandBytes c qb sb kk i j))
    let s := s.correctAll c reads
    let late := match m.kind with
      | .mmaW .. => decide (qExt qa 3 * win.ohm * win.owm < win.p0 + win.m)
      | _ => false
    let s := if late then s.modCore c (fun k => { k with tOver := tput false k.tOver y true }) else s
    match s.kStep c y m.fmt acc rows cols with
    | none => s.endPoison c m y
    | some s => s.putCmd c { m with cursor := m.cursor + 1, phase := if kk ≤ (m.cursor + 1) * ks then .ended else .active }

/-! TGEMM (R234). -/

/-- Rows and columns an output's classes leave to be visited, out of M and N. -/
def visitRows (d m : Nat) : Nat :=
  let (p, c0, _) := outClasses d
  if p = 3 then min 1 m else if c0 = 4 then (m + 1) / 2 else if c0 = 5 then m / 2 else m
def visitCols (d n : Nat) : Nat :=
  let (_, _, c1) := outClasses d
  if c1 = 4 then (n + 1) / 2 else if c1 = 5 then n / 2 else n

/-- Visited blocks, row-major. -/
def visits (d m n : Nat) : List (Nat × Nat) :=
  let (p, _, _) := outClasses d
  (List.range (cdiv (visitRows d m) 128)).flatMap (fun i => ((List.range (cdiv (visitCols d n) 128)).filter (fun j =>
    !((p == 1 || p == 2) && decide (j < i)))).map (fun j => (i, j)))

/-- Parts of a block that a tile holds in turn: first column and how many (a .f64 tile has 64 columns). -/
def blockParts (acc : Ty) (cols : Nat) : List (Nat × Nat) :=
  if acc = .f64 then [(0, min 64 cols), (64, cols - 64)].filter (fun p => p.2 != 0) else [(0, cols)]

/-- The block of an output. -/
def inBlock (b : Nat × Nat) (o : Nat × Nat × Nat) : Bool := o.1 / 128 == b.1 && o.2.1 / 128 == b.2

/-- The elements of a visited block of an output of `mm` rows and `nn` columns, in order (R234). -/
def blockElems (d mm nn : Nat) (b : Nat × Nat) : List Nat :=
  (List.range (min 128 (visitRows d mm - 128 * b.1))).flatMap (fun i =>
    (List.range (min 128 (visitCols d nn - 128 * b.2))).map (fun j => (128 * b.1 + i) * nn + 128 * b.2 + j))

/-- A patch without the bits that another, written later, has. -/
def Patch.minus (t later : Patch) : Patch :=
  if later = [] then t
  else t.filterMap (fun e =>
    let mask := e.2.2.1 &&& (255 ^^^ (tget (0, 0, false) later e.1).2.1)
    if mask = 0 then none else some (e.1, (e.2.1, mask, e.2.2.2)))

/-- Writes the outputs of a block (R231), row by row; of several elements of the command that are one stored element only the last is
written, be it of a later block (R128). -/
def State.tgemmWrite (s : State) (c : Nat) (m : Cmd) (b : Nat × Nat) (d nn : Nat) (g : Glz) (later : List Nat) (cut : Option Nat)
    (done : Cmd → Cmd) : State :=
  let qo := m.ps1.toNat
  let block := m.buf.filter (inBlock b)
  let outs := ((List.range 128).flatMap (fun i => block.filter (fun o => o.1 == 128 * b.1 + i))).map (fun o => (o.1 * nn + o.2.1, o.2.2))
  let w := s.engWho c m 3
  match s.probeAll w (m.recOf c 3 m.cursor) (outs.map (fun o => (elemPlace c qo (some d) o.1, Use.w, qHandle qo))) with
  | .park s k => s.putCmd c { m with parked := k }
  | .cause s e => s.endCmd c m (some e)
  | .ok s =>
    let (t, mis, viol) := placeOuts c qo (some d) g outs
    let t := t.minus (placeOuts c qo (some d) g (later.map (fun e => (e, 1)))).1
    let (now, rest) := m.firstPart t cut
    let (s, m, e, ts) := s.startWrite c m w (engineAgent c 5) now rest
    let m : Cmd := { m with mism := m.mism + mis, viol := m.viol + viol, buf := m.buf.filter (fun o => !inBlock b o), leftT := if rest = [] then [] else ts }
    (if rest = [] then s.countFrames c ts else s).putCmd c (done ((m.note (if viol = 0 then none else some .symViolation)).note e))

/-- A block under way ends TGEMM with an error: what finished blocks have put out still waits to be written (R240). -/
def State.tgemmStop (s : State) (c : Nat) (m : Cmd) (b : Nat × Nat) (blocks y : Nat) (e : Cause) : State :=
  let s := if e = .uncorrectable then s.modCore c (fun k => { k with tPoison := tput false k.tPoison y true }) else s
  let m : Cmd := { m.note (some e) with buf := m.buf.filter (fun o => !inBlock b o) }
  if m.buf = [] then s.endCmd c m none else s.putCmd c { m with cursor := blocks, sub := 0 }

/-- One step of TGEMM: a K step of the block part under way, and after the last one the Glaze and the placement. In a region the tile
goes on while the outputs wait in `buf` for release (R240). -/
def State.tgemmStep (s : State) (c : Nat) (m : Cmd) (tya tyb y : Nat) (cut : Option Nat) : State :=
  match pairRow tya tyb with
  | none => s.endCmd c m none
  | some (ks, acc) =>
    let (qa, qb) := (m.ps.toNat, m.pd.toNat)
    let d := (m.ds1.map BitVec.toNat).getD 0
    let (mm, nn, kk) := (qDim qa 1, qDim qb 1, qDim qb 0)
    let g : Glz := { w := m.aux, tyt := acc, tyo := dTy d, fmt := m.fmt }
    let vs := visits d mm nn
    let laterOf (b : Nat × Nat) : List Nat := ((vs.dropWhile (fun v => v != b)).drop 1).flatMap (blockElems d mm nn)
    let hold := m.held || !s.afterDone c m
    let owed := if hold then none else (vs.take m.cursor).find? (fun b => m.buf.any (inBlock b))
    match owed, vs[m.cursor]? with
    | some b, _ => s.tgemmWrite c m b d nn g (laterOf b) cut id
    | none, none => if hold ∧ m.buf ≠ [] then s else s.putCmd c { m with phase := .ended }
    | none, some (bi, bj) =>
      let rows := List.range (min 128 (visitRows d mm - 128 * bi))
      let parts := blockParts acc (min 128 (visitCols d nn - 128 * bj))
      let steps := kk / ks
      let part := m.sub / steps
      let step := m.sub % steps
      match parts[part]? with
      | some (c0, cn) =>
        let s := if step = 0 then s.modCore c (fun k =>
            let o := tget false k.tOver y
            let k := k.zeroTile y
            { k with tOver := tput false k.tOver y o }) else s
        let k := s.core c
        let at_ := (List.range ks).map (step * ks + ·)
        let ra := rows.map (fun i => (i, at_.map (fun j => k.operand c qa (codeTy tya) m.fmt none kk (128 * bi + i) j)))
        let cb := (List.range cn).map (fun i => (i, at_.map (fun j => k.operand c qb (codeTy tyb) m.fmt none kk (128 * bj + c0 + i) j)))
        let reads := at_.flatMap (fun j => rows.flatMap (fun i => operandBytes c qa none kk (128 * bi + i) j) ++
          (List.range cn).flatMap (fun i => operandBytes c qb none kk (128 * bj + c0 + i) j))
        (match (s.correctAll c reads).kStep c y m.fmt acc ra cb with
         | none => s.tgemmStop c m (bi, bj) vs.length y .uncorrectable
         | some s =>
           let m := { m with sub := m.sub + 1 }
           if step + 1 < steps then s.putCmd c m
           else
             let es := rows.flatMap (fun i => (List.range cn).map (fun j => (i, j, 128 * bi + i, 128 * bj + c0 + j)))
             (match s.glazeAll c { m with ds1 := none } g y nn es with
              | (s, .error e) => s.tgemmStop c m (bi, bj) vs.length y e
              | (s, .ok vs) => s.putCmd c { m with buf := m.buf ++ vs.map g.out }))
      | none =>
        let next (m : Cmd) : Cmd := { m with
          cursor := m.cursor + 1, sub := 0, phase := if vs.length ≤ m.cursor + 1 ∧ ¬ hold then .ended else .active }
        if hold then s.putCmd c (next m) else s.tgemmWrite c m (bi, bj) d nn g (laterOf (bi, bj)) cut next

/-! DRAIN (R233). -/

/-- The codes and scales of a block-scaled output (R72, R231): the elements in block order, then header by header. -/
def quantOuts (g : Glz) (q m n : Nat) (vs : List (Nat × Nat × GVal)) : List (Nat × Nat × Nat) × List (Nat × Nat) :=
  let (bh, bw) := (scaleRows q, scaleCols q)
  let blocks := (List.range (m / bh)).flatMap (fun bi => (List.range (n / bw)).map (fun bj => (bi, bj)))
  let rs := blocks.map (fun b =>
    let cells : List (Nat × Nat) := (List.range bh).flatMap (fun i => (List.range bw).map (fun j => (b.1 * bh + i, b.2 * bw + j)))
    let nums := cells.map (fun x => match vs[x.1 * n + x.2]? with | some v => gNum v.2.2 | none => .nan)
    let (h, codes) := quantBlock g.fmt g.tyo nums (fun i => let x := lget (0, 0) cells i; g.rc x.1 x.2)
    ((cells.zip codes).map (fun (cc : (Nat × Nat) × Nat) => (cc.1.1, cc.1.2, cc.2)), (b.1 * (n / bw) + b.2, h)))
  (rs.flatMap (·.1), rs.map (·.2))

/-- The whole of a DRAIN; every page of its destination and its residual is translated before anything is read or written. -/
def State.drainStep (s : State) (c : Nat) (m : Cmd) (z bs : Bool) (tyt tyo y : Nat) (cut : Option Nat) : State :=
  let q := m.pd.toNat
  let d := m.dd.map BitVec.toNat
  let (nn, mm) := (qDim q 0, qDim q 1)
  let g : Glz := { w := m.aux, tyt := codeTy tyt, tyo := codeTy tyo, fmt := m.fmt }
  let es := (List.range mm).flatMap (fun i => (List.range nn).map (fun j => (i, j, i, j)))
  let w := s.engWho c m 3
  let res := if gRes m.aux then es.map (fun e =>
    (elemPlace c m.ps1.toNat (m.ds1.map BitVec.toNat) (e.1 * nn + e.2.1), Use.r, qHandle m.ps1.toNat)) else []
  let dst := es.map (fun e => (elemPlace c q d (e.1 * nn + e.2.1), Use.w, if d.isSome then qHandle q else 0))
  if tget false (s.core c).tPoison y then s.endCmd c m (some .uncorrectable)
  else match s.probeAll w (m.recOf c 3 0) (res ++ dst) with
    | .park s k => s.putCmd c { m with parked := k }
    | .cause s e => s.endCmd c m (some e)
    | .ok s =>
      match s.glazeAll c m g y nn es with
      | (s, .error e) => s.endCmd c m (some e)
      | (s, .ok vs) =>
        let (outs, hdrs) := if bs then quantOuts g m.pd1.toNat mm nn vs else (vs.map g.out, [])
        let outs := es.filterMap (fun e => (outs.find? (fun o => o.1 == e.1 && o.2.1 == e.2.1)).map (fun o => (e.1 * nn + e.2.1, o.2.2)))
        let (t, mis, viol) := placeOuts c q d g outs
        let t := hdrs.foldl (fun (t : Patch) h =>
          t.put { loc := .sp c (scalePlace m.pd1.toNat h.1), n := qSize m.pd1.toNat } h.2 false) t
        let s := if z then s.modCore c (fun k => k.zeroTile y) else s
        let (now, rest) := m.firstPart t cut
        let (s, m, e, ts) := s.startWrite c m w (engineAgent c 5) now rest
        let m : Cmd := { m with mism := mis, viol := viol, leftT := if rest = [] then [] else ts }
        (if rest = [] then s.countFrames c ts else s).endCmd c ((m.note (if viol = 0 then none else some .symViolation)).note e) none

/-! TCON (R236). -/

/-- Units in layout order, by their first index position (R118). -/
def insertUnit (u : Unit_) : List Unit_ → List Unit_
  | [] => [u]
  | v :: l => if u.ix.headD 0 ≤ v.ix.headD 0 then u :: v :: l else v :: insertUnit u l

/-- The walk's units in layout order: class and index positions; none where the whole result is +0. -/
def jointUnits (d1 d2 : Nat) : Option (List Unit_) :=
  Option.map (List.foldr insertUnit []) <| (dUnits d1).foldl (fun a u =>
    match a with
    | none => none
    | some l =>
      let singles := u.ix.map (fun i => ({ cls := 0, ix := [i] } : Unit_))
      match (dUnits d2).find? (fun v => v.ix == u.ix) with
      | some v =>
        if v.cls = u.cls then some (l ++ [u])
        else if (u.cls = 1 ∧ v.cls = 2) ∨ (u.cls = 2 ∧ v.cls = 1) ∨ (u.cls = 4 ∧ v.cls = 5) ∨ (u.cls = 5 ∧ v.cls = 4) then none
        else some (l ++ singles)
      | none => some (l ++ singles)) (some [])

/-- Coordinate tuples of `k` members below `n`, non-decreasing. -/
def sortedTuples (n : Nat) : Nat → List (List Nat)
  | 0 => [[]]
  | k + 1 => (sortedTuples n k).flatMap (fun t => (List.range n).filterMap (fun v =>
      match t.getLast? with
      | none => some [v]
      | some w => if w ≤ v then some (t ++ [v]) else none))

/-- Sets coordinates of a tuple. -/
def setCoords (c : List Nat) (ix v : List Nat) : List Nat := (ix.zip v).foldl (fun c iv => c.set iv.1 iv.2) c

/-- Inserts by offset. -/
def insertOff (x : Nat × List Nat × Nat) : List (Nat × List Nat × Nat) → List (Nat × List Nat × Nat)
  | [] => [x]
  | y :: r => if y.1 ≤ x.1 then y :: insertOff x r else x :: y :: r

/-- The orbits of a unit with their weights, in ascending canonical offset; those of weight 0 left out. -/
def orbits (d : Nat) (u : Unit_) : List (List Nat × Nat) :=
  let n := dExt d (u.ix.headD 0)
  let reps := match u.cls with
    | 1 | 2 => sortedTuples n u.ix.length
    | 3 => (List.range n).map (fun z => [0, z])
    | 4 | 5 => (List.range ((n + 1) / 2)).map (fun a => [a])
    | _ => (List.range n).map (fun a => [a])
  let zero := List.replicate (dRank d) 0
  let ws := reps.filterMap (fun r =>
    let c := setCoords zero u.ix r
    let (o, _, z) := unitCanon d u c
    if z then none else some (o, r, unitMult d u c))
  (ws.foldr insertOff []).map (fun x => (x.2.1, x.2.2))

/-- The terms of the walk: coordinates and weight, the last unit fastest. -/
def tconTerms (d : Nat) (us : List Unit_) : List (List Nat × Nat) :=
  us.foldl (fun l u => let os := orbits d u
    l.flatMap (fun t => os.map (fun o => (setCoords t.1 u.ix o.1, t.2 * o.2)))) [(List.replicate (dRank d) 0, 1)]

/-- The logical linear index of coordinates. -/
def linear (d : Nat) (c : List Nat) : Nat := (List.range (dRank d)).foldl (fun l i => l * dExt d i + lget 0 c i) 0

/-- What reading a term group gives: its products, none where a read met poison, and the first refusal. -/
structure GroupRead where
  s    : State
  prod : Option (List Num) := some []
  err  : Option Cause := none
  touch : List Touch := []

/-- Reads one operand element of a term. -/
def GroupRead.elem (r : GroupRead) (c : Nat) (m : Cmd) (w : Who) (p : EPlace) (d : Nat) : GroupRead × Nat :=
  match r.s.engRead c m w (engineAgent c 5) p with
  | .ok s bs bad ts => ({ r with s := s, prod := if bad then none else r.prod, touch := r.touch ++ ts }, p.signed (some d) (p.val bs))
  | .cause s e _ => ({ r with s := s, err := r.err.or (some e) }, 0)
  | .fault s .. => ({ r with s := s, err := r.err.or (some .access) }, 0)
  | .wait s _ => ({ r with s := s, err := r.err.or (some .access) }, 0)

/-- A term's two places. -/
def termPlaces (c : Nat) (m : Cmd) (d1 d2 : Nat) (x : List Nat × Nat) : EPlace × EPlace :=
  (elemPlace c m.ps.toNat (some d1) (linear d1 x.1), elemPlace c m.pd.toNat (some d2) (linear d1 x.1))

/-- Reads a term group (R236 step 3). -/
def groupRead (s : State) (w : Who) (c : Nat) (m : Cmd) (t : Ty) (d1 d2 : Nat) (grp : List (List Nat × Nat)) : GroupRead :=
  grp.foldl (fun r x =>
    let (p1, p2) := termPlaces c m d1 d2 x
    let (r, v1) := r.elem c m w p1 d1
    let (r, v2) := r.elem c m w p2 d2
    let v := mulN (mulN (ofInt x.2) (decodeF (fmtFtz m.fmt) t v1)) (decodeF (fmtFtz m.fmt) t v2)
    { r with prod := r.prod.map (· ++ [v]) }) { s := s }

/-- The terms of a TCON command. -/
def Cmd.terms (m : Cmd) : List (List Nat × Nat) :=
  let (d1, d2) := ((m.ds.map BitVec.toNat).getD 0, (m.dd.map BitVec.toNat).getD 0)
  match jointUnits d1 d2 with
  | none => []
  | some us => tconTerms d1 us

/-- One term group of TCON (R236); the first one, or the end, zeroes the tile under `.i`. -/
def State.tconStep (s : State) (c : Nat) (m : Cmd) (i : Bool) (ty y : Nat) : State :=
  let start (s : State) : State := if i ∧ m.cursor = 0 then s.modCore c (fun k => k.zeroTile y) else s
  let t := codeTy ty
  let ks := (ksOf ty).getD 16
  let acc := if t = .f64 then Ty.f64 else .f32
  let (d1, d2) := ((m.ds.map BitVec.toNat).getD 0, (m.dd.map BitVec.toNat).getD 0)
  let terms := m.terms
  let grp := (terms.drop (m.cursor * ks)).take ks
  let w := s.engWho c m 3
  let places := grp.flatMap (fun x =>
    let (p1, p2) := termPlaces c m d1 d2 x
    [(p1, Use.r, qHandle m.ps.toNat), (p2, Use.r, qHandle m.pd.toNat)])
  if grp.isEmpty then (start s).endCmd c m none
  else match s.probeAll w (m.recOf c 3 m.cursor) places with
    | .park s k => s.putCmd c { m with parked := k }
    | .cause s e => (start s).endCmd c m (some e)
    | .ok s =>
      let r := groupRead (start s) w c m t d1 d2 grp
      let r := { r with s := r.s.countFrames c r.touch }
      match r.err, r.prod with
      | some e, _ => r.s.endCmd c m (some e)
      | none, none => r.s.endPoison c m y
      | none, some ps =>
        let s := r.s.modCore c (fun k => k.tilePut y 0 0 acc (kAcc m.fmt acc (k.tileGet y 0 0 acc) (kSum ps)))
        s.putCmd c { m with cursor := m.cursor + 1, phase := if terms.length ≤ (m.cursor + 1) * ks then .ended else .active }

/-! Events of the matrix engine. -/

/-- One step of the command at the head; with `cut`, only the first 16-byte pieces of what it writes, the rest at its next step (R304). -/
def State.kilnStep (s : State) (c : Nat) (m : Cmd) (cut : Option Nat := none) : State :=
  if m.parked.isSome then s
  else if m.left ≠ [] then
    match s.writeLeft c m (s.engWho c m 3) (engineAgent c 5) cut with
    | (s, none, _) => s
    | (s, some n, ts) => (s.countFrames c ts).putCmd c (if m.ended then { n with phase := .ended } else n)
  else if m.phase ≠ .active then s
  else match m.kind with
    | .mma _ tya tyb y => s.mmaStep c m tya tyb y
    | .mmaG _ _ tya tyb y => s.mmaStep c m tya tyb y
    | .mmaW _ tya tyb y => s.mmaStep c m tya tyb y
    | .tgemm tya tyb y => s.tgemmStep c m tya tyb y cut
    | .tcon i ty _ y => s.tconStep c m i ty y
    | .drain z bs tyt tyo y => s.drainStep c m z bs tyt tyo y cut
    | .accZero y => (s.modCore c (fun k => k.zeroTile y)).endCmd c m none
    | _ => s.endCmd c m none

/-- Runs up to `n` steps of the head of the matrix-engine queue. -/
def kilnRun (c : Nat) : Nat → State → State
  | 0, s => s
  | n + 1, s => match (s.core c).kiln.head? with
    | some m => kilnRun c n (s.kilnStep c m)
    | none => s

/-- The head of the matrix-engine queue starts, or goes on after a boundary, for up to `steps` steps and at least one: a tile is never
seen zeroed before the first of them (R206, R213, R239). -/
def State.kilnStart (s : State) (c steps : Nat) : State :=
  match (s.core c).kiln.head? with
  | none => s
  | some m =>
    let s := if s.cmdReady c m then s.kilnBegin c m else s
    kilnRun c (max 1 steps) s

/-- SYMSTAT (R232). -/
def symstat (m : Cmd) (late : Bool) : Nat :=
  ((m.err.map Cause.code).getD 0) * 2 ^ 56 + min m.mism 65535 * 2 ^ 40 + min m.viol 65535 * 2 ^ 24 + (if late then 2 else 0) + 1

/-- A command of the matrix-engine queue completes: SYMSTAT, what a keep took, the token (R214, R232, R325). -/
def State.kilnEnd (s : State) (c : Nat) : State :=
  match dueCmd (s.core c).kiln with
  | none => s
  | some m =>
      let failed := m.phase = .queued
      let stat (s : State) (q y : Nat) : State :=
        if failed ∨ m.ended then s
        else s.modCore c (fun k => k.spWrite (blockAddr q + 56) (natBytes 8 (symstat m (tget false k.tOver y))))
      let s := match m.kind with
        | .tgemm _ _ y => stat s m.pd1.toNat y
        | .drain _ _ _ _ y => stat s m.ps.toNat y
        | _ => s
      let k := s.core c
      let s := s.completeCmd c m (if failed then some .tokenError else m.err)
      match m.kind with
      | .keepY id mask => s.kept c m.ctx id ((maskList 8 mask).map (fun y =>
          KeepEntry.y y ((k.tiles.filter (fun e => e.1 / 16384 == y)).map (fun e => (e.1 % 16384, e.2))) (tget false k.tPoison y) (tget false k.tOver y)))
      | _ => s

end Sys2Proof.Machine
end

