-- ==== Sys2Proof/Machine/Gather.lean ====
section
/-! DEFINITION. Gather and scatter, performed row by row in the Shunter's gather lane (R213 to R216, R237 to R240), and the
events that start and complete the head of either queue. -/

namespace Sys2Proof.Machine

/-! Checks at issue (R215, R237). -/

/-- What the checks find: descriptors of destination and source, and whether the whole source is read first (R149). -/
structure GatherPlan where
  dd   : Option Nat
  ds   : Option Nat
  move : Bool
  deriving DecidableEq, Repr

/-- The checks of GATH and SCAT: `t` and `r` are the table and the rows, `w` the one that is written. -/
def gatherPlan (s : State) (ty : Ty) (qd qs qx : Nat) (scat : Bool) : Except Exc GatherPlan :=
  let bad (c : Cause) : Except Exc GatherPlan := .error { cause := c, slot := 5 }
  let (tab, row) := if scat then (qd, qs) else (qs, qd)
  let form (q : Nat) : Bool := (qKind q == 1 || qKind q == 2) && decide (qNdim q ≤ 2) && qEs q == tyEs ty
  let (dd?, ed, ld) := splitDesc (s.patDesc 1 qd)
  let (ds?, es, ls) := splitDesc (s.patDesc 1 qs)
  let width (d : Option Nat) : Bool := match d with | some d => tyEs (dTy d) != tyEs ty | none => false
  match firstExc
    [ (!form qd || !form qs || !spForm qx || qEs qx != 3, .reservedField),
      (decide (2 ^ 20 < qCount qx) || qDim row 1 != qCount qx || qDim row 0 != qDim tab 0, .reservedField) ] with
  | some x => .error x
  | none =>
  match ed.or (es.or (firstExc [(width dd? || width ds?, .reservedField)])) with
  | some x => .error x
  | none =>
  match ld.or (ls.or (firstSome [s.patAccess qd dd?, s.patAccess qs ds?, s.patAccess qx none])) with
  | some x => .error x
  | none =>
    if zeroStride qd ∨ qStr qd 0 = 0 then bad .patternDegenerate
    else match overlap s.cur qd qs dd? ds? with
      | .refused => bad .copyOverlap
      | .ordinary => .ok { dd := dd?, ds := ds?, move := false }
      | .memmove => .ok { dd := dd?, ds := ds?, move := true }

def gathFull (s : State) : Bool := decide (8 ≤ (s.core s.cur).gath.length)

/-- Issue of a gather or scatter: the index pattern stands in `ps1`. -/
def runGather (kind : CmdKind) (ty : Ty) (scat : Bool) (qd qs qx : QReg) (e : EAttr) (s : State) : Res :=
  let t := s.me
  match gatherPlan s ty (t.qNat qd) (t.qNat qs) (t.qNat qx) scat with
  | .error x => .error x
  | .ok p =>
    if s.reused e then raise 5 .tokenReuse e.kp.toNat
    else
      let m := { eCmd s kind e with
        pd := t.qreg qd, ps := t.qreg qs, ps1 := t.qreg qx, dd := p.dd.map (BitVec.ofNat 512), ds := p.ds.map (BitVec.ofNat 512),
        down := p.move, held := t.inRegion && toGlobal (t.qNat qd) }
      ok (s.enqueue m e [t.qNat qd] (fun m k => { k with gath := k.gath ++ [m] }))

/-- GATH (R237). -/
def opGath (f : Bool) (ty : Ty) (qd qs qx : QReg) (e : EAttr) : SlotOp :=
  { slot := 5, results := 0, gate := engineGate 1 gathFull [qd, qs], run := runGather (.gath f ty) ty false qd qs qx e }
def execGath (f : Bool) (ty : Ty) (qd qs qx : QReg) (e : EAttr) (s : State) : Host.Outcome State Fault Refusal :=
  meaning (opGath f ty qd qs qx e) s

/-- SCAT (R237). -/
def opScat (add f : Bool) (ty : Ty) (qd qs qx : QReg) (e : EAttr) : SlotOp :=
  { slot := 5, results := 0, gate := engineGate 1 gathFull [qd, qs], run := runGather (.scat add f ty) ty true qd qs qx e }
def execScat (add f : Bool) (ty : Ty) (qd qs qx : QReg) (e : EAttr) (s : State) : Host.Outcome State Fault Refusal :=
  meaning (opScat add f ty qd qs qx e) s

/-! Rows (R238). -/

def Cmd.isScat (m : Cmd) : Bool := match m.kind with | .scat .. => true | _ => false
def Cmd.isAdd (m : Cmd) : Bool := match m.kind with | .scat a .. => a | _ => false
def Cmd.isF (m : Cmd) : Bool := match m.kind with | .gath f _ => f | .scat _ f _ => f | _ => false
def Cmd.gTy (m : Cmd) : Ty := match m.kind with | .gath _ t => t | .scat _ _ t => t | _ => .b8
/-- Elements of a row, rows of the table, rows in all. -/
def Cmd.gL (m : Cmd) : Nat := qDim m.pd.toNat 0
def Cmd.gT (m : Cmd) : Nat := qDim (if m.isScat then m.pd else m.ps).toNat 1
def Cmd.gR (m : Cmd) : Nat := qCount m.ps1.toNat

/-- Source and destination elements of row `r`, whose index is `ix`. -/
def Cmd.rowElems (m : Cmd) (r ix : Nat) : List (Nat × Nat) :=
  let l := m.gL
  (List.range l).map (fun j => if m.isScat then (r * l + j, ix * l + j) else (ix * l + j, r * l + j))

/-- Places of row `r` with their uses. -/
def Cmd.rowPlaces (m : Cmd) (c r : Nat) : List (EPlace × Use × Nat) :=
  let n := lget 0 m.rows r
  let (ds, dd) := (m.ds.map BitVec.toNat, m.dd.map BitVec.toNat)
  let es := m.rowElems r (n - 1)
  let src := if n = 0 ∨ m.down then [] else es.map (fun e => (elemPlace c m.ps.toNat ds e.1, Use.r, if ds.isSome then qHandle m.ps.toNat else 0))
  let dst := if n = 0 ∧ m.isScat then [] else
    es.map (fun e => (elemPlace c m.pd.toNat dd e.2, (if m.isAdd then Use.rw else Use.w), if dd.isSome then qHandle m.pd.toNat else 0))
  src ++ dst

/-- What a row's reads give, element by element: source, destination, value, poison. -/
structure RowRead where
  s     : State
  vals  : List (Nat × Nat × Nat × Bool) := []
  err   : Option Cause := none
  touch : List Touch := []

/-- How many elements of row `r` are read: none of a row of zeros, or of one that was read ahead. -/
def Cmd.rowLen (m : Cmd) (r : Nat) : Nat := if lget 0 m.rows r = 0 ∨ m.down then 0 else m.gL

/-- Reads the next `k` source elements of row `r`, after those that have been read (R304). -/
def State.rowRead (s : State) (c : Nat) (m : Cmd) (w : Who) (r k : Nat) : RowRead :=
  let n := lget 0 m.rows r
  let d := m.ds.map BitVec.toNat
  let es := m.rowElems r (n - 1)
  if n = 0 then { s := s, vals := if m.isScat then [] else es.map (fun e => (e.1, e.2, 0, false)) }
  else if m.down then
    { s := s,
      vals := es.filterMap (fun e => (m.buf.find? (fun b => b.1 == e.1)).map (fun b => (e.1, e.2, b.2.1, b.2.2 == 1))),
      touch := lget [] m.seen r,
      err := if es.any (fun e => m.buf.any (fun b => b.1 == e.1 && b.2.2 == 1)) then some .uncorrectable else none }
  else
    ((es.drop m.taken).take k).foldl (fun a e =>
      let p := elemPlace c m.ps.toNat d e.1
      match a.s.engRead c m w (engineAgent c 4) p with
        | .ok s bs bad ts =>
          { a with s := s, vals := a.vals ++ [(e.1, e.2, p.signed d (p.val bs), bad)], touch := a.touch ++ ts,
                   err := a.err.or (if bad then some .uncorrectable else none) }
        | .cause s k _ => { a with s := s, err := a.err.or (some k) }
        | .fault s .. => { a with s := s }
        | .wait s _ => { a with s := s }) { s := s, vals := m.got, touch := m.leftT }

/-- The flat address of an element (R79, R113): a tensor's elements lie at virtual addresses. -/
def EPlace.flat (p : EPlace) : Nat :=
  match p.loc with
  | .gl va => va
  | .sp .. => p.x

/-- A row's bytes without those of stored elements of a tensor that later rows write too: only the last is written (R128). -/
def Cmd.lastOf (m : Cmd) (c r : Nat) (t : Patch) : Patch :=
  match m.dd.map BitVec.toNat with
  | none => t
  | some d =>
    let alone := unshared m.pd.toNat (some d)
    let ix := lget 0 m.rows r
    let later := ((List.range (m.gR - (r + 1))).map (r + 1 + ·)).filter (fun i =>
      let n := lget 0 m.rows i
      if m.isScat then n != 0 && (!alone || n == ix) else !alone)
    t.without (later.flatMap (fun i => (m.rowElems i (lget 0 m.rows i - 1)).map (fun e => elemPlace c m.pd.toNat (some d) e.2)))

/-- Adds elements to a row of the table (R237). A sum of SCAT.add draws under the RSEED of its issue as seed, with the number of the source
element as the element's index: the model's choice, since R79 leaves both to the entry and R237 gives x alone (log 111). -/
def State.rowAdd (c : Nat) (m : Cmd) (w : Who) (a : RowRead) : Wrote :=
  let d := m.dd.map BitVec.toNat
  let ty := m.gTy
  a.vals.foldl (fun (o : Wrote) v =>
    let p := elemPlace c m.pd.toNat d v.2.1
    match o.1.placeRead w p with
    | .ok s bs bad ts =>
      let dr := draw (rand m.rseed (4 * 2 ^ 28) (BitVec.ofNat 64 p.flat) (v.1 / 2 ^ 32) (v.1 % 2 ^ 32))
      let n := combine .add ty (rcOf m.fmt (fmtMode m.fmt) dr) (p.signed d (p.val bs)) v.2.2.1
      if p.zero then (s, o.2.1.or (if isZeroElem ty n then none else some .symViolation), o.2.2)
      else
        let (s, e, t2) := s.writePatch w (s.mixOn c m) (engineAgent c 4) (Patch.put [] p (p.signed d n) (v.2.2.2 || bad))
        (s, (o.2.1.or (if bad then some .uncorrectable else none)).or e, o.2.2 ++ ts ++ t2)
    | .cause s k _ => (s, o.2.1.or (some k), o.2.2)
    | .fault s .. => (s, o.2.1, o.2.2)
    | .wait s _ => (s, o.2.1, o.2.2)) (a.s, a.err, a.touch)

/-- The bytes that row `r` writes, and whether an element may not be written (R128, R237). -/
def Cmd.rowPatch (m : Cmd) (c r : Nat) (a : RowRead) : Patch × Bool :=
  let d := m.dd.map BitVec.toNat
  let ps := a.vals.map (fun v => (v, elemPlace c m.pd.toNat d v.2.1))
  (m.lastOf c r (ps.foldl (fun (t : Patch) v => t.put v.2 (v.2.signed d v.1.2.2.1) v.1.2.2.2) []),
   d.isSome && ps.any (fun v => v.2.zero && !isZeroElem m.gTy v.1.2.2.1))

/-- Source elements of the rows that name a row of the table. -/
def Cmd.sources (m : Cmd) : List (List Nat) :=
  (List.range m.gR).map (fun r => let n := lget 0 m.rows r; if n = 0 then [] else (m.rowElems r (n - 1)).map (·.1))

/-- Reads the source elements of every row before any is written, where the patterns overlap as in a memmove (R149). -/
def State.rowsAhead (s : State) (c : Nat) (m : Cmd) (w : Who) : State × Cmd :=
  let d := m.ds.map BitVec.toNat
  m.sources.foldl (fun (a : State × Cmd) es =>
    let (s, m, ts) := es.foldl (fun (b : State × Cmd × List Touch) e =>
      let p := elemPlace c m.ps.toNat d e
      match b.1.engRead c m w (engineAgent c 4) p with
      | .ok s bs bad ts => (s, { b.2.1 with buf := b.2.1.buf ++ [(e, p.signed d (p.val bs), if bad then 1 else 0)] }, b.2.2 ++ ts)
      | .cause s k _ => (s, b.2.1.note (some k), b.2.2)
      | .fault s .. => (s, b.2.1, b.2.2)
      | .wait s _ => (s, b.2.1, b.2.2)) (a.1, a.2, [])
    (s, { m with seen := m.seen ++ [ts] })) (s, m)

/-- The head of the gather queue starts: its indices are read, and checked under `.f` (R237). -/
def State.gathBegin (s : State) (c : Nat) (m : Cmd) : State :=
  let s := s.stallS c 0 (spPlaces ((List.range m.gR).map (fun i => (elemPlace c m.ps1.toNat none i, Use.r, 0))))
  let s := s.correctAll c ((List.range m.gR).flatMap (elemBytes c m.ps1.toNat))
  match (s.core c).indices c m.ps1.toNat m.gR m.gT with
  | none => s.endCmd c m (some .uncorrectable)
  | some l =>
    if m.isF ∧ l.contains 0 then s.endCmd c m (some .gatherRange)
    else
      let m := { m with phase := .active, rows := l }
      if !m.down then s.putCmd c m
      else
        let w := s.engWho c m 4
        let ps := m.sources.flatMap (fun es => es.map (fun e =>
          (elemPlace c m.ps.toNat (m.ds.map BitVec.toNat) e, Use.r, if m.ds.isSome then qHandle m.ps.toNat else 0)))
        match s.probeAll w (m.recOf c 4 0) ps with
        | .park s k => s.putCmd c { m with phase := .queued, parked := k }
        | .cause s e => s.endCmd c m (some e)
        | .ok s =>
          let (s, m) := s.rowsAhead c m w
          s.putCmd c m

/-- A command past its row. -/
def Cmd.nextRow (m : Cmd) : Cmd :=
  { m with cursor := m.cursor + 1, left := [], leftT := [], clean := [], got := [], taken := 0, rmw := 0,
           phase := if m.ended || decide (m.gR ≤ m.cursor + 1) then .ended else .active }

/-- One row, whole or not at all (R238); with `cut`, a part of it (`Turn.part`), the rest at its next events (R304). -/
def State.gathStep (s : State) (c : Nat) (m : Cmd) (cut : Option Nat := none) : State :=
  if m.phase ≠ .active ∨ m.parked.isSome then s
  else
    let w := s.engWho c m 4
    let r := m.cursor
    if m.left ≠ [] then
      match s.writeLeft c m w (engineAgent c 4) cut with
      | (s, none, _) => s
      | (s, some n, ts) => (s.countTouches c ts).putCmd c n.nextRow
    else match s.probeAll w (m.recOf c 4 m.cursor) (m.rowPlaces c r) with
    | .park s k => s.putCmd c { m with parked := k }
    | .cause s e => s.endCmd c m (some e)
    | .ok s =>
      let cut := if m.depth = 0 then cut else none
      let todo := m.rowLen r - m.taken
      let k := min todo (cut.getD todo)
      let a := s.rowRead c m w r k
      let m := m.note a.err
      if k < todo then
        (a.s.stallS c 0 (spPlaces ((m.rowPlaces c r).filter (fun p => p.2.1 == .r)))).putCmd c { m with got := a.vals, taken := m.taken + k, leftT := a.touch }
      else
        let at_ := spPlaces (m.rowPlaces c r)
        let cut := cut.map (· - todo)
        let m : Cmd := { m with taken := m.rowLen r }
        if m.isAdd then
          let n := cut.getD a.vals.length
          let (s, e, ts) := State.rowAdd c m w { a with vals := (a.vals.drop m.rmw).take n }
          let s := s.stallS c 0 at_
          if m.rmw + n < a.vals.length then s.putCmd c { m.note e with got := a.vals, rmw := m.rmw + n, leftT := ts }
          else (s.countTouches c ts).putCmd c (m.note e).nextRow
        else
          let (t, sym) := m.rowPatch c r a
          let (now, rest) := m.firstPart t cut
          let (s, m, e, ts) := a.s.startWrite c m w (engineAgent c 4) now rest
          let m := (m.note (if sym then some .symViolation else none)).note e
          let s := s.stallS c 0 at_
          if rest ≠ [] then s.putCmd c { m with leftT := a.touch ++ ts }
          else (s.countTouches c (a.touch ++ ts)).putCmd c m.nextRow

/-- A command of the gather queue completes; SHERR records an error of it, as of every command of the Shunter (R153). -/
def State.gathEnd (s : State) (c : Nat) : State :=
  match dueCmd (s.core c).gath with
  | none => s
  | some m =>
      let failed := m.phase = .queued
      let err := if failed then some Cause.tokenError else m.err
      let s := match err with
        | some e => if m.ended then s else s.modStrand c m.ctx (fun t => { t with ctl := { t.ctl with sherr := sherrWord e m.kp (if failed then 0 else m.errAt) } })
        | none => s
      s.completeCmd c m err

/-! Events. -/

/-- ENGINE_COMMAND_START (R213): the head of the gather queue or of the matrix-engine queue, for up to `steps` steps. -/
def execEngineCommandStart (c : Nat) (gather : Bool) (steps : Nat) (s : State) : Host.Outcome State Fault Refusal :=
  .next (if (s.core c).stopped then s else if gather then
      (match (s.core c).gath.head? with
       | some m => if s.cmdReady c m then s.gathBegin c m else s
       | none => s)
    else s.kilnStart c steps)

/-- ENGINE_COMMAND_COMPLETE (R213, R214). -/
def execEngineCommandComplete (c : Nat) (gather : Bool) (s : State) : Host.Outcome State Fault Refusal :=
  .next (if gather then s.gathEnd c else s.kilnEnd c)

/-- GATHER_ROW (R238): the next row of the head of the gather queue. -/
def execGatherRow (c : Nat) (s : State) : Host.Outcome State Fault Refusal :=
  .next (if (s.core c).stopped then s else match (s.core c).gath.head? with
    | some m => s.gathStep c m
    | none => s)

/-- A part of what an engine of a core writes next, as other agents may see it (R304, R321): command `i` of its Shunter, after those the head of
its gather queue, then the head of its matrix-engine queue. -/
def State.unitPart (s : State) (c i n : Nat) : State :=
  let k := s.core c
  let away := (s.awayTrigs c).length
  if k.stopped then s
  else if i < k.shunter.length + away then s.onShunter c i (fun m s => s.sector c m (some n))
  else if i = k.shunter.length + away then (match k.gath.head? with
    | some m => s.gathStep c m (some n)
    | none => s)
  else match k.kiln.head? with
    | some m => s.kilnStep c m (some n)
    | none => s

end Sys2Proof.Machine
end

