-- ==== Sys2Proof/Machine/Channels.lean ====
section
/-! DEFINITION. Channels: the table of a gang (R244 to R248), the commands of the channel engine (R249 to R254, R260, R261,
R264) and the arrival of payloads (R248, R260, R262, R263). -/

namespace Sys2Proof.Machine

/-! Channel entries (R244, R246). -/

def chGroup (e : Nat) : Nat := fld e 511 448
def chStage (e : Nat) : Nat := fld e 447 384
def chPgidx (e : Nat) : Nat := fld e 383 364
def chPnode (e : Nat) : Nat := fld e 363 350
def chPch (e : Nat) : Nat := fld e 349 344
/-- 0 SELF, 1 ARRAY, 2 NODE, 3 GROUP -/
def chPkind (e : Nat) : Nat := fld e 343 342
/-- 0 P2P, 1 RED, 2 FWD -/
def chMode (e : Nat) : Nat := fld e 341 340
/-- Staging space: GL if set. -/
def chSas (e : Nat) : Bool := bit e 339
def chDepth (e : Nat) : Nat := fld e 338 333 + 1
def chShape (e : Nat) : Nat := fld e 332 317 + 1
def chRty (e : Nat) : Nat := fld e 316 312
def chRop (e : Nat) : Nat := fld e 311 308
def chNsk (e : Nat) : Nat := fld e 307 306
def chValid (e : Nat) : Bool := bit e 0

/-- The element type; `.b8` for a code that names none. -/
def chTy (e : Nat) : Ty := (tyOf (BitVec.ofNat 5 (chRty e))).getD .b8

/-- Elements of a payload. -/
def chElems (e : Nat) : Nat := chShape e / (max (chTy e).bits 8 / 8)

/-- NC, the payload's room, SB and a slot's address (R246). -/
def chNc (e : Nat) : Nat := match chNsk e with
  | 1 => chElems e
  | 2 => cdiv (chElems e) 32
  | _ => 0
def chPay (e : Nat) : Nat := 16 * cdiv (chShape e) 16
def chSb (e : Nat) : Nat := chPay e + 16 * cdiv (2 * chNc e) 16
def chSlot (e i : Nat) : Nat := chStage e + i * chSb e

/-! Endpoints and groups. -/

/-- Entry `n` of a launch's channel table. -/
def State.chan (s : State) (p lid n : Nat) : Nat := (tget 0 (s.launch p lid).chtab n).toNat

def State.ep (s : State) (p lid g n : Nat) : Endpoint := tget {} ((s.launch p lid).gang g).ends n
def State.modEp (s : State) (p lid g n : Nat) (f : Endpoint → Endpoint) : State :=
  s.modGang p lid g (fun k => { k with ends := tput {} k.ends n (f (tget {} k.ends n)) })

/-- The group of a launch's channel (R245). -/
def State.group (s : State) (p lid n : Nat) : Option Group := (s.part p).groups.find? (fun g => g.lid == lid && g.ch == n)
def State.modGroup (s : State) (p lid n : Nat) (f : Group → Group) : State :=
  s.modPart p (fun q => { q with groups := q.groups.map (fun g => if g.lid = lid ∧ g.ch = n then f g else g) })

/-- The rank of a gang of a node (R245). -/
def Group.rank (k : Group) (node g : Nat) : Option Nat := lfind (fun m => m.1 == node && m.2.1 == g) k.members
def Group.member (k : Group) (r : Nat) : Nat × Nat × Bool := lget (0, 0, false) k.members r

/-- Whether steps from `st` on use SWITCH (R257). -/
def Group.switches (k : Group) (st : Nat) : Bool := ((k.trans.find? (fun t => decide (t.1 ≤ st))).map (·.2)).getD false

/-- Counts are free-running in 32 bits (R248). -/
def up32 (n : Nat) : Nat := (n + 1) % 2 ^ 32
def sub32 (a b : Nat) : Nat := (a + 2 ^ 32 - b) % 2 ^ 32

/-- The channel a command names. -/
def CmdKind.chan : CmdKind → Nat
  | .chSend n | .chRecv n _ | .chRed _ _ n | .chFwd n | .chStat n => n
  | _ => 0

/-! Issue (R249, R250). -/

/-- The span of a channel, as a scope code (R250). -/
def chSpan (e cores : Nat) : Nat :=
  match chPkind e with
  | 0 => if cores ≤ 1 then 1 else 2
  | 1 => 4
  | _ => 5

/-- Whether an instruction fits its entry's MODE (R252 to R254, R260). -/
def State.chFits (s : State) (e : Nat) (k : CmdKind) : Bool :=
  let t := s.me
  match k with
  | .chSend _ => chMode e == 0
  | .chRed o ty _ => chMode e == 1 && chRop e == (ropCode o).toNat && chRty e == (tyCode ty).toNat
  | .chFwd _ => chMode e == 2
  | .chRecv n _ => chMode e != 1 || (match s.group t.part t.lid n with
      | some k => (match k.rank s.node t.gang with
          | some r => (k.member r).2.2
          | none => false)
      | none => false)
  | _ => true

/-- A receive with counts (R253). -/
def chCounts (e : Nat) (k : CmdKind) : Bool := match k with
  | .chRecv _ rel => !rel && chNsk e != 0
  | _ => false

/-- The patterns a command uses: none for `.rel`, and the counts' pattern after the payload's (R253). -/
def chPats (e : Nat) (k : CmdKind) (q : QReg) : List QReg :=
  match k with
  | .chRecv _ true => []
  | _ => if chCounts e k then [q, q + 1] else [q]

/-- The form and the length a command's pattern must have (R250, R253, R261). -/
def chFormOk (e : Nat) (k : CmdKind) (img : Nat) (counts : Bool) : Bool :=
  let some_ := qKind img == 1 || qKind img == 2
  match k with
  | .chStat _ => qKind img == 1 && qEs img == 4 && qCount img == 4
  | _ => if counts then some_ && qEs img == 2 && qCount img == chNc e else some_ && qCount img * qSize img == chShape e

/-- The first cause of a channel command at issue, and the patterns' descriptors (R250). -/
def chPlan (s : State) (k : CmdKind) (q : QReg) (e : EAttr) : Except Exc (List (Option Nat)) :=
  let t := s.me
  let en := s.chan t.part t.lid k.chan
  let bad (c : Cause) : Except Exc (List (Option Nat)) := .error { cause := c, slot := 5 }
  let qs := chPats en k q
  let imgs := qs.map (fun r => (t.qreg r).toNat)
  let effect := match k with | .chSend _ | .chRed .. | .chFwd _ => t.frames != [] | _ => false
  let dest := match k with | .chRecv .. | .chStat _ => true | _ => false
  if effect then bad .regionEffect
  else if !chValid en ∨ !s.chFits en k ∨ (scopeCode e.sc).toNat < chSpan en (s.launch t.part t.lid).c then bad .reservedField
  else if e.kp ≠ 0 ∧ (eConsumed e).contains e.kp.toNat then bad .reservedField
  else if (chCounts en k ∧ q = 31) ∨ !((List.range imgs.length).all (fun i => chFormOk en k (lget 0 imgs i) (i == 1))) then
    bad .reservedField
  else
    let ds := imgs.map (fun i => s.patDesc 1 i)
    match ds.findSome? (fun d => match d with | .error x => some x | .ok _ => none) with
    | some x => .error x
    | none =>
      let ds := ds.map (fun d => match d with | .ok d => d | .error _ => none)
      let pairs := imgs.zip ds
      if pairs.any (fun p => match p.2 with | some d => tyEs (dTy d) != qEs p.1 | none => false) then bad .reservedField
      else match pairs.findSome? (fun p => s.patAccess p.1 p.2) with
        | some x => .error x
        | none =>
          if dest ∧ imgs.any zeroStride then bad .patternDegenerate
          else if s.reused e then .error { cause := .tokenReuse, aux := e.kp.toNat, slot := 5 }
          else .ok ds

/-- A receive that has completed and whose release a region holds (R264): no entry of the queue. -/
def Cmd.owed (m : Cmd) : Bool := m.sub == 9

/-- The queue of 8 is full (R249). -/
def chanFull (s : State) : Bool := decide (8 ≤ ((s.core s.cur).chans.filter (fun m => !m.owed)).length)

/-- A receive of a region whose rollback followed another strand's receive of the channel: what it receives is undefined (R264). -/
def Endpoint.messed (p : Endpoint) (sid depth : Nat) : Bool :=
  p.mess.any (fun a => a.1 == sid && a.2.2 && decide (a.2.1 ≤ depth))

/-- A channel command as a slot operation; `viol` marks a receive whose payload is undefined (R264). -/
def opChan (k : CmdKind) (q : QReg) (e : EAttr) : SlotOp :=
  { slot := 5, results := 0,
    gate := fun s => engineGate 1 chanFull (chPats (s.chan s.me.part s.me.lid k.chan) k q) s,
    run := fun s =>
      match chPlan s k q e with
      | .error x => .error x
      | .ok ds =>
        let t := s.me
        let img (i : Nat) : Option QWord := (lget none ds i).map (BitVec.ofNat 512)
        let dest := match k with | .chRecv _ false | .chStat _ => true | _ => false
        let qs := chPats (s.chan t.part t.lid k.chan) k q
        let far := qs.any (fun r => toGlobal (t.qreg r).toNat)
        let c := eCmd s k e
        let n := k.chan
        let m : Cmd :=
          if dest then { c with pd := t.qreg q, pd1 := if 1 < qs.length then t.qreg (q + 1) else 0, dd := img 0, dd1 := img 1,
                                held := t.inRegion && far, viol := if (s.ep t.part t.lid t.gang n).messed t.sid c.depth then 1 else 0 }
          else { c with ps := t.qreg q, ds := img 0 }
        ok (s.enqueue m e (if dest then qs.map (fun r => (t.qreg r).toNat) else []) (fun m k => { k with chans := k.chans ++ [m] })) }

/-- CH.SEND (R252). -/
def opChSend (n : NReg) (q : QReg) (e : EAttr) : SlotOp := opChan (.chSend n.toNat) q e
def execChSend (n : NReg) (q : QReg) (e : EAttr) (s : State) : Host.Outcome State Fault Refusal := meaning (opChSend n q e) s

/-- CH.RECV (R253). -/
def opChRecv (n : NReg) (q : QReg) (e : EAttr) : SlotOp := opChan (.chRecv n.toNat false) q e
def execChRecv (n : NReg) (q : QReg) (e : EAttr) (s : State) : Host.Outcome State Fault Refusal := meaning (opChRecv n q e) s

/-- CH.RECV.rel (R253). -/
def opChRecvRel (n : NReg) (e : EAttr) : SlotOp := opChan (.chRecv n.toNat true) 0 e
def execChRecvRel (n : NReg) (e : EAttr) (s : State) : Host.Outcome State Fault Refusal := meaning (opChRecvRel n e) s

/-- CH.RED (R254). -/
def opChRed (o : ROp) (ty : Ty) (n : NReg) (q : QReg) (e : EAttr) : SlotOp := opChan (.chRed o ty n.toNat) q e
def execChRed (o : ROp) (ty : Ty) (n : NReg) (q : QReg) (e : EAttr) (s : State) : Host.Outcome State Fault Refusal :=
  meaning (opChRed o ty n q e) s

/-- CH.FWD (R260). -/
def opChFwd (n : NReg) (q : QReg) (e : EAttr) : SlotOp := opChan (.chFwd n.toNat) q e
def execChFwd (n : NReg) (q : QReg) (e : EAttr) (s : State) : Host.Outcome State Fault Refusal := meaning (opChFwd n q e) s

/-- CH.STAT (R261). -/
def opChStat (n : NReg) (q : QReg) (e : EAttr) : SlotOp := opChan (.chStat n.toNat) q e
def execChStat (n : NReg) (q : QReg) (e : EAttr) (s : State) : Host.Outcome State Fault Refusal := meaning (opChStat n q e) s

/-! Commands and tokens wherever their strand is. -/

/-- Changes the cores of a partition's saved sets. -/
def Part.mapSaved (q : Part) (f : Core → Core) : Part :=
  { q with saved := q.saved.map (fun v => { v with cores := v.cores.map (fun e => (e.1, f e.2)) }) }

/-- Changes every core, of the package and of a partition's saved sets. -/
def State.mapCores (s : State) (p : Nat) (f : Core → Core) : State :=
  let s : State := { s with cores := s.cores.map (fun e => (e.1, f e.2)) }
  s.modPart p (fun q => q.mapSaved f)

/-- Changes the command a payload came from. -/
def State.modSender (s : State) (p : Nat) (k : Sender) (f : Cmd → Cmd) : State :=
  s.mapCores p (fun c => c.mapCmds (fun m => if m.part = p ∧ m.key = k then f m else m))

/-- The token of a command that has completed becomes ERROR after all (R262). -/
def Strand.failTok (t : Strand) (p : Nat) (k : Sender) (e : Cause) : Strand :=
  if t.part = p ∧ t.lid = k.1 ∧ t.gang = k.2.1 ∧ t.sid = k.2.2.1 then
    match t.kseq.find? (fun a => a.2 == k.2.2.2) with
    | some (r, _) => if t.tok r = .done then t.setTok r (.error e) else t
    | none => t
  else t

/-- A payload's sender ends with an error: its command if it still runs, else its token, which is then its channel's most recent ERROR
(R261, R262). -/
def State.failSender (s : State) (p : Nat) (k : Sender) (ch : Nat) (e : Cause) : State :=
  let cores := s.cores.map (·.2) ++ (s.part p).saved.flatMap (fun v => v.cores.map (·.2))
  let late := cores.any (fun c => c.strands.any (fun x => x.2.failTok p k e != x.2))
  let s := (s.modSender p k (fun m => { m with phase := .ended, err := some e })).mapCores p
    (fun c => { c with strands := c.strands.map (fun x => (x.1, x.2.failTok p k e)) })
  if late then s.modEp p k.1 k.2.1 ch (fun x => { x with lasterr := e.code }) else s

/-! Reading and writing a command's patterns. -/

/-- What reading staging gives: its bytes in order with their poison, a wait, or a refusal. -/
inductive ChRead where
  | ok (s : State) (bytes : List (Byte × Bool))
  | park (s : State) (key : Option Nat)
  | cause (s : State) (c : Cause)
  deriving DecidableEq, Repr

/-- How far reading a source came: its cursor names the next element, and what has been read stands in the command (R262). -/
inductive ChSource where
  | on (s : State) (m : Cmd)
  | park (s : State) (m : Cmd) (key : Option Nat)
  | cause (s : State) (c : Cause)
  deriving DecidableEq, Repr

/-- Places of the elements of a pattern with their use. -/
def chPlaces (c q : Nat) (d : Option Nat) (u : Use) : List (EPlace × Use × Nat) :=
  (List.range (qCount q)).map (fun e => (elemPlace c q d e, u, if d.isSome then qHandle q else 0))

/-- Reads the next element of the source (R127, R252). A line of a CE page counts once for the command's source, and once for its destination:
the model's choice, since R112 names no unit of the channel engine (log 119). -/
def State.chElem (s : State) (c : Nat) (m : Cmd) : ChSource :=
  let q := m.ps.toNat
  let d := m.ds.map BitVec.toNat
  let w := s.engWho c m 5
  let p := elemPlace c q d m.cursor
  match s.probeAll w (m.recOf c 5 m.cursor) [(p, Use.r, if d.isSome then qHandle q else 0)] with
  | .park s k => .park s m k
  | .cause s x => .cause s x
  | .ok s =>
    match s.engRead c m w (engineAgent c 6) p with
      | .ok s b bad ts =>
        .on (s.countFrames c (ts.filter (fun t => !m.leftT.contains t)))
          { m with cursor := m.cursor + 1, buf := m.buf ++ [(p.signed d (p.val b), if bad then 1 else 0, 0)], leftT := (m.leftT ++ ts).eraseDups }
      | .cause s x _ => .cause s x
      | .fault s .. => .park s m none
      | .wait s _ => .park s m none

/-- Reads the elements from the cursor on, at most `n` of them. -/
def State.chRead (s : State) (c : Nat) (m : Cmd) (n : Nat) : ChSource :=
  (List.range (min n (qCount m.ps.toNat - m.cursor))).foldl (fun a _ => match a with
    | .on s m => s.chElem c m
    | a => a) (.on s m)

/-- The payload that a command has read. -/
def Cmd.payload (m : Cmd) : List (Byte × Bool) :=
  m.buf.flatMap (fun v => (natBytes (qSize m.ps.toNat) v.1).map (fun b => (b, v.2.1 == 1)))

/-- How far writing a destination came: over, with the command's error; at an element within it; or waiting at one. -/
inductive ChWrite where
  | past (s : State) (err : Option Cause)
  | more (s : State) (m : Cmd)
  | park (s : State) (m : Cmd) (key : Option Nat)
  | cause (s : State) (c : Cause)
  deriving DecidableEq, Repr

/-- Elements of a destination that may be written: their bytes, the command's error, and where and why the next may not. -/
structure ChTry where
  s    : State
  t    : Patch := []
  err  : Option Cause
  stop : Option (Nat × Except Cause (Option Nat)) := none

/-- Element `e` of a destination with its bytes of the payload. -/
def chCell (c q : Nat) (d : Option Nat) (bs : List (Byte × Bool)) (e : Nat) (t : Patch) : Patch :=
  let p := elemPlace c q d e
  let cells := (bs.drop (e * qSize q)).take (qSize q)
  t.put p (p.signed d (bytesNat (cells.map (·.1)))) (cells.any (·.2))

/-- Takes one element of a destination, if its page can be written (R128, R152, R253). -/
def ChTry.add (a : ChTry) (c : Nat) (m : Cmd) (q : Nat) (d : Option Nat) (bs : List (Byte × Bool)) (e : Nat) : ChTry :=
  if a.stop.isSome then a
  else
    let p := elemPlace c q d e
    let cells := (bs.drop (e * qSize q)).take (qSize q)
    match a.s.probeAll (a.s.engWho c m 5) (m.recOf c 5 e) [(p, Use.w, if d.isSome then qHandle q else 0)] with
    | .park s k => { a with s := s, stop := some (e, .ok k) }
    | .cause s x => { a with s := s, stop := some (e, .error x) }
    | .ok s =>
      let err := a.err.or (if cells.any (·.2) then some .uncorrectable else none)
      let sym := p.zero && !isZeroElem ((d.map dTy).getD .b8) (bytesNat (cells.map (·.1)))
      { a with s := s, t := chCell c q d bs e a.t, err := err.or (if sym then some .symViolation else none) }

/-- The aligned 16-byte pieces of an element. -/
def EPlace.lines16 (p : EPlace) : List Nat :=
  if p.zero then [] else [locKey p.loc / 16, (locKey p.loc + p.n - 1) / 16]

/-- Where a write of at most `n` elements from `at_` on may stop: no aligned 16 bytes are written in two parts (R251). -/
def chStop (c q : Nat) (d : Option Nat) (at_ n : Nat) : Nat :=
  let count := qCount q
  let lines (a b : Nat) : List Nat := (List.range (b - a)).flatMap (fun i => (elemPlace c q d (a + i)).lines16)
  (List.range (min n (count - at_) + 1)).foldl (fun m j =>
    let e := at_ + j
    if (lines at_ e).any (fun l => (lines e count).contains l) then m else e) at_

/-- Writes a destination's elements from the command's cursor on, up to one whose page cannot be written; with `cut`, at most so many, which
other agents then see before the rest (R304). Of several elements that write a byte only the last of the instruction does (R128). The work
of a region is never cut. -/
def State.chWrite (s : State) (c : Nat) (m : Cmd) (q : Nat) (d : Option Nat) (bs : List (Byte × Bool)) (late : List EPlace)
    (cut : Option Nat) : ChWrite :=
  let count := qCount q
  let stop := match cut with
    | some n => if m.depth = 0 then chStop c q d m.cursor n else count
    | none => count
  let a := ((List.range stop).filter (fun e => decide (m.cursor ≤ e))).foldl (fun (a : ChTry) e => a.add c m q d bs e) { s := s, err := m.err }
  let at_ := (a.stop.map (·.1)).getD stop
  let after := (List.range (count - at_)).map (fun i => at_ + i)
  let now := if unshared q d && late.isEmpty then a.t else a.t.without (after.map (elemPlace c q d) ++ late)
  let rest : Patch := if after = [] then [] else after.foldl (fun t e => chCell c q d bs e t) []
  let w := a.s.engWho c m 5
  let clean := if rest = [] then m.clean else (m.clean ++ a.s.toClean w (Patch.good (rest.foldl (fun t e => tins t e.1 e.2) now))).eraseDups
  let (s, x, ts) := a.s.writePatch { w with cover := clean } (a.s.mixOn c m) (engineAgent c 6) now
  let s := (s.cleanDone w clean rest).countFrames c (ts.filter (fun t => !m.leftT.contains t))
  let m : Cmd := { m with cursor := at_, err := a.err.or x, clean := clean, leftT := (m.leftT ++ ts).eraseDups }
  match a.stop with
  | some (_, .ok k) => .park s m k
  | some (_, .error e) => .cause s e
  | none => if stop < count then .more s m else .past s m.err

/-! Staging (R246, R248). -/

/-- Where a gang's staging can be reached. -/
inductive GangAt where
  | here (core : Nat)
  | saved (j core : Nat)
  | waiting
  | gone
  deriving DecidableEq, Repr

def State.gangAt (s : State) (p lid g : Nat) : GangAt :=
  let k := (s.launch p lid).gang g
  match k.phase with
  | .running => .here (k.cores.headD 0)
  | .saved =>
    (match lfind (fun (v : SavedSet) => v.lid == lid && v.gangs.contains g) (s.part p).saved with
     | some j => .saved j (k.cores.headD 0)
     | none => .waiting)
  | .waiting => .waiting
  | .ended => .gone

/-- Bytes with poison as cells of a run. -/
def cellsOf (bs : List (Byte × Bool)) : List (Nat × Nat × Bool) := bs.map (fun b => (b.1.toNat, 255, b.2))

/-- Acts at the place of a gang's staging: on its cores, or on its save area. -/
def State.atGang (s : State) (p : Nat) (a : GangAt) (f : Nat → State → State) : State :=
  match a with
  | .here c => f c s
  | .saved j c => s.withSaved p j (f c)
  | _ => s

/-- Reads `n` bytes of staging of a gang seen from a core, in elements of `el` bytes. -/
def State.stageRead (s : State) (c : Nat) (m : Cmd) (e off n el : Nat) : ChRead :=
  if chSas e then
    let w := s.engWho c m 5
    match s.glProbe w off n .r with
    | .ok s .. =>
      let (s, mixed) := (List.range (n / max el 1)).foldl (fun (a : State × Bool) i =>
        let (s, b) := a.1.mix (a.1.mixOn c m) m.part (engineAgent c 6) (.gl (off + i * el)) el
        (s, a.2 || b)) (s, false)
      if mixed then .cause s .mixedSize
      else (match s.glRead w off n 0 with
       | .ok s bs _ ts =>
         .ok (if m.cursor = 0 then s.countFrames c ts else s) ((List.range n).map (fun i => (lget 0 bs i,
           match s.glRead w (off + i) 1 0 with | .ok _ _ bad _ => bad | _ => false)))
       | .cause s x _ => .cause s x
       | .fault s .. => .park s none
       | .wait s _ => .park s none)
    | .cause s x _ => .cause s x
    | g =>
      let (s, k) := park m.part (m.recOf c 5 m.cursor) g
      .park s k
  else
    let f := ((s.launch m.part m.lid).gang m.gang).cores.headD c
    let k := s.core f
    .ok (s.correct f off n) ((List.range n).map (fun i => (k.spByte (off + i), k.spPoison (off + i) 1)))

/-! Arrivals (R248, R260, R262). -/

/-- The step and the distance of an arrival of a ring of `p` members (R260). -/
def ringStep (p idx : Nat) : Nat := idx / (p - 1)
def ringDist (p idx : Nat) : Nat := idx % (p - 1) + 1

/-- The first core of the gang that a payload is for, which its staging in scratchpad lies in. -/
def State.firstCore (s : State) (f : Flight) : Nat := ((s.launch f.part f.lid).gang f.gang).cores.headD 0

/-- The scratchpad cy that an access to a payload's slot takes of a gang that is resident (R251). -/
def State.stallSlot (s : State) (f : Flight) (off n : Nat) : State :=
  let e := s.chan f.part f.lid f.ch
  if chSas e ∨ ((s.launch f.part f.lid).gang f.gang).phase ≠ .running then s
  else
    let (c, a) := (s.firstCore f, chSlot e (f.idx % chDepth e) + off)
    (s.modCore c (fun k => k.noteBanks false a n)).stallS c 1 [(.sp c a, n)]

/-- The next hop of a ring shard held in a slot of member `g` (R260). -/
def State.hop (s : State) (f : Flight) (slot : Nat) : List Flight :=
  match s.group f.part f.lid f.ch with
  | none => []
  | some k =>
    let p := k.members.length
    if f.dist + 1 ≤ p - 1 then
      match k.rank s.node f.gang with
      | none => []
      | some r =>
        let (node, g, _) := k.member ((r + 1) % p)
        [{ part := f.part, lid := f.lid, gang := g, ch := f.ch, idx := f.idx + 1, bytes := f.bytes, dist := f.dist + 1,
           from_ := some (f.gang, slot), remote := node != s.node, out := node != s.node, dest := node, agent := engineAgent (s.firstCore f) 6,
           core := s.firstCore f, mixchk := f.mixchk, cls := f.cls, sc := f.sc }]
    else []

/-- What a payload's end means to the place it came from: a sender's command, or the slot it was forwarded from. -/
def State.sent (s : State) (f : Flight) (err : Option Cause) : State :=
  let s := match f.from_ with
    | some (g, slot) => s.modEp f.part f.lid g f.ch (fun e => { e with fwding := e.fwding.filter (· != slot) })
    | none => s
  match f.sender with
  | none => s
  | some k =>
    let ch := if f.out ∨ f.dist ≠ 0 then f.ch else chPch (s.chan f.part f.lid f.ch)
    let s := match err with
      | none =>
        let s := s.modSender f.part k (fun m => { m with phase := .ended })
        if f.dist = 0 then s.modEp f.part k.1 k.2.1 ch (fun e => { e with sseq := up32 e.sseq }) else s
      | some x => s.failSender f.part k ch x
    s

/-- Every contributor of a reduction step ends with an error (R262). -/
def State.failStep (s : State) (f : Flight) (x : Cause) : State :=
  match s.group f.part f.lid f.ch with
  | none => s
  | some k => (k.steps.filter (fun r => r.step == f.idx)).foldl (fun s r =>
      r.subs.foldl (fun s c => match c.sender with
        | some key => s.failSender f.part key f.ch x
        | none => s) s) s

/-- A payload's slot becomes FULL (R248): CNT, the delivery's path and step, the ring's next hop; `err` ends its senders, `bad` poisons
it (R262). -/
def State.markFull (s : State) (i : Nat) (f : Flight) (bad : Bool) (err : Option Cause) : State :=
  let e := s.chan f.part f.lid f.ch
  let slot := f.idx % chDepth e
  let hops := if chMode e = 2 then s.hop f slot else []
  let s := s.modEp f.part f.lid f.gang f.ch (fun p =>
    { p with full := p.full ++ [slot], filling := p.filling.filter (· != slot), cnt := up32 p.cnt, path := f.path,
             dstep := if chMode e = 1 then f.idx % 2 ^ 32 else p.dstep,
             bad := if bad then p.bad ++ [slot] else p.bad, fwding := if hops = [] then p.fwding else p.fwding ++ [slot] })
  let s : State := { s with flights := ldel s.flights i ++ hops }
  let s := if hops = [] then s else s.stallSlot f 0 (chShape e)
  match err with
  | some x => if chMode e = 1 then s.failStep f x else s.sent f (some x)
  | none => s.sent f none

/-- The stack that homes a VA of a partition; 0 where none is known. -/
def State.stackVa (s : State) (p va : Nat) : Nat :=
  match (s.translate p p va .r false).2 with
  | .ok (.hbm pa _ pl pln _) => (home pa pl pln).2.1
  | _ => 0

/-- Who writes a payload into GL staging (R342): a Pugmill, a switch, another package, or the channel engine of its sender. -/
def State.stageWho (s : State) (f : Flight) (va core : Nat) : Who :=
  let w : Who := { part := f.part, slot := f.part, core := core, node := f.node.getD s.node, agent := 5 }
  if f.path = 3 then { w with agent := 9, core := 64 * (s.stackVa f.part va / 3) }
  else if f.path = 2 then { w with agent := 15 }
  else if f.remote then { w with agent := 10 }
  else { w with core := f.core }

/-- The bytes of a payload and of its counts at the places of its slot. -/
def Flight.patch (f : Flight) (e : Nat) (at_ : Nat → Loc) : Patch :=
  let a := chSlot e (f.idx % chDepth e)
  let put (t : Patch) (b : Nat) (cs : List (Nat × Nat × Bool)) : Patch :=
    (cs.foldl (fun (o : Nat × Patch) x => (o.1 + 1, tins o.2 (locKey (at_ o.1)) x)) (b, t)).2
  put (put [] a (cellsOf f.bytes)) (a + chPay e) (cellsOf ((f.counts.flatMap (fun n => natBytes 2 n)).map (fun b => (b, false))))

/-- Writes a payload and its counts into its slot, then marks it FULL; a page fault on GL staging makes it wait (R262). One that MIXCHECK
refuses is dropped as there (R316, log 106). With `cut`, its next bytes, a whole number of 16-byte pieces, which agents then see before the
rest (R251, R304). -/
def State.stage (s : State) (i : Nat) (f : Flight) (core : Nat) (cut : Option Nat := none) : State :=
  let e := s.chan f.part f.lid f.ch
  let slot := f.idx % chDepth e
  let a := chSlot e slot
  let filling (s : State) : State := s.modEp f.part f.lid f.gang f.ch (fun p => { p with filling := slot :: p.filling.filter (· != slot) })
  let t := f.patch e (fun o => if chSas e then .gl o else .sp core o)
  let left := t.drop f.staged
  let n := Patch.cut left (cut.getD left.length)
  let (now, rest) := (left.take n, left.drop n)
  let w := s.stageWho f a core
  let clean := if f.staged = 0 then (if rest = [] then [] else s.toClean w (Patch.good t)) else f.clean
  let write (s : State) : State :=
    let (s, ts) := (Patch.runs now).foldl (fun (b : State × List Touch) r =>
      let (s, _, ts) := b.1.writeRun { w with cover := clean } r.1 r.2
      (s, b.2 ++ ts)) (s, [])
    let s := if f.path = 1 ∧ !f.remote then s.countFrames f.core ts else s
    let s := s.cleanDone w clean rest
    if rest = [] then s
    else filling { s with flights := lput s.flights i { f with staged := f.staged + n, clean := clean } }
  if chSas e then
    let agent := if f.path = 3 then pugAgent (s.stackVa f.part a) else if f.path = 2 then switchAgent 0 else f.agent
    match s.glProbe w a (chPay e + 2 * f.counts.length) .w with
    | .ok s .. =>
      let (s, b) := if f.staged = 0 then t.runs.foldl (fun (b : State × Bool) r =>
          let (s, x) := b.1.mixRun f.mixchk f.part agent r.1 r.2.length
          (s, b.2 || x)) (s, false)
        else (s, false)
      if b then s.markFull i f true (some .mixedSize)
      else if rest = [] then (write s).markFull i f false none else write s
    | .cause s _ _ => s.markFull i f true (some .access)
    | g =>
      let r : FaultRec :=
        { va := a, kind := 0, rwx := 2, level := 0, agent := 5, core := w.core, strand := 0, gidx := f.gang, cls := f.cls, sc := f.sc,
          pc := 0, handle := 0, cursor := 0, time := 0 }
      let (s, k) := park f.part r g
      filling { s with flights := lput s.flights i { f with fault := k } }
  else
    let s := write s
    if rest ≠ [] then s
    else ((s.stallSlot f 0 f.bytes.length).stallSlot f (chPay e) (2 * f.counts.length)).markFull i f false none

/-- A payload for the scratchpad of a gang that has not started: its bytes are the gang's, and reach its first core as it starts (R252,
R263, log 89). -/
def State.stageEarly (s : State) (i : Nat) (f : Flight) : State :=
  let e := s.chan f.part f.lid f.ch
  let a := chSlot e (f.idx % chDepth e)
  (s.modGang f.part f.lid f.gang (fun g =>
    { g with early := ((cellsOf f.bytes).foldl (fun (o : Nat × Tbl (Nat × Nat × Bool)) c => (o.1 + 1, tins o.2 o.1 c)) (a, g.early)).2 })).markFull
      i f false none

/-- A payload takes its slot: in the order of its channel's arrivals, once the slot is EMPTY (R248). -/
def State.place_ (s : State) (i : Nat) (f : Flight) (cut : Option Nat := none) : State :=
  let e := s.chan f.part f.lid f.ch
  let p := s.ep f.part f.lid f.gang f.ch
  if f.fault.isSome ∨ f.idx % 2 ^ 32 ≠ p.cnt ∨ p.full.contains (f.idx % chDepth e) then s
  else if f.bad then s.markFull i f true (some .access)
  else
    match s.gangAt f.part f.lid f.gang with
    | .gone => s.markFull i f false none
    | .waiting => if chSas e then s.stage i f 0 cut else s.stageEarly i f
    | .here c => s.stage i f c cut
    | .saved j c => if chSas e then s.stage i f c cut else s.withSaved f.part j (fun s => s.stage i f c cut)

/-- A turn that writes some bytes of a payload under way (R304). -/
def State.stageTurn (s : State) (i n : Nat) : State :=
  match s.flights[i]? with
  | some f => if f.out then s else s.place_ i f (some n)
  | none => s

/-- Channels of the package that a payload from another one may reach, in order: partition, LID, gang, channel: of a message any P2P entry,
since R252 asks of the peer's entry MODE, SHAPE and PCH alone; of a shard those whose ring's previous member is there (R260). -/
def State.farChannels (s : State) : List (Nat × Nat × Nat × Nat) :=
  s.parts.flatMap (fun q => q.2.launches.flatMap (fun l =>
    (List.range l.g).flatMap (fun g => l.chtab.filterMap (fun e =>
      let n := e.2.toNat
      let far := match chMode n with
        | 0 => true
        | 2 => (match s.group q.1 l.lid e.1 with
            | some k => (match k.rank s.node g with
                | some r => (k.member ((r + k.members.length - 1) % k.members.length)).1 != s.node
                | none => false)
            | none => false)
        | _ => false
      if chValid n && far then some (q.1, l.lid, g, e.1) else none))))

/-- A payload from another package, whose bytes are that package's (log 6). -/
def State.inbound (s : State) (j : Nat) : State :=
  match s.farChannels[j]? with
  | none => s
  | some (p, lid, g, n) =>
    let e := s.chan p lid n
    let k := s.ep p lid g n
    let d := match s.group p lid n with | some k' => ringDist k'.members.length k.arrIdx | none => 0
    -- from where a message comes that the entry does not expect, the package cannot know
    let any := ((Config.freeByte s.free).toNat + 256 * (Config.freeByte (s.free + 1)).toNat) % 2 ^ 14
    let from_ := if chMode e = 0 then (if chPkind e = 2 ∧ chPnode e ≠ s.node then chPnode e else any) else ((s.group p lid n).bind (fun k => (k.rank s.node g).map (fun r =>
      (k.member ((r + k.members.length - 1) % k.members.length)).1))).getD 0
    let f : Flight :=
      { part := p, lid := lid, gang := g, ch := n, idx := k.arrIdx, remote := true, dist := if chMode e = 2 then d else 0,
        node := some from_, agent := remoteAgent from_,
        bytes := (List.range (chShape e)).map (fun i => (Config.remoteByte s.free i, Config.remotePoison (s.free * 65536 + i / 64))) }
    let s_ := s
    let s := s.nextFree.nextFree.modEp p lid g n (fun x => { x with arrIdx := x.arrIdx + 1 })
    if s.linkUp from_ then { s with flights := s.flights ++ [f] } else s_

/-- CHANNEL_ARRIVAL (R248): payload `i` under way is placed, or, past their number, one comes from another package. One that
leaves this package ends as that package answers (log 6), once its port is ready (log 115). -/
def execChannelArrival (i : Nat) (s : State) : Host.Outcome State Fault Refusal :=
  .next (match s.flights[i]? with
    | none => s.inbound (i - s.flights.length)
    | some f =>
      if f.out then
        if !s.linkUp f.dest then s else
        let s' : State := { s.nextFree with flights := ldel s.flights i }
        if Config.remoteGrant s.cy f.part f.gang true then s'.sent f none else s'.sent f (some .access)
      else s.place_ i f)

/-! Commands (R249). -/

/-- The endpoint a send goes to: node, gang and channel (R252). -/
def State.peer (s : State) (m : Cmd) (e : Nat) : Nat × Nat × Nat :=
  match chPkind e with
  | 0 => (s.node, m.gang, chPch e)
  | 1 => (s.node, chPgidx e, chPch e)
  | _ => (chPnode e, chPgidx e, chPch e)

/-- Whether the peer's entry takes the message (R252). -/
def State.peerOk (s : State) (m : Cmd) (e n g ch : Nat) : Bool :=
  let x := s.chan m.part m.lid ch
  decide (g < (s.launch m.part m.lid).g) && chValid x && chMode x == 0 && chShape x == chShape e && chPch x == n

/-- A command ends with a cause; what it had reserved in its peer's order is given up. -/
def State.chFail (s : State) (c : Nat) (m : Cmd) (x : Cause) : State :=
  let s := s.putCmd c { m with phase := .ended, err := some (m.err.getD x) }
  s

/-- A send that ends before it has a payload gives its place in its peer's order to the later ones. -/
def State.unreserve (s : State) (m : Cmd) : State :=
  match m.kind, m.slot, m.rows with
  | .chSend _, some j, [g, ch] =>
    let s := s.modEp m.part m.lid g ch (fun e => { e with arrIdx := e.arrIdx - 1 })
    let s : State := { s with flights := s.flights.map (fun f =>
      if f.part = m.part ∧ f.lid = m.lid ∧ f.gang = g ∧ f.ch = ch ∧ j < f.idx ∧ f.out = false then { f with idx := f.idx - 1 } else f) }
    s.mapCores m.part (fun k => k.mapCmds (fun a => match a.kind, a.slot with
      | .chSend _, some i => if a.part = m.part ∧ a.lid = m.lid ∧ a.rows = [g, ch] ∧ j < i then { a with slot := some (i - 1) } else a
      | _, _ => a))
  | _, _, _ => s

/-- An active sender reads its source, on from its cursor where it has waited (R262); the payload is then under way, as a message, a contribution or a shard. -/
def State.chLoad (s : State) (c : Nat) (m : Cmd) (cut : Option Nat) (go : State → List (Byte × Bool) → State) : State :=
  let q := m.ps.toNat
  match s.chRead c m (cut.getD (qCount q)) with
  | .park s m k => s.putCmd c { m with parked := k }
  | .cause s x => s.chFail c m x
  | .on s m =>
    if m.cursor < qCount q then s.putCmd c m
    else go ((s.stallS c 1 (spPlaces (chPlaces c q (m.ds.map BitVec.toNat) .r))).putCmd c { m with sub := 1, cursor := 0, buf := [], leftT := [] }) m.payload

/-- A payload of a command of core `c` to a member (R251). -/
def State.flightOf (s : State) (c : Nat) (m : Cmd) (gang ch idx : Nat) (bs : List (Byte × Bool)) : Flight :=
  { part := m.part, lid := m.lid, gang := gang, ch := ch, idx := idx, bytes := bs, sender := some m.key, agent := engineAgent c 6,
    core := c, mixchk := s.mixOn c m, cls := m.cls, sc := m.sc }

/-- CH.SEND's start: its peer is checked and its place reserved (R249, R252). -/
def State.sendStart (s : State) (c : Nat) (m : Cmd) : State :=
  let n := m.kind.chan
  let e := s.chan m.part m.lid n
  let (node, g, ch) := s.peer m e
  if node ≠ s.node then s.putCmd c { m with phase := .active, rows := [] }
  else if !s.peerOk m e n g ch then s.chFail c m .access
  else
    let j := (s.ep m.part m.lid g ch).arrIdx
    (s.modEp m.part m.lid g ch (fun x => { x with arrIdx := j + 1 })).putCmd c { m with phase := .active, slot := some j, rows := [g, ch] }

/-- The slot that a send has reserved in an endpoint of this package is EMPTY (R252). -/
def State.slotFree (s : State) (m : Cmd) : Bool :=
  match m.rows, m.slot with
  | [g, ch], some j =>
    let p := s.ep m.part m.lid g ch
    j % 2 ^ 32 == p.cnt && !p.full.contains (j % chDepth (s.chan m.part m.lid ch))
  | _, _ => true

/-- A send copies its message once its slot is EMPTY (R252). -/
def State.sendGo (s : State) (c : Nat) (m : Cmd) (cut : Option Nat) : State :=
  let (node, g, ch) := s.peer m (s.chan m.part m.lid m.kind.chan)
  if !s.slotFree m then s else s.chLoad c m cut (fun s bs =>
    let out := m.rows == []
    let f := { s.flightOf c m (if out then g else lget 0 m.rows 0) (if out then m.kind.chan else ch) (m.slot.getD 0) bs with
      remote := out, out := out, dest := node }
    { s with flights := s.flights ++ [f] })

/-- CH.FWD (R260): its step is SSEQ at its start; the shard goes to the next member. -/
def State.fwdStart (s : State) (c : Nat) (m : Cmd) : State :=
  let n := m.kind.chan
  let q := (s.ep m.part m.lid m.gang n).sseq
  (s.modEp m.part m.lid m.gang n (fun x => { x with sseq := up32 q })).putCmd c { m with phase := .active, slot := some q }

def State.fwdGo (s : State) (c : Nat) (m : Cmd) (cut : Option Nat) : State :=
  let n := m.kind.chan
  match s.group m.part m.lid n with
  | none => s.chFail c m .access
  | some k =>
    let p := k.members.length
    match k.rank s.node m.gang with
    | none => s.chFail c m .access
    | some r =>
      let (node, g, _) := k.member ((r + 1) % p)
      s.chLoad c m cut (fun s bs =>
        { s with flights := s.flights ++
          [{ s.flightOf c m g n (m.slot.getD 0 * (p - 1)) bs with dist := 1, remote := node != s.node, out := node != s.node, dest := node }] })

/-- CH.RED (R254, R257): opens its step; while a change of the tree waits for F, no step is opened. -/
def State.redStart (s : State) (c : Nat) (m : Cmd) : State :=
  let n := m.kind.chan
  let q := (s.ep m.part m.lid m.gang n).sseq
  match s.group m.part m.lid n with
  | none => s.chFail c m .access
  | some k =>
    if k.waitF then s
    else
      let s := s.modGroup m.part m.lid n (fun k =>
        if k.steps.any (fun r => r.step == q) then k else { k with steps := k.steps ++ [{ step := q, sw := k.switches q }] })
      (s.modEp m.part m.lid m.gang n (fun x => { x with sseq := up32 q, opened := max x.opened (q + 1) })).putCmd c
        { m with phase := .active, slot := some q }

/-- The contribution, read once; a copy is kept for a retransmission (R257). -/
def State.redGo (s : State) (c : Nat) (m : Cmd) (cut : Option Nat) : State :=
  let n := m.kind.chan
  let q := m.slot.getD 0
  s.chLoad c m cut (fun s bs =>
    s.modGroup m.part m.lid n (fun k => match k.rank s.node m.gang with
      | none => k
      | some r => { k with steps := k.steps.map (fun t =>
          if t.step = q then { t with subs := t.subs ++ [{ rank := r, bytes := bs, sender := some m.key }] } else t) }))

/-- CH.RECV takes the next slot, of which `aux` keeps the count, once it is FULL and its forwarding is over (R253, R264). -/
def State.recvTake (s : State) (c : Nat) (m : Cmd) : State :=
  let n := m.kind.chan
  let e := s.chan m.part m.lid n
  let p := s.ep m.part m.lid m.gang n
  let i := p.tseq % chDepth e
  if p.tseq = p.cnt ∨ !p.full.contains i ∨ p.fwding.contains i then s
  else
    let g := (s.launch m.part m.lid).gang m.gang
    -- while the region of another strand holds a release of the channel, the slot taken is undefined (log 90)
    let others := (g.cores.flatMap (fun c => (s.core c).chans.filterMap (fun a =>
      if a.part == m.part && a.lid == m.lid && a.gang == m.gang && a.kind.chan == n && a.sid != m.sid && a.depth != 0 && a.slot.isSome &&
        (match a.kind with | .chRecv .. => true | _ => false) then some (a.sid, a.depth, false) else none))).eraseDups
    let take (s : State) (i : Nat) : State :=
      (s.modEp m.part m.lid m.gang n (fun x => { x with tseq := up32 x.tseq, mess := x.mess ++ others.filter (fun a => !x.mess.contains a) })).putCmd c
        { m with phase := .active, slot := some i, aux := p.tseq }
    if others = [] then take s i else take s.nextFree ((Config.freeByte s.free).toNat % chDepth e)

/-- The payload of a slot, every byte poisoned where it was dropped (R262). -/
def dropped (bad : Bool) (bs : List (Byte × Bool)) : List (Byte × Bool) := if bad then bs.map (fun b => (b.1, true)) else bs

/-- Copies a payload and its counts to the patterns of CH.RECV (R253). In a region each waits for release where its destination is in GL
or a tensor (R264). `sub`: 1 payload copied, 2 counts copied, 4 counts under way. -/
def State.recvCopy (s : State) (c : Nat) (m : Cmd) (cut : Option Nat) : State :=
  let e := s.chan m.part m.lid m.kind.chan
  let i := m.slot.getD 0
  let bad := (s.ep m.part m.lid m.gang m.kind.chan).bad.contains i
  let part (s : State) (m : Cmd) (q : Nat) (d : Option Nat) (off n : Nat) (late : List EPlace) (next : State → Cmd → State) : State :=
    match s.stageRead c m e (chSlot e i + off) n (qSize q) with
    | .park s k => s.putCmd c { m with parked := k }
    | .cause s x => s.chFail c m x
    | .ok s bs =>
      -- what a retry of a region receives after such a receive is undefined (log 90)
      let (s, bs) := if m.viol ≠ 0 then
          (s.nextFree, (List.range bs.length).map (fun j => (Config.freeByte (s.free * 65536 + j), false)))
        else (s, bs)
      let f := ((s.launch m.part m.lid).gang m.gang).cores.headD c
      let at_ := spPlaces (chPlaces c q d .w) ++ (if chSas e then [] else [(.sp f (chSlot e i + off), n)])
      match s.chWrite c m q d (dropped bad bs) late cut with
      | .more s m => s.putCmd c m
      | .park s m k => s.putCmd c { m with parked := k }
      | .cause s x => s.chFail c m x
      | .past s err => next (s.stallS c 1 at_) { m with cursor := 0, err := err, clean := [], leftT := [] }
  let last (s : State) (m : Cmd) : State := s.putCmd c { m with phase := .ended }
  match m.kind with
  | .chRecv _ true => last s m
  | _ =>
    let holds (q : Nat) : Bool := m.held && toGlobal q
    let copied (b : Nat) (s : State) (m : Cmd) : State :=
      let n := m.sub % 4 ||| b
      if n = 3 ∨ chNsk e = 0 then last s { m with sub := n } else s.putCmd c { m with sub := n }
    let counts := (chPlaces c m.pd1.toNat (m.dd1.map BitVec.toNat) .w).map (·.1)
    if m.sub % 2 = 0 ∧ m.sub < 4 ∧ ¬ holds m.pd.toNat then
      part s m m.pd.toNat (m.dd.map BitVec.toNat) 0 (chShape e) (if chNsk e = 0 then [] else counts) (copied 1)
    else if chNsk e ≠ 0 ∧ m.sub / 2 % 2 = 0 ∧ ¬ holds m.pd1.toNat then
      part s { m with sub := m.sub % 4 + 4 } m.pd1.toNat (m.dd1.map BitVec.toNat) (chPay e) (2 * chNc e) [] (copied 2)
    else s

/-- The record of CH.STAT (R261). -/
def State.statRec (s : State) (m : Cmd) : Nat :=
  let n := m.kind.chan
  let p := s.ep m.part m.lid m.gang n
  let k := (s.group m.part m.lid n).getD { gid := 0, lid := 0, ch := 0 }
  p.cnt * 2 ^ 224 + p.rseq * 2 ^ 192 + p.sseq * 2 ^ 160 + p.dstep * 2 ^ 128 + k.f % 2 ^ 32 * 2 ^ 96 + k.att.length % 2 ^ 16 * 2 ^ 80 +
  k.tree.length % 2 ^ 16 * 2 ^ 64 + p.lasterr % 256 * 2 ^ 56 + p.full.length % 256 * 2 ^ 48 + p.path % 4 * 2 ^ 2 + chMode (s.chan m.part m.lid n)

/-- CH.STAT: the record is taken once, and written when no region holds it (R261, R264). -/
def State.statGo (s : State) (c : Nat) (m : Cmd) (cut : Option Nat) : State :=
  let m := if m.phase = .queued then { m with phase := .active, aux := s.statRec m } else m
  if m.held then s.putCmd c m
  else match s.chWrite c m m.pd.toNat none ((natBytes 32 m.aux).map (fun b => (b, false))) [] cut with
    | .more s m => s.putCmd c m
    | .park s m k => s.putCmd c { m with parked := k }
    | .cause s x => s.chFail c m x
    | .past s err => (s.stallS c 1 (spPlaces (chPlaces c m.pd.toNat none .w))).putCmd c { m with phase := .ended, err := err }

/-- A taken slot is released once those taken before it are (R248, R253): EMPTY again, RSEQ raised, but where RSEQ has passed it (R264). -/
def State.chRelease (s : State) (m : Cmd) : Option State :=
  match m.kind, m.slot with
  | .chRecv n _, some i =>
    let p := s.ep m.part m.lid m.gang n
    if sub32 p.rseq m.aux < 2 ^ 31 then
      some (s.modEp m.part m.lid m.gang n (fun x =>
        { x with rseq := if x.rseq = m.aux then up32 x.rseq else x.rseq, full := x.full.filter (· != i), bad := x.bad.filter (· != i) }))
    else none
  | _, _ => some s

/-- A command that is over: its slot is released, its token completes, and the channel keeps the last error (R253, R261). A
release that a region holds stays behind (R264). An error of a channel command, a FAIL among them, writes LASTERR and the token, and not
SHERR: the model's choice, since R262 acts as R151 and R249 follows R144, which name SHERR, while R153 speaks of the Shunter (log 124). -/
def State.chEnd (s : State) (c : Nat) (m : Cmd) : State :=
  let err := if m.phase = .queued then some .tokenError else m.err
  let s := s.unreserve (if err.isSome ∧ m.sub = 0 then m else { m with slot := none })
  let note (s : State) : State := match err with
    | some x => s.modEp m.part m.lid m.gang m.kind.chan (fun p => { p with lasterr := x.code })
    | none => s
  if m.owed then (if m.held then s else match s.chRelease m with
    | some s => s.modCore c (fun k => k.cancel (fun a => a.same m))
    | none => s)
  else
    let kept := m.depth != 0 && m.slot.isSome && (match m.kind with | .chRecv .. => true | _ => false)
    if kept then
      ((note s).completeCmd c m err).modCore c (fun k => { k with chans := k.chans ++ [{ m with sub := 9, kp := 0, held := true }] })
    else match s.chRelease m with
      | some s => (note s).completeCmd c m err
      | none => s

/-- Whether an earlier command of its channel holds a command back (R249). A receive that waits for its slot holds no send of another
strand, which it may be waiting for (log 44), and one whose writes a region holds has taken its slot and holds nothing back (R264). -/
def Core.chBlocked (k : Core) (i : Nat) (m : Cmd) : Bool :=
  let recv (a : Cmd) : Bool := match a.kind with | .chRecv .. => true | _ => false
  let sends := match m.kind with | .chSend _ | .chRed .. | .chFwd _ => true | _ => false
  (k.chans.take i).any (fun a =>
    a.part == m.part && a.lid == m.lid && a.gang == m.gang && a.kind.chan == m.kind.chan && a.phase != .ended && !(a.held && a.phase == .active) &&
    !(sends && recv a && a.phase == .queued && a.sid != m.sid))

/-- A command of the channel queue goes on, with `cut` by so many elements at most (R304) (R249, R252 to R254, R260, R261). -/
def State.chStep (s : State) (c i : Nat) (m : Cmd) (cut : Option Nat := none) : State :=
  if m.parked.isSome then s
  else if m.phase = .ended ∨ (m.phase = .queued ∧ m.failed) then s.chEnd c m
  else
    let ready := m.waits == [] && s.afterDone c m && !(s.core c).chBlocked i m && !s.overtaken c none
    match m.kind, m.phase with
    | .chSend _, .queued => if ready then s.sendStart c m else s
    | .chSend _, _ => if m.sub = 0 then s.sendGo c m cut else s
    | .chFwd _, .queued => if ready then s.fwdStart c m else s
    | .chFwd _, _ => if m.sub = 0 then s.fwdGo c m cut else s
    | .chRed .., .queued => if ready then s.redStart c m else s
    | .chRed .., _ => if m.sub = 0 then s.redGo c m cut else s
    | .chRecv .., .queued => if ready then s.recvTake c m else s
    | .chRecv .., _ => s.recvCopy c m cut
    | .chStat _, _ => if ready ∨ m.phase = .active then s.statGo c m cut else s
    | _, _ => s

/-- CHANNEL_COMMAND_COMPLETE (R249): command `i` of a core's channel queue goes on, and completes at the end of its work. -/
def execChannelCommandComplete (c i : Nat) (s : State) : Host.Outcome State Fault Refusal :=
  .next (if (s.core c).stopped then s else match (s.core c).chans[i]? with
    | some m => s.chStep c i m
    | none => s)

/-- A part of what an engine of a core does next, as other agents may see it (R304): an engine's of `State.unitPart`, then the commands of the
channel queue. -/
def State.enginePart (s : State) (c i n : Nat) : State :=
  let b := (s.core c).shunter.length + (s.awayTrigs c).length + 2
  if i < b then s.unitPart c i n
  else if (s.core c).stopped then s
  else match (s.core c).chans[i - b]? with
    | some m => s.chStep c (i - b) m (some n)
    | none => s

end Sys2Proof.Machine
end

