-- ==== Sys2Proof/Machine/Reduce.lean ====
section
/-! DEFINITION. Reductions across packages (R254 to R259): how switches and Pugmills combine contributions, and what a
change of the switch tree does. An event names a group by partition * 2^16 + its place in the partition's list. -/

namespace Sys2Proof.Machine

/-! The running value (R256, R258). -/

/-- AF: the format of the running value of a float reduction. -/
def afOf (t : Ty) : Ty := if t = .f64 then .f64 else .f32

/-- The value of a contribution, with NaN-skip (R256, R258). -/
def redLeaf (e : Nat) (rank : Nat) (bs : List (Byte × Bool)) : RedVal :=
  let t := chTy e
  let w := t.bits / 8
  let n := chElems e
  let cells (i : Nat) : List (Byte × Bool) := (bs.drop (i * w)).take w
  let code (i : Nat) : Nat := bytesNat ((cells i).map (·.1))
  let nan (i : Nat) : Bool := t.isFloat && isNan (decodeF false t (code i))
  let gone (i : Nat) : Bool := match chNsk e with
    | 1 => nan i
    | 2 => ((List.range n).filter (fun j => j / 32 == i / 32)).any nan
    | _ => false
  let val (i : Nat) : Int := if t.isFloat then ((roundTo {} (afOf t) (decodeF false t (code i)) : Nat) : Int) else decodeI t (code i)
  { vals := (List.range n).map (fun i => (if gone i then none else some (val i), (cells i).any (·.2))),
    counts := match chNsk e with
      | 1 => (List.range n).map (fun i => if gone i then 0 else 1)
      | 2 => (List.range (cdiv n 32)).map (fun b => if gone (32 * b) then 0 else 1)
      | _ => [],
    ranks := [rank] }

/-- Combines two elements (R256). -/
def redOp (e : Nat) (a c : Int) : Int :=
  let t := chTy e
  let f := afOf t
  if t.isFloat then
    let x := decodeF false f a.toNat
    let y := decodeF false f c.toNat
    match chRop e with
    | 3 => ((roundTo {} f (minN x y) : Nat) : Int)
    | 4 => ((roundTo {} f (maxN x y) : Nat) : Int)
    | _ => ((roundTo {} f (addN false x y) : Nat) : Int)
  else match chRop e with
    | 3 => min a c
    | 4 => max a c
    | _ => a + c

/-- Combines a running value with another (R256, R258). -/
def redJoin (e : Nat) (a c : RedVal) : RedVal :=
  { vals := (List.range (chElems e)).map (fun i =>
      let (x, p) := lget (none, false) a.vals i
      let (y, q) := lget (none, false) c.vals i
      ((match x, y with
        | some x, some y => some (redOp e x y)
        | some x, none => some x
        | none, y => y), p || q)),
    counts := (List.range (max a.counts.length c.counts.length)).map (fun i => lget 0 a.counts i + lget 0 c.counts i),
    ranks := a.ranks ++ c.ranks }

/-- The final write of a running value: its bytes with poison (R256, R258). -/
def redFinal (e : Nat) (v : RedVal) : List (Byte × Bool) :=
  let t := chTy e
  (List.range (chElems e)).flatMap (fun i =>
    let (x, p) := lget (none, false) v.vals i
    let code := match x with
      | none => 0
      | some x =>
        if t.isFloat then roundTo {} t (decodeF false (afOf t) x.toNat)
        else if chRop e = 2 then wrap t.bits (satI x t)
        else wrap t.bits x
    (natBytes (t.bits / 8) code).map (fun b => (b, p)))

/-! Groups. -/

/-- Acts on the group an event names: with its partition and its record. -/
def State.onGroup (s : State) (g : Nat) (f : Nat → Group → State → State) : State :=
  let p := g / 2 ^ 16
  match (s.part p).groups[g % 2 ^ 16]? with
  | some k => f p k s
  | none => s

def Group.step (k : Group) (st : Nat) : Option RedStep := k.steps.find? (fun r => r.step == st)
def State.modStep (s : State) (p : Nat) (k : Group) (st : Nat) (f : RedStep → RedStep) : State :=
  s.modGroup p k.lid k.ch (fun k => { k with steps := k.steps.map (fun r => if r.step = st then f r else r) })

/-- A result goes to a receiver of this package, the first complete delivery only (R254, R257). -/
def State.deliver (s : State) (p : Nat) (k : Group) (st rank path : Nat) (v : RedVal) : State :=
  match k.step st with
  | none => s
  | some r =>
    let m := k.member rank
    if m.1 ≠ s.node ∨ !m.2.2 ∨ r.done.contains rank then s
    else
      let s := s.modStep p k st (fun r => { r with done := r.done ++ [rank] })
      { s with flights := s.flights ++
        [{ part := p, lid := k.lid, gang := m.2.1, ch := k.ch, idx := st, bytes := redFinal (s.chan p k.lid k.ch) v, counts := v.counts,
           path := path }] }

/-- A contribution for a reducer: this package's copy, or another package's bytes, any half of which may be poisoned (R242, R256, log 6). -/
def State.contribution (s : State) (p : Nat) (k : Group) (r : RedStep) (rank : Nat) : Option (State × RedVal) :=
  let e := s.chan p k.lid k.ch
  if (k.member rank).1 = s.node then
    (r.subs.find? (fun c => c.rank == rank)).map (fun c => (s, redLeaf e rank c.bytes))
  else if rank < k.members.length ∧ s.linkUp (k.member rank).1 then
    some (s.nextFree, redLeaf e rank ((List.range (chShape e)).map (fun i =>
      (Config.remoteByte s.free i, Config.remotePoison (s.free * 65536 + i / 64)))))
  else none

/-- The first reducer has accepted a contribution: its command's token completes (R254). -/
def State.accept (s : State) (p : Nat) (k : Group) (r : RedStep) (rank : Nat) : State :=
  match r.subs.find? (fun c => c.rank == rank && !c.taken) with
  | none => s
  | some c =>
    let s := s.modStep p k r.step (fun r => { r with subs := r.subs.map (fun c => if c.rank = rank then { c with taken := true } else c) })
    match c.sender with
    | some key => s.modSender p key (fun m => { m with phase := .ended })
    | none => s

/-! Events. -/

/-- What reaches a switch of the tree: ranks, and P + the switches below it (R255). -/
def Group.under (k : Group) (sw : Nat) : List Nat := ((k.kids.find? (fun x => x.1 == sw)).map (·.2)).getD []

/-- A step that a member of another package has opened and this one has not yet (R257). -/
def Group.stepNew (k : Group) (st : Nat) : RedStep := { step := st, sw := k.switches st }
def State.seeStep (s : State) (p : Nat) (k : Group) (st : Nat) : State :=
  s.modGroup p k.lid k.ch (fun k => if k.steps.any (fun r => r.step == st) then k else { k with steps := k.steps ++ [k.stepNew st] })

/-- SWITCH_COMBINE (R255, R256): switch `sw` takes what the tree leads to it: the contribution of a rank, or the partial that switch
`rank - P` has formed, be it one removed since (R257, R362); the partial of every rank is the result, which goes to the receivers. A switch
without the key combines nothing. A step may be one that only other packages have opened so far. -/
def execSwitchCombine (g step sw rank : Nat) (s : State) : Host.Outcome State Fault Refusal :=
  .next (s.onGroup g (fun p k s =>
      let r := (k.step step).getD (k.stepNew step)
      if !r.sw ∨ !k.att.contains sw ∨ !(k.under sw).contains rank then s
      else
        let e := s.chan p k.lid k.ch
        let n := k.members.length
        let mine := (r.sws.find? (fun x => x.1 == sw)).map (·.2)
        let got : Option (State × RedVal) :=
          if n ≤ rank then
            (if rank - n = sw then none else (r.sws.find? (fun x => x.1 == rank - n)).map (fun x => (s, x.2)))
          else if r.sws.any (fun x => x.2.ranks.contains rank) then none
          else s.contribution p k r rank
        match got with
        | none => s
        | some (s, v) =>
          let v := match mine with | some a => redJoin e a v | none => v
          let s := s.seeStep p k step
          let s := if rank < n then s.accept p k r rank else s
          if v.ranks.length = n then
            (List.range n).foldl (fun s i => s.deliver p k step i 2 v)
              (s.modStep p k step (fun r => { r with sws := [] }))
          else
            s.modStep p k step (fun r =>
              { r with sws := (sw, v) :: r.sws.filter (fun x => x.1 != sw && !(decide (n ≤ rank) && x.1 == rank - n)) })))

/-- Contributions in the queue of a stack's Pugmill (R255). -/
def State.pugCount (s : State) (stack : Nat) : Nat :=
  (s.parts.flatMap (fun p => p.2.groups.flatMap (fun k => k.steps.flatMap (fun r => r.wait.filter (fun x => x.1 == stack))))).length

/-- A Pugmill combines a contribution into the slot; the P-th makes the result. -/
def State.pugTake (s : State) (p : Nat) (k : Group) (r : RedStep) (recv rank : Nat) : State :=
  let e := s.chan p k.lid k.ch
  match s.contribution p k r rank with
  | none => s
  | some (s, v) =>
    let v := match (r.pugs.find? (fun x => x.1 == recv)).map (·.2) with | some a => redJoin e a v | none => v
    let s := s.modStep p k r.step (fun r => { r with
      pugs := (recv, v) :: r.pugs.filter (fun x => x.1 != recv), wait := r.wait.filter (fun x => !(x.2.1 == recv && x.2.2 == rank)) })
    let g := (k.member recv).2.1
    let s := s.modEp p k.lid g k.ch (fun x => let i := r.step % chDepth e; { x with filling := i :: x.filling.filter (· != i) })
    if v.ranks.length = k.members.length then s.deliver p k r.step recv 3 v else s

/-- PUGMILL_CONTRIBUTION (R255, R256): the contribution of a rank enters the queue of the Pugmill of the stack that homes the slot of
receiver `recv`, unless its 512 places are taken, which holds back the ports; once the slot is EMPTY the Pugmill takes the oldest one of
the step. Of a slot with lines homed on several stacks the first line's stack decides: the model's choice, since R255 speaks of one (log 110). -/
def execPugmillContribution (g step recv rank : Nat) (s : State) : Host.Outcome State Fault Refusal :=
  .next (s.onGroup g (fun p k s =>
    match k.step step with
    | none => s
    | some r =>
      if (r.sw ∧ !r.resent) ∨ !(k.member recv).2.2 then s
      else if (k.member recv).1 ≠ s.node then s.accept p k r rank
      -- a receiver keeps the first complete delivery and discards the rest (R257)
      else if r.done.contains recv then s.modStep p k step (fun r => { r with wait := r.wait.filter (fun x => x.2.1 != recv) })
      else
        let e := s.chan p k.lid k.ch
        let ep := s.ep p k.lid (k.member recv).2.1 k.ch
        let empty := decide (sub32 (step % 2 ^ 32) ep.rseq < chDepth e)
        let stack := s.stackVa p (chSlot e (step % chDepth e))
        let taken := ((r.pugs.find? (fun x => x.1 == recv)).map (fun x => x.2.ranks.contains rank)).getD false
        let new := !taken && !r.wait.any (fun x => x.2.1 == recv && x.2.2 == rank) &&
          decide (s.pugCount stack < 512) && (s.contribution p k r rank).isSome
        let s := if new then (s.accept p k r rank).modStep p k step (fun r => { r with wait := r.wait ++ [(stack, recv, rank)] }) else s
        let wait := if new then r.wait ++ [(stack, recv, rank)] else r.wait
        match empty, wait.find? (fun x => x.2.1 == recv) with
        | true, some x => s.pugTake p k { r with wait := wait } recv x.2.2
        | _, _ => s))

/-- A switch has been measured: its next measurement is due after the period as it stands now (R367). -/
def Group.measureNext (k : Group) (period now sw : Nat) : Group :=
  { k with remeasure := (sw, now + period * 10 ^ 9) :: k.remeasure.filter (fun x => x.1 != sw) }

/-- SWITCH_REMEASURE (R257, R367): a switch passes or fails its measurement, or its session ends. A switch outside the tree joins it while no
step has been opened, with what the fabric leads to it; later a change waits for F. -/
def execSwitchRemeasure (g sw : Nat) (ok : Bool × List Nat) (s : State) : Host.Outcome State Fault Refusal :=
  .next (s.onGroup g (fun p k s =>
    s.modGroup p k.lid k.ch (fun k =>
      let k := k.measureNext (s.part p).measPeriod s.time sw
      if k.tree.contains sw then
        (if ok.1 then
           (if k.att.contains sw ∨ k.join.contains sw then k else { k with join := k.join ++ [sw], waitF := true })
         else if k.att.contains sw then
           { k with att := k.att.filter (· != sw), waitF := true, removals := (s.time, none) :: k.removals }
         else { k with join := k.join.filter (· != sw) })
      else if k.steps = [] ∧ k.trans.length ≤ 1 then
        let tree := k.tree ++ [sw]
        let att := if ok.1 then k.att ++ [sw] else k.att
        let mine := ok.2.filter (fun i => !k.kids.any (fun x => x.2.contains i))
        { k with tree := tree, att := att, kids := k.kids ++ [(sw, mine)], trans := [(0, att == tree)] }
      else k)))

/-- Steps that some member has opened, as far as they are known here: those that the members of this package opened, and those that a
contribution of another package belongs to. -/
def State.openedHere (s : State) (p : Nat) (k : Group) : Nat :=
  let own := (List.range (s.launch p k.lid).g).foldl (fun a i => max a (s.ep p k.lid i k.ch).opened) 0
  k.steps.foldl (fun a r => max a (r.step + 1)) own

/-- SWITCH_REMOVAL (R257): every member has acknowledged, and the Kryel processor sends F: 1 plus the highest step that any member reports, 0
where none has opened a step: the model's reading (log 114). `opened` is that number for the members of other packages. The switches that were re-attested join at it; CH.STAT
keeps the first F that a removal forced steps to PUGMILL at (R261). -/
def execSwitchRemoval (g _sw opened : Nat) (s : State) : Host.Outcome State Fault Refusal :=
  .next (s.onGroup g (fun p k s =>
    if !k.waitF then s
    else
      let here := s.openedHere p k
      let f := if k.members.all (fun m => m.1 == s.node) then here else max opened here
      s.modGroup p k.lid k.ch (fun k =>
        let att := k.tree.filter (fun x => k.att.contains x || k.join.contains x)
        let all := att == k.tree && k.tree != []
        let forced := !all && k.removals.any (fun x => x.2.isNone) && k.switches f && k.f == 0xFFFFFFFF
        { k with att := att, join := [], waitF := false, trans := (f, all) :: k.trans, f := if forced then f % 2 ^ 32 else k.f,
                 removals := k.removals.map (fun x => (x.1, some (x.2.getD f))) })))

/-- Measurements of a group's switches that are due: at the period of the partition that holds rank 0 on its package, as it stood when the
measurement was scheduled (R257, R367); a switch that has not answered 10 s later has failed. -/
def State.measureTurns (s : State) (p g : Nat) (k : Group) : List Turn :=
  if (k.member 0).1 ≠ s.node then []
  else k.att.filterMap (fun w =>
    let due := ((k.remeasure.find? (fun x => x.1 == w)).map (·.2)).getD ((s.part p).measPeriod * 10 ^ 9)
    if s.time < due then none else some (.event (.switchRemeasure g w (decide (s.time < due + 10 ^ 10), []))))

/-- RESEND_TIMEOUT (R257): from 1,000,000 ticks after a removal on, steps below its F that have not been delivered at every receiver are
sent again on PUGMILL from their copies. What receivers of other packages have, this one does not know: it sends again. -/
def execResendTimeout (g : Nat) (s : State) : Host.Outcome State Fault Refusal :=
  .next (s.onGroup g (fun p k s =>
    let want := (List.range k.members.length).filter (fun i => (k.member i).2.2)
    let late (r : RedStep) : Bool := k.removals.any (fun x => match x.2 with
      | some f => decide (x.1 + 1000000 ≤ s.time) && decide (r.step < f)
      | none => false)
    s.modGroup p k.lid k.ch (fun k =>
      { k with steps := k.steps.map (fun r =>
          if r.sw ∧ late r ∧ ¬ want.all (fun i => (k.member i).1 == s.node && r.done.contains i) then { r with resent := true } else r) })))

end Sys2Proof.Machine
end

