-- ==== Sys2Proof/Machine/Scalar.lean ====
section
/-! DEFINITION. Scalar operations of the C and X slots (R174 to R178) and the X slot's pattern operations (R129, R132). -/

namespace Sys2Proof.Machine

/-- The slot number of a C-or-X operation. -/
def CxUnit.num (u : CxUnit) : Nat := u.slot.num

/-- A scalar operation: operands read at issue, one result of a fixed latency (R174). -/
def alu (u : CxUnit) (lat : Nat) (d : SReg) (f : Strand → Word) : SlotOp :=
  op (CxUnit.num u) 1 (fun s => ok (s.fixed (CxUnit.num u) lat [s.me.wS d (f s.me)]))

/-- Bits [127:64] of the exact product (R175). -/
def mulhVal (k : MulhKind) (a b : Word) : Word :=
  match k with
  | .signed => BitVec.ofInt 64 ((a.toInt * b.toInt) / 2 ^ 64)
  | .natural => BitVec.ofNat 64 ((a.toNat * b.toNat) / 2 ^ 64)
  | .signedNatural => BitVec.ofInt 64 ((a.toInt * (b.toNat : Int)) / 2 ^ 64)

/-- Div (R176). -/
def divVal (natural : Bool) (a b : Word) : Word :=
  if b = 0 then BitVec.allOnes 64
  else if natural then BitVec.ofNat 64 (a.toNat / b.toNat)
  else BitVec.ofInt 64 (a.toInt.tdiv b.toInt)

/-- Rem (R176): takes the sign of a. -/
def remVal (natural : Bool) (a b : Word) : Word :=
  if b = 0 then a
  else if natural then BitVec.ofNat 64 (a.toNat % b.toNat)
  else BitVec.ofInt 64 (a.toInt.tmod b.toInt)

/-- Leading zero bits, 0 to 64 (R175). -/
def clzVal (a : Word) : Word := if a = 0 then 64 else BitVec.ofNat 64 (63 - a.toNat.log2)

/-- Set bits, 0 to 64 (R175). -/
def popcVal (a : Word) : Word := BitVec.ofNat 64 ((List.range 64).filter (fun i => a.getLsbD i)).length

/-- MIN and MAX (R175). -/
def minVal (natural : Bool) (a b : Word) : Word := if (if natural then b.ult a else b.slt a) then b else a
def maxVal (natural : Bool) (a b : Word) : Word := if (if natural then a.ult b else a.slt b) then b else a

/-- The count or position of format XS (R177). -/
def Strand.shAmt (t : Strand) : RegOrSh → Nat
  | .reg b => (t.sreg b).toNat % 64
  | .imm sh => sh.toNat

/-- A field of `w` + 1 bits at position `p`; past bit 63 it ends there (R177). -/
def fieldLen (p w : Nat) : Nat := min (w + 1) (64 - p)

/-- BFX and BFI (R177). -/
def bfxVal (a : Word) (p w : Nat) : Word := BitVec.ofNat 64 ((a.toNat >>> p) % 2 ^ fieldLen p w)
def bfiVal (d a : Word) (p w : Nat) : Word :=
  let m : Word := BitVec.ofNat 64 ((2 ^ fieldLen p w - 1) * 2 ^ p)
  (d &&& ~~~m) ||| ((a <<< p) &&& m)

/-- LIH (R178). -/
def lihVal (a : Word) (imm : BitVec 32) : Word := imm ++ a.extractLsb' 0 32

/-- ADD (R175). -/
def opAdd (u : CxUnit) (d a b : SReg) : SlotOp := alu u 1 d (fun t => t.sreg a + t.sreg b)
def execAdd (u : CxUnit) (d a b : SReg) (s : State) : Host.Outcome State Fault Refusal := meaning (opAdd u d a b) s

/-- SUB (R175). -/
def opSub (u : CxUnit) (d a b : SReg) : SlotOp := alu u 1 d (fun t => t.sreg a - t.sreg b)
def execSub (u : CxUnit) (d a b : SReg) (s : State) : Host.Outcome State Fault Refusal := meaning (opSub u d a b) s

/-- ADDI (R178). -/
def opAddi (u : CxUnit) (d a : SReg) (imm : BitVec 32) : SlotOp := alu u 1 d (fun t => t.sreg a + imm.signExtend 64)
def execAddi (u : CxUnit) (d a : SReg) (imm : BitVec 32) (s : State) : Host.Outcome State Fault Refusal := meaning (opAddi u d a imm) s

/-- MUL (R175). -/
def opMul (u : CxUnit) (d a b : SReg) : SlotOp := alu u 3 d (fun t => t.sreg a * t.sreg b)
def execMul (u : CxUnit) (d a b : SReg) (s : State) : Host.Outcome State Fault Refusal := meaning (opMul u d a b) s

/-- MULH (R175). -/
def opMulh (u : CxUnit) (k : MulhKind) (d a b : SReg) : SlotOp := alu u 3 d (fun t => mulhVal k (t.sreg a) (t.sreg b))
def execMulh (u : CxUnit) (k : MulhKind) (d a b : SReg) (s : State) : Host.Outcome State Fault Refusal := meaning (opMulh u k d a b) s

/-- DIV (R176). -/
def opDiv (u : CxUnit) (natural : Bool) (d a b : SReg) : SlotOp := alu u 18 d (fun t => divVal natural (t.sreg a) (t.sreg b))
def execDiv (u : CxUnit) (natural : Bool) (d a b : SReg) (s : State) : Host.Outcome State Fault Refusal := meaning (opDiv u natural d a b) s

/-- REM (R176). -/
def opRem (u : CxUnit) (natural : Bool) (d a b : SReg) : SlotOp := alu u 18 d (fun t => remVal natural (t.sreg a) (t.sreg b))
def execRem (u : CxUnit) (natural : Bool) (d a b : SReg) (s : State) : Host.Outcome State Fault Refusal := meaning (opRem u natural d a b) s

/-- MADD (R175). -/
def opMadd (u : CxUnit) (d a b c : SReg) : SlotOp := alu u 3 d (fun t => t.sreg a * t.sreg b + t.sreg c)
def execMadd (u : CxUnit) (d a b c : SReg) (s : State) : Host.Outcome State Fault Refusal := meaning (opMadd u d a b c) s

/-- AND (R175). -/
def opAnd (u : CxUnit) (d a b : SReg) : SlotOp := alu u 1 d (fun t => t.sreg a &&& t.sreg b)
def execAnd (u : CxUnit) (d a b : SReg) (s : State) : Host.Outcome State Fault Refusal := meaning (opAnd u d a b) s

/-- OR (R175). -/
def opOr (u : CxUnit) (d a b : SReg) : SlotOp := alu u 1 d (fun t => t.sreg a ||| t.sreg b)
def execOr (u : CxUnit) (d a b : SReg) (s : State) : Host.Outcome State Fault Refusal := meaning (opOr u d a b) s

/-- XOR (R175). -/
def opXor (u : CxUnit) (d a b : SReg) : SlotOp := alu u 1 d (fun t => t.sreg a ^^^ t.sreg b)
def execXor (u : CxUnit) (d a b : SReg) (s : State) : Host.Outcome State Fault Refusal := meaning (opXor u d a b) s

/-- ANDN (R175). -/
def opAndn (u : CxUnit) (d a b : SReg) : SlotOp := alu u 1 d (fun t => t.sreg a &&& ~~~t.sreg b)
def execAndn (u : CxUnit) (d a b : SReg) (s : State) : Host.Outcome State Fault Refusal := meaning (opAndn u d a b) s

/-- SHL (R177). -/
def opShl (u : CxUnit) (d a : SReg) (n : RegOrSh) : SlotOp := alu u 1 d (fun t => t.sreg a <<< t.shAmt n)
def execShl (u : CxUnit) (d a : SReg) (n : RegOrSh) (s : State) : Host.Outcome State Fault Refusal := meaning (opShl u d a n) s

/-- SHR (R177). -/
def opShr (u : CxUnit) (d a : SReg) (n : RegOrSh) : SlotOp := alu u 1 d (fun t => t.sreg a >>> t.shAmt n)
def execShr (u : CxUnit) (d a : SReg) (n : RegOrSh) (s : State) : Host.Outcome State Fault Refusal := meaning (opShr u d a n) s

/-- SAR (R177). -/
def opSar (u : CxUnit) (d a : SReg) (n : RegOrSh) : SlotOp := alu u 1 d (fun t => (t.sreg a).sshiftRight (t.shAmt n))
def execSar (u : CxUnit) (d a : SReg) (n : RegOrSh) (s : State) : Host.Outcome State Fault Refusal := meaning (opSar u d a n) s

/-- ROT (R177). -/
def opRot (u : CxUnit) (d a : SReg) (n : RegOrSh) : SlotOp := alu u 1 d (fun t => (t.sreg a).rotateRight (t.shAmt n))
def execRot (u : CxUnit) (d a : SReg) (n : RegOrSh) (s : State) : Host.Outcome State Fault Refusal := meaning (opRot u d a n) s

/-- CLZ (R175). -/
def opClz (u : CxUnit) (d a : SReg) : SlotOp := alu u 1 d (fun t => clzVal (t.sreg a))
def execClz (u : CxUnit) (d a : SReg) (s : State) : Host.Outcome State Fault Refusal := meaning (opClz u d a) s

/-- POPC (R175). -/
def opPopc (u : CxUnit) (d a : SReg) : SlotOp := alu u 1 d (fun t => popcVal (t.sreg a))
def execPopc (u : CxUnit) (d a : SReg) (s : State) : Host.Outcome State Fault Refusal := meaning (opPopc u d a) s

/-- MIN (R175). -/
def opMin (u : CxUnit) (natural : Bool) (d a b : SReg) : SlotOp := alu u 1 d (fun t => minVal natural (t.sreg a) (t.sreg b))
def execMin (u : CxUnit) (natural : Bool) (d a b : SReg) (s : State) : Host.Outcome State Fault Refusal := meaning (opMin u natural d a b) s

/-- MAX (R175). -/
def opMax (u : CxUnit) (natural : Bool) (d a b : SReg) : SlotOp := alu u 1 d (fun t => maxVal natural (t.sreg a) (t.sreg b))
def execMax (u : CxUnit) (natural : Bool) (d a b : SReg) (s : State) : Host.Outcome State Fault Refusal := meaning (opMax u natural d a b) s

/-- SEL (R175). -/
def opSel (u : CxUnit) (d a b c : SReg) : SlotOp := alu u 1 d (fun t => if t.sreg c ≠ 0 then t.sreg a else t.sreg b)
def execSel (u : CxUnit) (d a b c : SReg) (s : State) : Host.Outcome State Fault Refusal := meaning (opSel u d a b c) s

/-- CMP.cc (R175). -/
def opCmpCc (u : CxUnit) (cc : CC) (d a b : SReg) : SlotOp := alu u 1 d (fun t => if ccHolds cc (t.sreg a) (t.sreg b) then 1 else 0)
def execCmpCc (u : CxUnit) (cc : CC) (d a b : SReg) (s : State) : Host.Outcome State Fault Refusal := meaning (opCmpCc u cc d a b) s

/-- LI (R178). -/
def opLi (u : CxUnit) (d : SReg) (imm : BitVec 32) : SlotOp := alu u 1 d (fun _ => imm.signExtend 64)
def execLi (u : CxUnit) (d : SReg) (imm : BitVec 32) (s : State) : Host.Outcome State Fault Refusal := meaning (opLi u d imm) s

/-- LIH (R178). -/
def opLih (u : CxUnit) (d a : SReg) (imm : BitVec 32) : SlotOp := alu u 1 d (fun t => lihVal (t.sreg a) imm)
def execLih (u : CxUnit) (d a : SReg) (imm : BitVec 32) (s : State) : Host.Outcome State Fault Refusal := meaning (opLih u d a imm) s

/-- BFX (R177). -/
def opBfx (u : CxUnit) (d a : SReg) (pos : RegOrSh) (w : BitVec 6) : SlotOp := alu u 1 d (fun t => bfxVal (t.sreg a) (t.shAmt pos) w.toNat)
def execBfx (u : CxUnit) (d a : SReg) (pos : RegOrSh) (w : BitVec 6) (s : State) : Host.Outcome State Fault Refusal := meaning (opBfx u d a pos w) s

/-- BFI (R177): reads d at issue. -/
def opBfi (u : CxUnit) (d a : SReg) (pos : RegOrSh) (w : BitVec 6) : SlotOp := alu u 1 d (fun t => bfiVal (t.sreg d) (t.sreg a) (t.shAmt pos) w.toNat)
def execBfi (u : CxUnit) (d a : SReg) (pos : RegOrSh) (w : BitVec 6) (s : State) : Host.Outcome State Fault Refusal := meaning (opBfi u d a pos w) s

/-! Pattern operations. -/

/-- QSET's image, or the cause (R129, R130). -/
def qsetImage (s : State) (bm : BaseMode) (pool : Nat) : Except Exc Nat :=
  let t := s.me
  let k := s.core s.cur
  let bad : Exc := { cause := .reservedField, slot := 1 }
  let p := (tget 0 k.pool pool).toNat
  if k.poolN ≤ pool then .error bad
  else
    let form := match bm with
      | .none => true
      | .base _ => qKind p == 1
      | .origin _ => qKind p == 2
    if !form then .error bad
    else if qAs p = 3 ∧ t.ctl.dbase = 0 then .error bad
    else
      let img := if qAs p = 3 then qPut (qPut p 381 379 1) 511 448 (t.ctl.dbase + qBase p) else p
      match bm with
      | .none => .ok (qPut img 360 360 0)
      | .base r => .ok (qPut (qPut img 511 448 (qBase img + (t.sreg r).toNat)) 360 360 0)
      | .origin r =>
        let v := (t.sreg r).toNat
        let img :=
          if qHreg p then qPut (qPut img 372 361 (v / 2 ^ 52)) 511 448 (qBase p + v % 2 ^ 52)
          else qPut img 511 448 (qBase p + v)
        if t.ctl.ttcount ≤ qHandle img then .error { cause := .access, aux := t.ctl.ttbase + 64 * qHandle img, slot := 1 }
        else .ok (qPut img 360 360 0)

/-- A pool entry as QSET reads it (R126), by the rules of R33; a copy that cannot be read back counts as one that fails (log 66). -/
def poolRead (s : State) (e : Nat) : Except Exc State :=
  let k := s.core s.cur
  let n := tget 0 k.soft (poolKey e)
  let va := k.poolSrc + 64 * e
  if n = 0 then .ok s
  else if n ≤ 8 then .ok (s.modCore s.cur (fun k => k.mend (poolKey e)))
  else match s.glRead { part := s.me.part, slot := s.me.part, core := s.cur, agent := 1, node := s.node, own := false } va 64 s.me.bpos with
    | .ok s bs false ts =>
      .ok ((s.countFrames s.cur ts).modCore s.cur (fun k => { k with pool := tput 0 k.pool e (BitVec.ofNat 512 (bytesNat bs)), soft := tput 0 k.soft (poolKey e) 0 }))
    | _ => .error { cause := .uncorrectable, aux := va, slot := 1 }

/-- QSET (R129). -/
def opQset (q : QReg) (bm : BaseMode) (pool : BitVec 12) : SlotOp :=
  op 1 1 (fun s => match (if (s.core s.cur).poolN ≤ pool.toNat then .ok s else poolRead s pool.toNat) with
    | .error e => .error e
    | .ok s => match qsetImage s bm pool.toNat with
      | .ok img => ok (s.fixed 1 2 [.q q.toNat (BitVec.ofNat 512 img)])
      | .error e => .error e)
def execQset (q : QReg) (bm : BaseMode) (pool : BitVec 12) (s : State) : Host.Outcome State Fault Refusal := meaning (opQset q bm pool) s

/-- QCLR (R129). -/
def opQclr (q : QReg) : SlotOp := op 1 1 (fun s => ok (s.fixed 1 2 [.q q.toNat 0]))
def execQclr (q : QReg) (s : State) : Host.Outcome State Fault Refusal := meaning (opQclr q) s

/-- SYMIX's result (R132). -/
def symixVal (mult : Bool) (d : Nat) (c : List Nat) : Word :=
  if (List.range (dRank d)).any (fun i => decide (dExt d i ≤ lget 0 c i)) then BitVec.allOnes 64
  else if mult then BitVec.ofNat 64 (orbitMult d c)
  else
    let (off, neg, zero) := canon d c
    BitVec.ofNat 64 ((if zero then 2 ^ 63 else 0) + (if neg then 2 ^ 62 else 0) + off)

/-- SYMIX (R132): the coordinates are consecutive S6 encodings. -/
def opSymix (mult : Bool) (d a b : SReg) : SlotOp :=
  { slot := 1, results := 1,
    gate := fun s => descGate 0 ((s.me.sreg a).toNat % 4096) s,
    run := fun s =>
      let t := s.me
      match s.needDesc 1 0 ((t.sreg a).toNat % 4096) with
      | .error e => .error e
      | .ok D =>
        if 0x3F < b.toNat + dRank D - 1 then raise 1 .reservedField
        else
          let c := (List.range (dRank D)).map (fun i => (t.sreg (b + BitVec.ofNat 6 i)).toNat)
          ok (s.fixed 1 3 [t.wS d (symixVal mult D c)]) }
def execSymix (mult : Bool) (d a b : SReg) (s : State) : Host.Outcome State Fault Refusal := meaning (opSymix mult d a b) s

end Sys2Proof.Machine
end

