-- ==== Sys2Proof/Machine/Bundle.lean ====
section
/-! DEFINITION. The slot operation an instruction stands for in a bundle (R38); an event stands in no bundle. -/

namespace Sys2Proof.Machine

/-- The operation of a decoded slot. -/
def slotOp (i : Instr) : SlotOp :=
  match i with
  | .nop slot land => opNop slot land
  | .idleBundle => opIdleBundle
  | .br land tgt => opBr land tgt
  | .brCc land cc a b tgt => opBrCc land cc a b tgt
  | .bri land a => opBri land a
  | .loop land a tgt => opLoop land a tgt
  | .call land w tgt => opCall land w tgt
  | .calli land a w => opCalli land a w
  | .ret land => opRet land
  | .wait land k0 k1 k2 k3 => opWait land k0 k1 k2 k3
  | .barArrive land b => opBarArrive land b
  | .barWait land b => opBarWait land b
  | .barSs land b => opBarSs land b
  | .yield land => opYield land
  | .exit land => opExit land
  | .setfmt land src => opSetfmt land src
  | .mfc land a cr => opMfc land a cr
  | .mtc land cr src => opMtc land cr src
  | .rgnBegin land rid retry abm fs tgt => opRgnBegin land rid retry abm fs tgt
  | .rgnKeep land keep => opRgnKeep land keep
  | .rgnEnd land rid => opRgnEnd land rid
  | .rgnEndC land rid => opRgnEndC land rid
  | .rgnAbort land code => opRgnAbort land code
  | .chk land a b => opChk land a b
  | .chkV land a b m ty => opChkV land a b m ty
  | .trap land imm => opTrap land imm
  | .eret land => opEret land
  | .dictLoad land a e0 n clr => opDictLoad land a e0 n clr
  | .add u d a b => opAdd u d a b
  | .sub u d a b => opSub u d a b
  | .addi u d a imm => opAddi u d a imm
  | .mul u d a b => opMul u d a b
  | .mulh u k d a b => opMulh u k d a b
  | .div u natural d a b => opDiv u natural d a b
  | .rem u natural d a b => opRem u natural d a b
  | .madd u d a b c => opMadd u d a b c
  | .and u d a b => opAnd u d a b
  | .or u d a b => opOr u d a b
  | .xor u d a b => opXor u d a b
  | .andn u d a b => opAndn u d a b
  | .shl u d a n => opShl u d a n
  | .shr u d a n => opShr u d a n
  | .sar u d a n => opSar u d a n
  | .rot u d a n => opRot u d a n
  | .clz u d a => opClz u d a
  | .popc u d a => opPopc u d a
  | .min u natural d a b => opMin u natural d a b
  | .max u natural d a b => opMax u natural d a b
  | .sel u d a b c => opSel u d a b c
  | .cmpCc u cc d a b => opCmpCc u cc d a b
  | .li u d imm => opLi u d imm
  | .lih u d a imm => opLih u d a imm
  | .bfx u d a pos w => opBfx u d a pos w
  | .bfi u d a pos w => opBfi u d a pos w
  | .qset q bm pool => opQset q bm pool
  | .qclr q => opQclr q
  | .symix mult d a b => opSymix mult d a b
  | .ld as sz sgn t a off at_ => opLd as sz sgn t a off at_
  | .st as sz t a off at_ => opSt as sz t a off at_
  | .atom as sz aop ord sgn t a c off at_ => opAtom as sz aop ord sgn t a c off at_
  | .fence mask sc => opFence mask sc
  | .qld as q a off at_ => opQld as q a off at_
  | .ldv v q m ty at_ => opLdv v q m ty at_
  | .stv v q m ty at_ => opStv v q m ty at_
  | .ldvT v q m ty at_ => opLdvT v q m ty at_
  | .stvT v q m ty at_ => opStvT v q m ty at_
  | .vstPack v q m ty at_ => opVstPack v q m ty at_
  | .vpackEnd q ty at_ => opVpackEnd q ty at_
  | .vldExpand v q m ty at_ => opVldExpand v q m ty at_
  | .stashMap w a b c at_ => opStashMap w a b c at_
  | .stashFlush w at_ => opStashFlush w at_
  | .stashInv w at_ => opStashInv w at_
  | .leaseGet d a b c fill at_ => opLeaseGet d a b c fill at_
  | .leaseFree a at_ => opLeaseFree a at_
  | .fadd u ty rnd d a b m => opFadd u ty rnd d a b m
  | .fsub u ty rnd d a b m => opFsub u ty rnd d a b m
  | .fmul u ty rnd d a b m => opFmul u ty rnd d a b m
  | .fma u ty rnd d a b c m => opFma u ty rnd d a b c m
  | .fmin u ty d a b m => opFmin u ty d a b m
  | .fmax u ty d a b m => opFmax u ty d a b m
  | .fabs u ty d a m => opFabs u ty d a m
  | .fneg u ty d a m => opFneg u ty d a m
  | .frcp u ty rnd d a m => opFrcp u ty rnd d a m
  | .frsq u ty rnd d a m => opFrsq u ty rnd d a m
  | .fexp2 u ty rnd d a m => opFexp2 u ty rnd d a m
  | .flog2 u ty rnd d a m => opFlog2 u ty rnd d a m
  | .fcmp u cc ty d a b m => opFcmp u cc ty d a b m
  | .cvt u tyd tys rnd d a m part => opCvt u tyd tys rnd d a m part
  | .cvtQ u tyd tys rnd d c a m part => opCvtQ u tyd tys rnd d c a m part
  | .cvtDq u tyd tys rnd d a b m part => opCvtDq u tyd tys rnd d a b m part
  | .iadd u ty d a b m => opIadd u ty d a b m
  | .isub u ty d a b m => opIsub u ty d a b m
  | .imul u ty d a b m => opImul u ty d a b m
  | .imad u ty d a b c m => opImad u ty d a b c m
  | .iaddSat u ty d a b m => opIaddSat u ty d a b m
  | .isubSat u ty d a b m => opIsubSat u ty d a b m
  | .vmacI8 u tya tyb d a b m part => opVmacI8 u tya tyb d a b m part
  | .vdot4I8 u tya tyb d a b m => opVdot4I8 u tya tyb d a b m
  | .vrshr u ty d a b m sh part => opVrshr u ty d a b m sh part
  | .vand u ty d a b m => opVand u ty d a b m
  | .vor u ty d a b m => opVor u ty d a b m
  | .vxor u ty d a b m => opVxor u ty d a b m
  | .vandn u ty d a b m => opVandn u ty d a b m
  | .vshl u ty d a n m => opVshl u ty d a n m
  | .vshr u ty d a n m => opVshr u ty d a n m
  | .vsar u ty d a n m => opVsar u ty d a n m
  | .vperm u z ty d a b c m => opVperm u z ty d a b c m
  | .vbcast u ty d src m => opVbcast u ty d src m
  | .vsel u ty d a b m => opVsel u ty d a b m
  | .vred u op ty rnd d a m => opVred u op ty rnd d a m
  | .vscan u op ex ty rnd d a m => opVscan u op ex ty rnd d a m
  | .vcmp u cc ty d a b m => opVcmp u cc ty d a b m
  | .mand u d a b => opMand u d a b
  | .mor u d a b => opMor u d a b
  | .mnot u d a => opMnot u d a
  | .mpopc u ty d a => opMpopc u ty d a
  | .vmovS u ty d a lane => opVmovS u ty d a lane
  | .vmovV u ty d a lane => opVmovV u ty d a lane
  | .vrand u ty d m seq => opVrand u ty d m seq
  | .accRd u ty d y hr m => opAccRd u ty d y hr m
  | .accWr u ty y a hr m => opAccWr u ty y a hr m
  | .cpy qd qs e => opCpy qd qs e
  | .cpyL qd qs e => opCpyL qd qs e
  | .cpyRed op ty qd qs e => opCpyRed op ty qd qs e
  | .trig n count qd qs e => opTrig n count qd qs e
  | .tokClr k0 k1 k2 k3 => opTokClr k0 k1 k2 k3
  | .mma i tya tyb y qa qb e => opMma i tya tyb y qa qb e
  | .mmaG f i tya tyb y qa qb e => opMmaG f i tya tyb y qa qb e
  | .mmaW i tya tyb y qa qb e => opMmaW i tya tyb y qa qb e
  | .tgemm tya tyb y qa qb e => opTgemm tya tyb y qa qb e
  | .tcon i tya tyb y qa qb e => opTcon i tya tyb y qa qb e
  | .drain z bs tyt tyo qa y qb e => opDrain z bs tyt tyo qa y qb e
  | .accZero y e => opAccZero y e
  | .gath f ty qd qs qx e => opGath f ty qd qs qx e
  | .scat add f ty qd qs qx e => opScat add f ty qd qs qx e
  | .chSend n q e => opChSend n q e
  | .chRecv n q e => opChRecv n q e
  | .chRecvRel n e => opChRecvRel n e
  | .chRed op ty n q e => opChRed op ty n q e
  | .chFwd n q e => opChFwd n q e
  | .chStat n q e => opChStat n q e
  | .resultLanding _ _ | .resultArrival _ _ _ | .strandSwitch _ | .descriptorLoad _ _ | .codeFetchMiss _ _ | .pageFault _
  | .fbufBaseWrite _ _ | .fbufTailWrite _ _ | .frespRetry _ _ | .frespFail _ _ | .migreq _ _ | .tlbinv _ _
  | .tlbinvWholePartition _ | .tlbinvDone _ | .migrationStart _ _ _ _ | .migrationCopy _ _ | .migrationComplete _ _
  | .floorExpiry _ _ | .pageRequestResponse _ _ _ | .atsInvalidate _ _ _ | .scrubLine _ _ _ | .leaseExpiry _ _
  | .stashWriteback _ _ _ | .copyStart _ | .copySector _ _ | .copyComplete _ _ | .triggerFire _ _ | .engineCommandStart _ _ _
  | .engineCommandComplete _ _ | .gatherRow _ | .channelArrival _ | .channelCommandComplete _ _ | .switchCombine _ _ _ _
  | .pugmillContribution _ _ _ _ | .switchRemeasure _ _ _ | .switchRemoval _ _ _ | .resendTimeout _ | .flitTagFail _
  | .remoteAccess _ _ _ _ _ | .superstepRelease _ _ | .gangEnd _ _ _ | .launch _ _ | .queueNop _ _ | .extwr _ _
  | .unknownRecord _ _ | .gangStart _ _ _ | .launchComplete _ _ | .preempt _ _ | .resume _ _ | .shareSliceExpiry _
  | .placementPeriod _ | .plogBaseWrite _ _ | .registerWrite _ _ _ | .trapSegWrite _ _ | .trapSegCheckDone _
  | .watchpointEnable _ _ _ | .watchpointArmed _ _ | .polCmdLoad _ | .policyCheckDone _ | .policyExpiry _ | .getVersion _
  | .getCapabilities _ | .negotiateAlgorithms _ | .getDigests _ | .getCertificate _ | .challenge _ _ | .getMeasurements _ _ _
  | .keyExchange _ | .finish _ _ | .keyUpdate _ _ | .heartbeat _ _ | .endSession _ _ | .setPolicyKey _ _ _ | .setMeasPeriod _ _ _
  | .lockInterface _ | .startInterface _ | .stopInterface _ | .frozenConfigWrite _ | .ideIntegrityFail _ | .ideKm _ _ _
  | .windowRead _ _ _ _ | .windowWrite _ _ _ _ | .windowAtomic _ _ _ _ _ _ | .setNode | .writeMap | .assign | .fwStage
  | .fwCommit | .checkpoint | .setScrub | .share | .sensorRefresh _ _ | .wearRecompute _ | .functionReady _ | .packageReset
  | .dictLoadComplete _ _ | .storePerformed _ _ _ | .unattributedFault _ | .partitionCreation _ | .partitionDestruction _
  | .debugHalt _ _ | .debugResume _ _ _ | .providerEndLaunch _ _ | .receiveDma _ _ _ | .hkCommandComplete | .logTailWrite _
  | .functionFailedCheck _ => opNop .C false

end Sys2Proof.Machine
end

