-- ==== Sys2Proof/Machine/Issue.lean ====
section
/-! DEFINITION. What a core's issue port does next: the fetch (R24 to R35, R61), the order of causes at a boundary (R62, R323),
switching between contexts (R268), and the events of the port: STRAND_SWITCH, DESCRIPTOR_LOAD, CODE_FETCH_MISS, the
debugger's halt and resume. -/

namespace Sys2Proof.Machine

/-! Fetch. -/

/-- What stands at the fetch position. -/
inductive Fetched where
  | idle (s : State) (n len : Nat)
  | bundle (s : State) (b : Bundle) (len : Nat)
  | cause (s : State) (e : Exc)
  | park (s : State) (key : Option Nat)
  deriving DecidableEq, Repr

/-- The stream the strand runs: its VA and its length in halfwords (R28, R335, R377). -/
def State.stream (s : State) (t : Strand) : Nat × Nat :=
  match t.handler with
  | some h => (h.seg.1, h.seg.2.1)
  | none => (let l := s.launch t.part t.lid; (l.code + 64, l.codeLen))

/-- Reads `n` bytes of code (R30). -/
def State.codeRead (s : State) (c x va n : Nat) (go : State → List Byte → Fetched) : Fetched :=
  let t := s.strand c x
  match s.glRead (s.whoOf c x 1) va n t.pc .x with
  | .ok s bs bad ts =>
    let s := s.countFrames c ts
    if bad then .cause s { cause := .uncorrectable, aux := va } else go s bs
  | .cause s k a => .cause s { cause := k, aux := a }
  | g =>
    let (s, k) := park t.part (t.recOf c x 1 15 .core 4 t.pc 0) g
    .park s k

/-- A dictionary entry at fetch (R33): its single-bit errors are corrected and counted; with a double-bit error it is read once more from
the address recorded at load, and used if that copy is clean. -/
def State.dictRead (s : State) (c x e : Nat) (d : DictEntry) : Fetched :=
  let t := s.strand c x
  let n := tget 0 (s.core c).soft (dictKey e)
  if n = 0 then .bundle s d.word 1
  else if n ≤ 8 then .bundle (s.modCore c (fun k => k.mend (dictKey e))) d.word 1
  else match s.glRead { s.whoOf c x 1 with own := false } d.source 48 t.pc with
    | .ok s bs false ts =>
      let s := s.countFrames c ts
      let w : Bundle := BitVec.ofNat 384 (bytesNat bs)
      .bundle (s.modCore c (fun k => { k with dict := tput {} k.dict e { d with word := w }, soft := tput 0 k.soft (dictKey e) 0 })) w 1
    | .ok s _ true ts => .cause (s.countFrames c ts) { cause := .uncorrectable, aux := d.source }
    | .cause s .. => .cause s { cause := .uncorrectable, aux := d.source }
    | g =>
      let (s, k) := park t.part (t.recOf c x 1 15 .core 1 t.pc 0) g
      .park s k

/-- Whether another context's DICT.LOAD is still to write an entry (R34). -/
def Core.dictBusy (k : Core) (i : Nat) : Bool :=
  k.strands.any (fun e => match e.2.dict with
    | some (a, b, _) => decide (a ≤ i) && decide (i < b)
    | none => false)

/-- The element of the code stream at the fetch position (R24 to R28, R61, R335). -/
def State.fetch (s : State) (c x : Nat) : Fetched :=
  let t := s.strand c x
  let (base, len) := s.stream t
  let pos := t.pc
  let bad (s : State) (k : Cause) : Fetched := .cause s { cause := k }
  if len ≤ pos then bad s .illegalIndex
  else s.codeRead c x (base + 2 * pos) 2 (fun s hw =>
    let h := bytesNat hw
    if h = 0xFFFE then
      if len < pos + 2 then bad s .illegalIndex
      else s.codeRead c x (base + 2 * pos + 2) 2 (fun s n => if bytesNat n = 0 then bad s .illegalIndex else .idle s (bytesNat n) 2)
    else if h = 0xFFFF then
      if len < pos + 25 then bad s .illegalIndex
      else s.codeRead c x (base + 2 * pos + 2) 48 (fun s bs => .bundle s (BitVec.ofNat 384 (bytesNat bs)) 25)
    else if 0x1000 ≤ h then bad s .illegalIndex
    else if t.handler.isSome then bad s .fatal
    else if (s.core c).dictBusy h then .park s none
    else
      let d := tget {} (s.core c).dict h
      if d.valid then s.dictRead c x h d else bad s .illegalIndex)

/-! Decoding what was fetched. -/

/-- The cause of a refused slot word (R61, R62). -/
def rejectExc (r : Reject × Slot) : Exc :=
  { slot := r.2.num,
    cause := match r.1 with
      | .illegalSlot => .illegalSlot
      | .reservedOpcode => .reservedOpcode
      | .reservedField => .reservedField
      | .privOpcode => .privOpcode }

/-- Whether the strand's segment carries the system bit (R335, R378). -/
def State.sysBit (s : State) (t : Strand) : Bool := t.handler.isSome || (s.launch t.part t.lid).system

def isNop (i : Instr) : Bool := match i with
  | .nop .. => true
  | _ => false

/-- A bundle as one instruction, where no more than one slot is not NOP. -/
def soloOf (l : List Instr) : Option Instr :=
  match l.filter (fun i => !isNop i) with
  | [] => l.head?
  | [i] => some i
  | _ => none

/-- The refusals of the first bundle of a new path (R29, R60, R271): `land` says whether it carries LAND. -/
def State.enterCause (s : State) (t : Strand) (land : Bool) : Option (Exc × Nat) :=
  match t.enter with
  | none => none
  | some r =>
    if r.wide ∨ !s.startPos t r.target then some ({ cause := .branchTarget, slot := r.slot }, r.from_)
    else if r.land ∧ !land then some ({ cause := .landingMiss, slot := r.slot }, r.from_)
    else none

/-! Readiness (R268). -/

/-- Results due now. -/
def Strand.due (t : Strand) : List Result := t.plat.results.filter (fun r => decide (r.due ≤ t.sclk))
def Strand.redirectDue (t : Strand) : Bool := t.plat.redirects.any (fun r => decide (r.due ≤ t.sclk))

/-- The state in which a context of a core is the one that issues. -/
def State.as_ (s : State) (c x : Nat) : State := ({ s with cur := c } : State).modCore c (fun k => { k with active := some x })

/-- The gate of what stands at a context's fetch position: a cause or an idle bundle can go. -/
def State.nextGate (s : State) (c x : Nat) : Gate :=
  let t := s.strand c x
  if t.idle ≠ 0 then .go
  else match s.fetch c x with
    | .park .. => .freeze
    | .cause .. => .go
    | .idle .. => .go
    | .bundle s b _ =>
      if (s.enterCause t (bundleLand b)).isSome then .go
      else match decodeBundle (s.sysBit t) b with
        | .error _ => .go
        | .ok l => gateOf (l.map slotOp) s

/-- Whether a context can issue at once, and if not, what its next bundle waits for. -/
def State.outlook (s : State) (c x : Nat) : Gate :=
  let s := s.as_ c x
  let t := s.me
  if !t.resident || t.exited || (t.stopped && !t.step1) || t.fault.isSome || t.dict.isSome then .block
  else if t.rolling.isSome then (if s.rollHeld c x t.frames.length then .freeze else .go)
  else if t.trapping.isSome then (if s.trapReady c x then .go else .freeze)
  else if t.eret then .go
  else if (match t.ssWait with | some b => s.outNow b | none => false) then .block
  else if t.due.any (fun r => !r.arrived) then .freeze
  else if t.reports != [] || t.due.any (fun r => r.exc.isSome) then .go
  else (s.land c x).nextGate c x

/-- A context is ready: it could issue at once (R268). -/
def State.ready (s : State) (c x : Nat) : Bool := s.outlook c x == .go

/-- The descriptor a strand is frozen for, whether it holds the port or not (R114). -/
def State.wants (s : State) (c x : Nat) : Option (Nat × Nat) :=
  match (s.strand c x).want with
  | some w => some w
  | none => match s.outlook c x with
    | .load u h => some (u, h)
    | _ => none

/-- The first ready context after `x`, in ascending order and wrapping (R268). -/
def State.nextReady (s : State) (c x : Nat) : Option Nat :=
  ([1, 2, 3].map (fun i => (x + i) % 4)).find? (fun y => s.ready c y)

/-! A turn of the port. -/

/-- What the port does: it is over with the state as it stands, an instruction is executed, or a bundle of several. -/
inductive Todo where
  | done (s : State)
  | exec (i : Instr) (s : State)
  | ops (l : List Instr) (s : State)
  deriving DecidableEq, Repr

/-- A strand that does not issue: blocked, or frozen since this cy or an earlier one. -/
def Strand.holds (t : Strand) (blocked : Bool) (cy : Nat) : Strand :=
  { t with hold := if blocked then .blocked else (match t.hold with | .frozen c => .frozen c | _ => .frozen cy) }

/-- Whether the active strand gives the port up, if another can take it: a YIELD, a block, or a freeze of 16 cy (R268). A strand that fdb
has halted gives it up too: the model's choice, since R268, R26 and R373 do not say (log 103). -/
def Strand.leaves (t : Strand) (cy : Nat) : Bool :=
  t.post == 2 || t.stopped || (match t.hold with
    | .run => false
    | .blocked => true
    | .frozen c => decide (c + 16 ≤ cy))

/-- A switch decided now: context `y` takes the port and issues two cy later (R268). -/
def State.switchTo (s : State) (c x y : Nat) : State :=
  (s.modStrand c x (fun t => { t with post := 0 })).modCore c (fun k => { k with active := some y, last := y, portAt := s.cy + 2 })

/-- The active strand does not issue: the port changes hands at once where the strand leaves it and another is ready, and otherwise a cy
passes (R268). -/
def State.rest (s : State) (c x : Nat) (blocked : Bool) : State :=
  let s := s.modStrand c x (fun t => t.holds blocked s.cy)
  match if (s.strand c x).leaves s.cy then s.nextReady c x else none with
  | some y => s.switchTo c x y
  | none => { s with cy := s.cy + 1 }

/-- Acts on what was fetched (R60, R62). A position that holds no element (R61: a count of 0, an invalid entry, a literal past the end) raises
ILLEGAL_INDEX before a target without LAND raises LANDING_MISS: the model's choice, since R62 does not order the two (log 117). -/
def State.dispatch (s : State) (c x : Nat) : Todo :=
  let t := s.strand c x
  let pos := t.pc
  let raise_ (s : State) (e : Exc) (from_ : Nat) : Todo := .done (s.raiseAt c x e pos from_)
  let at_ (s : State) (len : Nat) : State := s.modStrand c x (fun t => { t with bpos := pos, pc := pos + len, tries := 0 })
  match s.enterCause t true with
  | some (e, from_) => raise_ s e from_
  | none =>
    match s.fetch c x with
    | .park s k => .done ((s.modStrand c x (fun t => { t with fault := k })).rest c x false)
    | .cause s e => raise_ s e pos
    | .idle s n len =>
      (match s.enterCause t false with
       | some (e, from_) => raise_ s e from_
       | none => .exec .idleBundle ((at_ s len).modStrand c x (fun t => { t with idle := n })))
    | .bundle s b len =>
      match s.enterCause t (bundleLand b) with
      | some (e, from_) => raise_ s e from_
      | none =>
        match decodeBundle (s.sysBit t) b with
        | .error r => raise_ s (rejectExc r) pos
        | .ok l =>
          let g := gateOf (l.map slotOp) s
          if g ≠ .go ∧ (t.holds (g == .block) s.cy).leaves s.cy ∧ (s.nextReady c x).isSome then .done (s.rest c x (g == .block))
          else match soloOf l with
            | some i => .exec i (at_ s len)
            | none => .ops l (at_ s len)

/-- Whether the policy opens DBG and fdb has a breakpoint on the strand's next bundle (R26, R373); a strand that fdb has just resumed or steps
passes it. -/
def State.atBreak (s : State) (t : Strand) : Bool :=
  t.handler.isNone && !t.step1 && bit (s.part t.part).polOpen 0 &&
    (s.part t.part).breaks.any (fun b => b.1 == t.lid && b.2.1 == t.pc && b.2.2.1.all (· == t.gang) && b.2.2.2.all (· == t.sid))

/-- The active strand's turn (R323): what waits, what lands, what was reported, then its bundle. -/
def State.strandTurn (s : State) (c x : Nat) : Todo :=
  let t := s.strand c x
  if t.stopped ∧ ¬ t.step1 then .done { s with cy := s.cy + 1 }
  else if t.fault.isSome then .done (s.rest c x t.dict.isSome)
  -- a DICT.LOAD that runs blocks its strand; with no other to issue it is awaited here (R34, R268)
  else if t.dict.isSome then (if (s.nextReady c x).isSome then .done (s.rest c x true) else .exec (.dictLoadComplete c x) s)
  else if t.rolling.isSome then .done (if s.rollHeld c x t.frames.length then s.rest c x false else s.rollEnd c x)
  else if t.trapping.isSome then .done (if s.trapReady c x then s.trapAgain c x else s.rest c x false)
  else if t.eret then .done (s.eretGo c x)
  else if (match t.ssWait with | some b => s.outNow b | none => false) then .done (s.rest c x true)
  else
    let s := match t.ssWait with
      | some b => (s.setStrand c x { t with ssWait := none }).waited c x b
      | none => s
    let t := s.strand c x
    if t.due.any (fun r => !r.arrived) then .done (s.rest c x false)
    else if t.due ≠ [] ∨ t.redirectDue then .exec (.resultLanding c x) s
    else match t.reports with
      | (e, pc) :: r => .done ((s.setStrand c x { t with reports := r }).raiseAt c x e t.here pc)
      | [] =>
        if t.idle ≠ 0 then .exec .idleBundle s
        else if s.atBreak t then .done { s.setStrand c x { t with stopped := true } with cy := s.cy + 1 }
        else s.dispatch c x

/-- Whether the port's strand may lose it now: it has ended, has yielded, or still waits (R268). -/
def State.mayLeave (s : State) (c x : Nat) : Bool :=
  let t := s.strand c x
  !t.resident || t.exited || (t.leaves s.cy && (t.post == 2 || !s.ready c x))

/-- A core's turn at its port. -/
def issueTurn (c : Nat) (s : State) : Todo :=
  let s : State := { s with cur := c }
  let k := s.core c
  if k.stopped ∨ s.cy < k.portAt then .done { s with cy := s.cy + 1 }
  else match k.active with
    | none => if (s.nextReady c k.last).isSome ∨ s.ready c k.last then .exec (.strandSwitch c) s else .done { s with cy := s.cy + 1 }
    | some x =>
      let t := s.strand c x
      if !t.resident ∨ t.exited then .done (s.modCore c (fun k => { k with active := none, last := x }))
      else if s.mayLeave c x ∧ (s.nextReady c x).isSome then .exec (.strandSwitch c) s
      else (s.modStrand c x (fun t => { t with post := 0 })).strandTurn c x

/-- STRAND_SWITCH (R268): where the port has no strand, or its strand may lose it, the next ready context takes it and issues two cy
later. A strand that runs is not displaced. -/
def execStrandSwitch (c : Nat) (s : State) : Host.Outcome State Fault Refusal :=
  let k := s.core c
  let x := k.active.getD k.last
  let next := if k.active.isSome ∧ ¬ s.mayLeave c x then none
    else match s.nextReady c x with
      | some y => some y
      | none => if k.active.isNone ∧ s.ready c x then some x else none
  .next (match next with
    | none => s
    | some y => s.switchTo c x y)

/-- DESCRIPTOR_LOAD (R114): the descriptor the next bundle waits for is read into its store of 64. A full store gives up the one it loaded
first: the model's choice, since R114 does not say (log 104). -/
def execDescriptorLoad (c x : Nat) (s : State) : Host.Outcome State Fault Refusal :=
  let t := s.strand c x
  .next (match s.wants c x with
    | none => s
    | some (u, h) =>
      if t.fault.isSome then s
      else
        let va := (t.ctl.ttbase + 64 * h) % 2 ^ 64
        let (s, mixed) := s.mixSpan c x va 64
        match (if mixed then .cause s .mixedSize va else s.glRead (s.whoOf c x 0) va 64 t.pc) with
        | .ok s bs bad ts =>
          let s := s.countFrames c ts
          if bad then s.modStrand c x (fun t => { t with want := none, wantBad := t.wantBad ++ [(h, va)] })
          else
            let e : DescEntry := { unit := u, part := t.part, tt := t.ctl.ttbase, h := h, img := BitVec.ofNat 512 (bytesNat bs) }
            (s.modCore c (fun k =>
              let mine := k.descs.filter (fun d => d.unit == u && !(d.part == e.part && d.tt == e.tt && d.h == h))
              { k with descs := k.descs.filter (fun d => d.unit != u) ++ mine.drop (mine.length - 63) ++ [e] })).modStrand c x (fun t => { t with want := none, tries := 0 })
        | .cause s k a => s.modStrand c x (fun t => { t with want := none, reports := t.reports ++ [({ cause := k, aux := a }, t.pc)] })
        | g =>
          let (s, k) := park t.part (t.recOf c x 0 15 .core 1 t.pc h) g
          s.modStrand c x (fun t => { t with fault := k }))

/-- CODE_FETCH_MISS (R30): the strand's code is brought in, or its fetch waits on a page fault; the strand is frozen meanwhile. -/
def execCodeFetchMiss (c x : Nat) (s : State) : Host.Outcome State Fault Refusal :=
  let t := s.strand c x
  .next (if !t.resident ∨ t.exited ∨ t.fault.isSome ∨ t.idle ≠ 0 then s
    else
      let since (s : State) (k : Option Nat) : State := s.modStrand c x (fun t =>
        { t with fault := k, hold := match t.hold with | .frozen a => .frozen a | _ => .frozen s.cy })
      match s.fetch c x with
      | .park s k => since s k
      | .idle s .. => since s none
      | .bundle s .. => since s none
      | .cause s _ => since s none)

/-! The debugger (R26, R373). -/

/-- Whether the partition's policy opens DBG. -/
def State.dbgOpen (s : State) (p : Nat) : Bool := bit (s.part p).polOpen 0

/-- DEBUG_HALT (R26): the strand stops before its next bundle. -/
def execDebugHalt (c x : Nat) (s : State) : Host.Outcome State Fault Refusal :=
  let t := s.strand c x
  .next (if t.resident ∧ ¬ t.exited ∧ s.dbgOpen t.part then s.setStrand c x { t with stopped := true, step1 := false } else s)

/-- DEBUG_RESUME (R26): the strand goes on, for one bundle only under `single`; a breakpoint on that bundle is passed. -/
def execDebugResume (c x : Nat) (single : Bool) (s : State) : Host.Outcome State Fault Refusal :=
  let t := s.strand c x
  .next (if t.stopped ∧ s.dbgOpen t.part then s.setStrand c x { t with stopped := single, step1 := true } else s)

end Sys2Proof.Machine
end

