-- ==== Sys2Proof/Machine/SigBox.lean ====
section
/-! DEFINITION. The signal boxes' queues: records and their acceptance (R287 to R292, R294), the checks of a code segment
(R377 to R379), of the channel table (R244 to R247), of the scratch areas (R170, R298), the buffer table, and completion
records (R290). Placement and what follows stand in Place. -/

namespace Sys2Proof.Machine

/-! Reads of the signal box. -/

/-- A check: it passes, refuses with a CODE of R290, or waits (none). -/
abbrev Chk (α : Type) := Except (Option Nat) α

/-- The signal box as an agent: it reads under the partition's key slot, and the permission bits are not its own. -/
def sigWho (p : Nat) : Who := { part := p, slot := p, core := 0, agent := 15, own := false, count := false }

/-- Reads bytes for a check; a fault, a refusal or poison fails the check, a page on the move is waited for. -/
def State.sigGet (s : State) (p va n code : Nat) : Chk (State × List Byte) :=
  match s.glRead (sigWho p) va n 0 with
  | .ok s bs bad _ => if bad then .error (some code) else .ok (s, bs)
  | .wait .. => .error none
  | .cause .. => .error (some code)
  | .fault .. => .error (some code)

/-- The page of a VA is present and lies in a frame of the package, PL 0 to 2 (R100); `own`: under the partition's key slot. -/
def State.inFrame (s : State) (p va : Nat) (own : Bool) : Bool :=
  match s.leafPlace p va with
  | some (e, .hbm ..) => decide (pePl e < 3) && (!own || peKey e == p)
  | _ => false

/-- Every page of a range lies in a frame. -/
def State.allFrames (s : State) (p va n : Nat) (own : Bool := false) : Bool :=
  (List.range (n / 65536 + 2)).all (fun i =>
    let a := (va / 65536 + i) * 65536
    decide (va + n ≤ a) || s.inFrame p (max va a) own)

/-! Code segments (R377, R378). -/

/-- What a checked segment gives a launch or a handler. -/
structure Seg where
  len    : Nat := 0
  starts : Nat := 0
  dictOff : Nat := 0
  dictN  : Nat := 0
  poolOff : Nat := 0
  poolN  : Nat := 0
  digest : BitVec 512 := 0
  sys    : Bool := false
  segLen : Nat := 0
  sigOff : Nat := 0
  mapOff : Nat := 0
  deriving DecidableEq, Repr

/-- The parts of a segment that are there, in the order of R377: offset and length. -/
def Seg.parts (g : Seg) : List (Nat × Nat) :=
  [(64, 2 * g.len), (g.mapOff, cdiv g.len 8)] ++ (if g.dictN = 0 then [] else [(g.dictOff, 48 * g.dictN)]) ++
  (if g.poolN = 0 then [] else [(g.poolOff, 64 * g.poolN)]) ++ (if g.sigOff = 0 then [] else [(g.sigOff, 4627 + 2592)])

/-- Parts stand in ascending order, do not overlap, and end below a bound. -/
def partsOk : List (Nat × Nat) → Nat → Bool
  | [], _ => true
  | [(a, n)], e => decide (a + n ≤ e)
  | (a, n) :: (b, m) :: r, e => decide (a + n ≤ b) && partsOk ((b, m) :: r) e

/-- The header (R377): its fields, or none where a field is out of its range. -/
def segHeader (h : Nat) (handler : Bool) : Option Seg :=
  let g : Seg :=
    { len := fld h 88 64, dictOff := fld h 191 160, dictN := fld h 108 96, poolOff := fld h 223 192, poolN := fld h 119 109,
      sys := bit h 127, segLen := fld h 287 256, sigOff := fld h 255 224, mapOff := fld h 159 128 }
  let fields := fld h 31 0 == 0x39464E53 && fld h 47 32 == 1 && fld h 63 48 == Config.stepping && fld h 95 89 == 0 &&
    fld h 126 120 == 0 && fld h 511 288 == 0 && decide (1 ≤ g.len) && decide (g.len ≤ 2 ^ 24) && decide (g.dictN ≤ 4096) &&
    decide (g.poolN ≤ 1024) && [g.sigOff, g.poolOff, g.dictOff, g.mapOff].all (fun o => o % 64 == 0)
  let counts := if handler then g.dictN == 0 && g.poolN == 0 && g.sys else decide (1 ≤ g.dictN)
  if fields && counts && partsOk g.parts g.segLen then some g else none

/-- Whether a segment's signature grants the system bit (R378): Sanoter's key or the partition's policy key. -/
def sigGrants (all : List Byte) (sigOff : Nat) (policy : Option (BitVec 512)) : Bool :=
  let sig := (all.drop sigOff).take 4627
  let key := (all.drop (sigOff + 4627)).take 2592
  let h := Config.sha3 key
  (h == Config.fusedKeyHash || policy == some h) && Config.mldsaVerify key (all.take sigOff) sig

/-- Checks a code segment (R377 to R380); it lies in the partition's own frames, which its key slot reads (R94, R377). -/
def State.segCheck (s : State) (p va : Nat) (handler : Bool) (code : Nat) : Chk (State × Seg) :=
  if va % 64 ≠ 0 then .error (some code)
  else do
    let (s, hd) ← s.sigGet p va 64 code
    match segHeader (bytesNat hd) handler with
    | none => .error (some code)
    | some g =>
      let (s, all) ← s.sigGet p va g.segLen code
      let starts := bytesNat ((all.drop g.mapOff).take (cdiv g.len 8)) % 2 ^ g.len
      if !s.allFrames p va g.segLen true ∨ !bit starts 0 then .error (some code)
      else if g.sys ∧ (g.sigOff = 0 ∨ !sigGrants all g.sigOff (s.part p).policyKey) then .error (some code)
      else .ok (s, { g with starts := starts, digest := Config.sha3 all })

/-! Scratch areas (R170, R289, R298). -/

/-- The spill and undo areas of contexts `0 .. n-1`: base and size. -/
def Launch.areas (l : Launch) (n : Nat) : List (Nat × Nat) :=
  (List.range n).flatMap (fun x => [(l.spill.1 + x * l.spill.2, l.spill.2), (l.region.1 + x * l.region.2, l.region.2)])

/-- No two areas of a list overlap. -/
def apart : List (Nat × Nat) → Bool
  | [] => true
  | a :: r => r.all (fun b => !(decide (a.1 < b.1 + b.2) && decide (b.1 < a.1 + a.2))) && apart r

/-- The areas of contexts `0 .. n-1` meet R170 and are disjoint. -/
def Launch.areasOk (l : Launch) (n : Nat) : Bool :=
  decide (384 ≤ l.spill.2) && (l.areas n).all (fun a => a.1 % 64 == 0 && a.2 % 64 == 0 && decide (a.1 + a.2 ≤ Config.spBytes)) &&
    apart ((l.areas n).filter (fun a => a.2 != 0))

/-- Contexts that acceptance checks: x of R290. -/
def Launch.checked (l : Launch) : Nat := if l.bars = 0 then l.s else 4 / l.s * l.s

/-- Usable contexts: n of R298. -/
def Launch.usableOf (l : Launch) : Nat :=
  (List.range 5).foldl (fun n k => if l.checked ≤ k ∧ l.areasOk k then k else n) l.checked

/-! The channel table (R244 to R247). -/

/-- The fields of entry `n` that need no memory (R244, R361). -/
def chEntryOk (g n e : Nat) : Bool :=
  let ty := tyOf (BitVec.ofNat 5 (chRty e))
  let float := ty == some .f64 || ty == some .f32 || ty == some .bf16 || ty == some .f16
  let int := [Ty.s32, .s16, .s8, .n32, .n16, .n8].any (fun t => ty == some t)
  let anyFloat := match ty with | some t => t.isFloat | none => false
  let wide := chShape e % (max (chTy e).bits 8 / 8) == 0
  fld e 305 1 == 0 && decide (chRop e ≤ 4) && decide (chNsk e ≤ 2) && ty.isSome &&
  (chPkind e == 3 || chGroup e == 0) && chGroup e % 64 == 0 &&
  ((chPkind e != 0 && chPkind e != 3) || chPch e == n) && (chPkind e != 1 || decide (chPgidx e < g)) &&
  (chNsk e == 0 || (anyFloat && (chRop e == 1 || chRop e == 3 || chRop e == 4))) &&
  (match chMode e with
   | 0 => chPkind e != 3 && chRop e == 0 && chNsk e == 0
   | 1 => chPkind e == 3 && chSas e && wide &&
       ((float && (chRop e == 1 || chRop e == 3 || chRop e == 4)) || (int && chRop e != 0))
   | 2 => chPkind e == 3 && !chSas e && chRop e == 0 && chNsk e == 0 && wide
   | _ => false)

/-- The staging range lies in its space, outside the protected areas (R244, R246). -/
def State.stagingOk (s : State) (p : Nat) (l : Launch) (e : Nat) : Bool :=
  let n := chDepth e * chSb e
  if chSas e then
    chStage e % 128 == 0 && canonical (chStage e) && canonical (chStage e + n - 1) && (chMode e != 1 || s.allFrames p (chStage e) n)
  else
    chStage e % 16 == 0 && decide (chStage e + n ≤ Config.spBytes) &&
      (l.areas (l.usableOf)).all (fun a => a.2 == 0 || !(decide (chStage e < a.1 + a.2) && decide (a.1 < chStage e + n)))

/-- Reads a group descriptor (R245). -/
def State.groupRead (s : State) (p : Nat) (l : Launch) (n e : Nat) : Chk (State × Group) := do
  let (s, hd) ← s.sigGet p (chGroup e) 64 3
  let h := bytesNat hd
  let size := fld h 15 0
  if size < 2 ∨ 16384 < size ∨ fld h 511 64 ≠ 0 then .error (some 3)
  else do
    let (s, bs) ← s.sigGet p (chGroup e + 64) (8 * size) 3
    let ms := (List.range size).map (fun k =>
      let w := bytesNat ((bs.drop (8 * k)).take 8)
      (fld w 63 50, fld w 19 0, bit w 20))
    let once := (List.range l.g).all (fun g => (ms.filter (fun m => m.1 == s.node && m.2.1 == g)).length == 1)
    if !once ∨ (chMode e = 2 ∧ chDepth e < size - 1) then .error (some 3)
    else .ok (s, { gid := fld h 63 32, lid := l.lid, ch := n, members := ms, trans := [(0, false)] })

/-- Checks a channel table: the valid entries and the groups. -/
def State.chtabCheck (s : State) (p : Nat) (l : Launch) (va : Nat) : Chk (State × Tbl QWord × List Group) :=
  if va = 0 then .ok (s, [], [])
  else do
    let (s, bs) ← s.sigGet p va 4096 3
    (List.range 64).foldlM (fun (r : State × Tbl QWord × List Group) n => do
      let e := bytesNat ((bs.drop (64 * n)).take 64)
      if !chValid e then .ok r
      else if !chEntryOk l.g n e ∨ !r.1.stagingOk p l e then .error (some 3)
      else if chPkind e = 3 then do
        let (s, g) ← r.1.groupRead p l n e
        .ok (s, r.2.1 ++ [(n, BitVec.ofNat 512 e)], r.2.2 ++ [g])
      else .ok (r.1, r.2.1 ++ [(n, BitVec.ofNat 512 e)], r.2.2)) (s, [], [])

/-! Buffer lists and the buffer table (R291, R292). -/

/-- An entry's flags. -/
def bufW (f : Nat) : Bool := bit f 2
def bufR (f : Nat) : Bool := bit f 1
def bufSplit (f : Nat) : Bool := bit f 0

/-- The entries of a list of `n`: VA, length, flags; whether each is valid. -/
def State.bufRead (s : State) (p va n : Nat) : Chk (State × List (Nat × Nat × Nat) × Bool) :=
  if va = 0 ∨ n = 0 then .ok (s, [], true)
  else do
    let (s, bs) ← s.sigGet p va (16 * n) 5
    let es := (List.range n).map (fun i => bytesNat ((bs.drop (16 * i)).take 16))
    let good := es.all (fun e => fld e 127 64 % 128 == 0 && fld e 63 62 != 0 && fld e 60 40 == 0 &&
      fld e 39 0 != 0 && fld e 39 0 % 128 == 0)
    .ok (s, es.map (fun e => (fld e 127 64, fld e 39 0, fld e 63 61)), good)

/-- Changes every part of the table inside `[b, e)`; parts not yet listed are listed with no writer and no reader. -/
def bufMark (f : BufRange → BufRange) : Nat → Nat → List BufRange → List BufRange
  | b, e, [] => if b < e then [f { base := b, len := e - b }] else []
  | b, e, r :: rest =>
    let re := r.base + r.len
    if e ≤ b then r :: rest
    else if re ≤ b then r :: bufMark f b e rest
    else if e ≤ r.base then f { base := b, len := e - b } :: r :: rest
    else
      let lo := max b r.base
      let hi := min e re
      let pre := if b < r.base then [f { base := b, len := r.base - b }]
        else if r.base < b then [{ r with len := b - r.base }] else []
      let mid := f { r with base := lo, len := hi - lo }
      let post := if e < re then { r with base := e, len := re - e } :: rest else bufMark f re e rest
      pre ++ mid :: post

/-- Drops ranges that record nothing. -/
def bufTidy (t : List BufRange) : List BufRange := t.filter (fun r => r.writer != .none || r.readers != [])

/-- Ranges that meet `[b, e)`. -/
def bufMeets (b e : Nat) (t : List BufRange) : List BufRange := t.filter (fun r => decide (r.base < e) && decide (b < r.base + r.len))

/-- The implicit predecessors that a list of entries names (R292). -/
def bufImpl (es : List (Nat × Nat × Nat)) (t : List BufRange) : List Nat :=
  (es.flatMap (fun e => (bufMeets e.1 (e.1 + e.2.1) t).flatMap (fun r =>
    (match r.writer with | .launch i => [i] | _ => []) ++ (if bufW e.2.2 then r.readers else [])))).eraseDups

/-- The table after a launch's entries (R292). -/
def bufEnter (i : Nat) (es : List (Nat × Nat × Nat)) (t : List BufRange) : List BufRange :=
  es.foldl (fun t e => bufMark (fun r =>
    { r with writer := if bufW e.2.2 then .launch i else r.writer,
             readers := if bufR e.2.2 && !r.readers.contains i then r.readers ++ [i] else r.readers }) e.1 (e.1 + e.2.1) t) t

/-- The table once a launch is final: its R entries lower RCNT (R292). -/
def bufLeave (i : Nat) (t : List BufRange) : List BufRange := bufTidy (t.map (fun r => { r with readers := r.readers.filter (· != i) }))

/-! Dependences (R294). -/

/-- Position of the launch that bears a LID: of the one that is not final, else of the youngest. -/
def Part.indexOf (q : Part) (lid : Nat) : Option Nat :=
  (lfind (fun l => l.lid == lid && !l.final) q.launches).or
    ((lfind (fun l => l.lid == lid) q.launches.reverse).map (fun i => q.launches.length - 1 - i))

def Part.at_ (q : Part) (i : Nat) : Launch := lget { lid := 0, queue := 0 } q.launches i
def State.modAt (s : State) (p i : Nat) (f : Launch → Launch) : State :=
  s.modPart p (fun q => { q with launches := lput q.launches i (f (q.at_ i)) })

/-- A dependence holds. -/
def Part.depOk (q : Part) (d : Nat × Nat × Nat) : Bool :=
  let l := q.at_ d.1
  match d.2.1 with
  | 1 => l.started == l.g
  | 2 => decide (d.2.2 ≤ l.ended)
  | _ => l.phase == .complete

/-- A dependence can no longer hold: its predecessor ended REFUSED or ABORTED before the phase. -/
def Part.depLost (q : Part) (d : Nat × Nat × Nat) : Bool :=
  !q.depOk d && ((q.at_ d.1).phase == .refused || (q.at_ d.1).phase == .aborted)

/-- The DEP words of a record: the dependences they name, or BAD_DEP. -/
def Part.depRead (q : Part) (ws : List Nat) : Chk (List (Nat × Nat × Nat)) :=
  ws.foldlM (fun ds w =>
    let lid := fld w 31 0
    let ph := fld w 33 32
    let n := fld w 53 34
    if lid = 0 then .ok ds
    else match q.indexOf lid with
      | none => .error (some 6)
      | some i =>
        if ph = 0 ∨ (ph = 2 ∧ (n = 0 ∨ (q.at_ i).g < n)) then .error (some 6) else .ok (ds ++ [(i, ph, n)])) []

/-! Placement on a set of clusters (R295, R298). -/

/-- Contexts in use: core, context, partition, LID. -/
abbrev Used := List (Nat × Nat × Nat × Nat)

def State.used (s : State) : Used :=
  s.cores.flatMap (fun e => e.2.strands.filterMap (fun x => if x.2.resident then some (e.1, x.1, x.2.part, x.2.lid) else none))

/-- Free usable contexts of a core. -/
def freeCtx (u : Used) (core n : Nat) : List Nat := (List.range n).filter (fun x => !u.any (fun o => o.1 == core && o.2.1 == x))
def coreEmpty (u : Used) (core : Nat) : Bool := !u.any (fun o => o.1 == core)
def clusterEmpty (u : Used) (cl : Nat) : Bool := !u.any (fun o => o.1 / 4 == cl)
def clusterHas (u : Used) (cl p lid : Nat) : Bool := u.any (fun o => o.1 / 4 == cl && o.2.2.1 == p && o.2.2.2 == lid)

/-- First gang core positions (R266). -/
def firstPos (c : Nat) : List Nat := if c = 3 then [0] else (List.range 4).filter (fun i => i % c == 0)

/-- The contexts of a gang on a cluster (R298 step 3): (core, context) in strand order. -/
def Launch.fitGang (l : Launch) (u : Used) (cl : Nat) : Option (List (Nat × Nat)) :=
  let coresAt (p0 : Nat) : List Nat := (List.range l.c).map (fun k => 4 * cl + p0 + k)
  let fits := (firstPos l.c).filter (fun p0 => (coresAt p0).all (fun c => decide (l.s ≤ (freeCtx u c l.usable).length)))
  let best := (fits.find? (fun p0 => (coresAt p0).all (coreEmpty u))).or fits.head?
  best.map (fun p0 => (coresAt p0).flatMap (fun c => ((freeCtx u c l.usable).take l.s).map (fun x => (c, x))))

/-- The contexts of several gangs on a cluster, in their order. -/
def Launch.fitSet (l : Launch) (p : Nat) (u : Used) (cl : Nat) (gs : List Nat) : Option (List (Nat × List (Nat × Nat))) :=
  (gs.foldl (fun (r : Option (Used × List (Nat × List (Nat × Nat)))) g =>
    match r with
    | none => none
    | some (u, acc) => (l.fitGang u cl).map (fun at_ => (u ++ at_.map (fun a => (a.1, a.2, p, l.lid)), acc ++ [(g, at_)])))
    (some (u, []))).map (·.2)

/-- PER of R295, and the gangs that are placed together with gang `g`. -/
def Launch.per (l : Launch) : Nat := (4 / l.c) * (4 / l.s)
def Launch.unit (l : Launch) (g : Nat) : List Nat :=
  if l.bars = 0 then [g] else (List.range l.per).filterMap (fun i => let h := g / l.per * l.per + i; if h < l.g then some h else none)

/-- The number that step 2 of R298 uses. -/
def Launch.unitNo (l : Launch) (g : Nat) : Nat := if l.bars = 0 then g else g / l.per

/-- A gang's buffer ranges (R291, R298). -/
def Launch.ranges (l : Launch) (g : Nat) : List (Nat × Nat) :=
  l.bufs.map (fun e =>
    if bufSplit e.2.2 then
      let lo := g * e.2.1 / l.g / 128 * 128
      let hi := (g + 1) * e.2.1 / l.g / 128 * 128
      (e.1 + lo, hi - lo)
    else (e.1, e.2.1))

/-- Lines of a range homed on each die: four counts (R298 step 1); a 4 KiB granule has one home die (R93). The entries alone are read; a
REMOTE page scores nothing, whichever node it names. -/
def State.lineHomes (s : State) (p va n : Nat) : List Nat :=
  (List.range (n / 4096 + 2)).foldl (fun acc i =>
    let a := max va ((va / 4096 + i) * 4096)
    let e := min (va + n) ((va / 4096 + i + 1) * 4096)
    if e ≤ a then acc
    else match s.leafPlace p a with
      | some (w, .hbm pa _ pl pln _) =>
        let d := (home pa pl pln).1
        if pePl w = 4 then acc else lput acc d (lget 0 acc d + (e - a) / 128)
      | _ => acc) [0, 0, 0, 0]

/-- Scores of a list of gangs. -/
def State.scores (s : State) (p : Nat) (l : Launch) (gs : List Nat) : List Nat :=
  gs.foldl (fun acc g => (l.ranges g).foldl (fun acc r =>
    let h := s.lineHomes p r.1 r.2
    (List.range 4).map (fun d => lget 0 acc d + lget 0 h d)) acc) [0, 0, 0, 0]

/-- The dies to try, in order (R298 step 2). -/
def dieOrder (sc : List Nat) (idx : Nat) : List Nat :=
  let top := sc.foldl max 0
  let prefs := (List.range 4).filter (fun d => lget 0 sc d == top)
  let d0 := lget 0 prefs (idx % max 1 prefs.length)
  (List.range 4).map (fun i => (d0 + i) % 4)

/-- Places a unit: its cluster, its gangs' contexts, and whether the die is a fallback (R298). `avail` says which clusters
may be used. -/
def State.placeUnit (s : State) (p : Nat) (l : Launch) (avail : Nat → Bool) (u : Used) (g : Nat) :
    Option (Nat × List (Nat × List (Nat × Nat)) × Bool) :=
  let gs := l.unit g
  let order := dieOrder (s.scores p l gs) (l.unitNo g)
  let on (d : Nat) : Option (Nat × List (Nat × List (Nat × Nat))) :=
    let cls := ((List.range 16).map (fun i => 16 * d + i)).filter avail
    let try_ (cs : List Nat) := cs.findSome? (fun cl => (l.fitSet p u cl gs).map (fun r => (cl, r)))
    (if l.bars = 0 then try_ (cls.filter (fun cl => clusterHas u cl p l.lid)) else none).or (try_ (cls.filter (clusterEmpty u)))
  (List.range 4).findSome? (fun i => (on (lget 0 order i)).map (fun r => (r.1, r.2, i != 0)))

/-- First gangs of a launch's units, in order. -/
def Launch.units (l : Launch) : List Nat := (List.range l.g).filter (fun g => l.bars == 0 || g % l.per == 0)

/-- The cluster sets that a placement of single gangs forms, in the order of their first gangs (R295). -/
def setsOf (us : List (Nat × List (Nat × List (Nat × Nat)) × Bool)) : List (List Nat) :=
  (us.map (·.1)).eraseDups.map (fun cl => us.flatMap (fun u => if u.1 = cl then u.2.1.map (·.1) else []))

/-- Places the cluster sets of a co-resident launch without barriers, each on an empty cluster of its own, chosen as for its first gang. -/
def State.placeSets (s : State) (p : Nat) (l : Launch) (avail : Nat → Bool) (u : Used) :
    Option (List (Nat × List (Nat × List (Nat × Nat)) × Bool)) :=
  (l.sets.foldl (fun (r : Option (Used × List (Nat × List (Nat × List (Nat × Nat)) × Bool))) gs =>
    match r with
    | none => none
    | some (u, acc) =>
      let g := gs.headD 0
      let order := dieOrder (s.scores p l [g]) g
      let on (d : Nat) : Option (Nat × List (Nat × List (Nat × Nat))) :=
        (((List.range 16).map (fun i => 16 * d + i)).filter (fun cl => avail cl && clusterEmpty u cl)).findSome? (fun cl =>
          (l.fitSet p u cl gs).map (fun r => (cl, r)))
      ((List.range 4).findSome? (fun i => (on (lget 0 order i)).map (fun r => (r.1, r.2, i != 0)))).map (fun b =>
        (u ++ b.2.1.flatMap (fun x => x.2.map (fun a => (a.1, a.2, p, l.lid))), acc ++ [b]))) (some (u, []))).map (·.2)

/-- Places every unit of a launch in turn (R295): the placements, or none where one finds no room. -/
def State.placeAll (s : State) (p : Nat) (l : Launch) (avail : Nat → Bool) (u : Used) :
    Option (List (Nat × List (Nat × List (Nat × Nat)) × Bool)) :=
  (l.units.foldl (fun (r : Option (Used × List (Nat × List (Nat × List (Nat × Nat)) × Bool))) g =>
    match r with
    | none => none
    | some (u, acc) =>
      (s.placeUnit p l avail u g).map (fun b =>
        (u ++ b.2.1.flatMap (fun x => x.2.map (fun a => (a.1, a.2, p, l.lid))), acc ++ [b]))) (some (u, []))).map (·.2)

/-! Completion records (R290, R293). -/

/-- Word 0 of a completion record. -/
def recWord (lid st code : Nat) : Nat := lid % 2 ^ 32 + st * 2 ^ 32 + code % 256 * 2 ^ 40

/-- What a performed record, or one that can never be performed, means for its launch (R292, R293). -/
def State.settled (s : State) (p : Nat) (r : OwedRecord) : State :=
  match r.index with
  | none => s
  | some i =>
    let s := s.modAt p i (fun l => { l with final := true, phase := if fld r.word0 39 32 = 1 then .complete else l.phase })
    s.modPart p (fun q => { q with bufTable := bufLeave i q.bufTable })

/-- Performs the owed records of a partition that can be performed, as stores of class 15 at scope SYSTEM. -/
def State.payRecords (s : State) (p : Nat) : State :=
  (s.part p).records.foldl (fun s r =>
    let rest (s : State) (more : List OwedRecord) : State := s.modPart p (fun q => { q with records := q.records ++ more })
    if r.failed then s.settled p r
    else if r.fault.isSome then rest s [r]
    else
      let w : Who := { part := p, slot := p, core := 0, agent := 15, count := false }
      match s.glWrite w r.status 0 (natBytes 8 r.word0 ++ natBytes 8 s.time) with
      | .ok s .. => (if r.irq then s.irq p 1 else s).settled p r
      | .cause s .. => s.settled p r
      | g =>
        let f : FaultRec :=
          { va := r.status, kind := 0, rwx := 2, level := 0, agent := 0, core := 0, strand := 0, gidx := 0, cls := 15, sc := .system,
            pc := 0, handle := 0, cursor := 0, time := 0 }
        let (s, k) := park p f g
        rest s [{ r with fault := k }]) (s.modPart p (fun q => { q with records := [] }))

/-- Owes a record and tries it at once. -/
def State.owe (s : State) (p : Nat) (r : OwedRecord) : State := (s.modPart p (fun q => { q with records := q.records ++ [r] })).payRecords p

/-! Queues (R287, R288). -/

def qEn (k : Queue) : Bool := bit k.ctl 0
def qPrio (k : Queue) : Nat := fld k.ctl 2 1
def qLog (k : Queue) : Nat := fld k.ctl 8 4
def qPre (k : Queue) : Bool := bit k.ctl 9

def Part.queue (q : Part) (i : Nat) : Queue := tget {} q.queues i

/-- The record at a queue's head, if the queue has one to read (R288, R387). A record of which a half is poisoned is taken with the bytes
it holds (log 99). -/
def State.queueRec (s : State) (p q : Nat) : Option (State × Nat) :=
  let k := (s.part p).queue q
  let a := fld k.base 49 12 * 4096 + 256 * (k.head % 2 ^ qLog k)
  if !qEn k ∨ k.tail = k.head ∨ !bit s.hk.ready 3 ∨ !bit s.hk.ready 25 ∨ !s.paUp a 256 then none
  else
    let (s, bs, _) := s.paRead a p 256
    some (s, bytesNat bs)

def recKind (r : Nat) : Nat := fld r 63 56

/-- Advances HEAD (R288). -/
def State.accept_ (s : State) (p q : Nat) : State :=
  s.modPart p (fun x => { x with queues := tput {} x.queues q { x.queue q with head := (x.queue q).head + 1 } })

/-- QUEUE_NOP (R288). -/
def execQueueNop (p q : Nat) (s : State) : Host.Outcome State Fault Refusal :=
  .next (match s.queueRec p q with
    | some (s', r) => if recKind r = 0 then s'.accept_ p q else s
    | none => s)

/-- UNKNOWN_RECORD (R288). -/
def execUnknownRecord (p q : Nat) (s : State) : Host.Outcome State Fault Refusal :=
  .next (match s.queueRec p q with
    | some (s', r) => if 3 ≤ recKind r then s'.accept_ p q else s
    | none => s)

/-- EXTWR (R288): it waits for every earlier record of its queue, then its ranges are last written by an external agent. One whose list
cannot be read (a fault, a refusal, poison) is accepted and marks no range: the model's choice, since R288 does not say (log 122). -/
def execExtwr (p q : Nat) (s : State) : Host.Outcome State Fault Refusal :=
  .next (match s.queueRec p q with
    | none => s
    | some (s', r) =>
      if recKind r ≠ 2 ∨ (s.part p).launches.any (fun l => l.queue == q && !l.final) then s
      else match s'.bufRead p (fld r 639 576) (fld r 650 640) with
        | .error none => s
        | .error (some _) => s'.accept_ p q
        | .ok (s', es, _) =>
          let mark (t : List BufRange) : List BufRange :=
            es.foldl (fun t e => bufMark (fun b => { b with writer := .external }) e.1 (e.1 + e.2.1) t) t
          (s'.modPart p (fun x => { x with bufTable := mark x.bufTable })).accept_ p q)

/-! LAUNCH (R289, R290). -/

/-- Word `i` of a record. -/
def recW (r i : Nat) : Nat := fld r (64 * i + 63) (64 * i)

/-- The launch a record describes. -/
def launchOf (r q : Nat) : Launch :=
  { lid := fld (recW r 0) 31 0, queue := q, irq := bit (recW r 0) 49, cor := bit (recW r 0) 48, code := recW r 1,
    bars := fld (recW r 2) 39 24, s := fld (recW r 2) 23 22 + 1, c := fld (recW r 2) 21 20 + 1, g := fld (recW r 2) 19 0 + 1,
    ttbase := recW r 3, dbase := canonVa (fld (recW r 4) 56 16 * 65536), ttcount := fld (recW r 4) 12 0,
    spill := (fld (recW r 6) 20 0, fld (recW r 6) 41 21), region := (fld (recW r 7) 20 0, fld (recW r 7) 41 21),
    rseed := BitVec.ofNat 64 (recW r 8), status := recW r 15, ginit := (List.range 16).map (fun i => BitVec.ofNat 64 (recW r (16 + i))) }

/-- BAD_RECORD: a reserved bit, a misaligned field, a count out of its range (R289, R290). -/
def recordOk (r : Nat) : Bool :=
  fld (recW r 0) 55 50 == 0 && fld (recW r 0) 47 32 == 0 && fld (recW r 2) 63 40 == 0 && fld (recW r 4) 63 57 == 0 &&
  fld (recW r 4) 15 13 == 0 && fld (recW r 6) 63 42 == 0 && fld (recW r 7) 63 42 == 0 && fld (recW r 10) 63 11 == 0 &&
  ([11, 12, 13, 14].all (fun i => fld (recW r i) 63 54 == 0)) &&
  recW r 3 % 64 == 0 && recW r 5 % 64 == 0 && recW r 9 % 16 == 0 && recW r 15 % 16 == 0 &&
  decide (1 ≤ fld (recW r 4) 12 0) && decide (fld (recW r 4) 12 0 ≤ 4096) && decide (fld (recW r 10) 10 0 ≤ 1024)

/-- The checks of R290 after NOT_RUNNING, in the order of their codes: the accepted launch and its groups. -/
def State.launchCheck (s : State) (p : Nat) (r q : Nat) : Chk (State × Launch × List Group) := do
  let x := s.part p
  let l := launchOf r q
  if !recordOk r ∨ x.launches.any (fun o => o.lid == l.lid && !o.final) then .error (some 1)
  else do
    let (s, g) ← s.segCheck p l.code false 2
    let l := { l with codeLen := g.len, starts := g.starts, dictOff := g.dictOff, dictN := g.dictN, poolOff := g.poolOff,
                      poolN := g.poolN, digest := g.digest, system := g.sys }
    let (s, tab, groups) ← s.chtabCheck p l (recW r 5)
    if !l.areasOk l.checked then .error (some 4)
    else do
      let (s, bufs, good) ← s.bufRead p (recW r 9) (fld (recW r 10) 10 0)
      if !good then .error (some 5)
      else do
        let deps ← x.depRead ([11, 12, 13, 14].map (recW r))
        if deps.any x.depLost then .error (some 7)
        else
          let l := { l with chtab := tab, bufs := bufs, deps := deps, usable := l.usableOf }
          if !l.cor then .ok (s, l, groups)
          else match s.placeAll p l (bit (s.part p).clusters) [] with
            | none => .error (some 8)
            | some us => .ok (s, if l.bars = 0 then { l with sets := setsOf us } else l, groups)

/-- The Kryel processor writes the windows of a job when it is set up (R242, log 63): at most 64 for a partition. -/
def State.jobWindows (s : State) (p : Nat) : State :=
  let new := (Config.jobWindows s.free).map (fun w =>
    ({ node := w.1, gid := w.2.1, write := w.2.2.1, base := w.2.2.2.1, len := w.2.2.2.2.1, slot := w.2.2.2.2.2 } : DomWindow))
  { s.nextFree with windows := tput [] s.windows p ((tget [] s.windows p ++ new).take 64) }

/-- LAUNCH (R290, R292): a record is refused with its code, or becomes a launch with its dependences. -/
def execLaunch (p q : Nat) (s : State) : Host.Outcome State Fault Refusal :=
  .next (match s.queueRec p q with
    | none => s
    | some (s', r) =>
      if recKind r ≠ 1 then s
      else
        let l := launchOf r q
        let x := s'.part p
        let i := x.launches.length
        let refuse (code : Nat) : State :=
          let dup := x.launches.any (fun o => o.lid == l.lid && !o.final)
          let s := if dup then s' else s'.modPart p (fun x => { x with launches := x.launches ++ [{ l with phase := .refused, closed := true }] })
          (s.accept_ p q).owe p
            { lid := l.lid, index := if dup then none else some i, status := l.status, word0 := recWord l.lid 2 code, irq := l.irq }
        if x.tdisp ≠ .run then refuse 9
        else match s'.launchCheck p r q with
          | .error none => s
          | .error (some code) => refuse code
          | .ok (s', l, groups) =>
            let table := bufEnter i l.bufs x.bufTable
            let l := { l with impl := bufImpl l.bufs x.bufTable, wide := decide (4096 ≤ x.bufTable.length) || decide (4096 < table.length) }
            let s' := s'.jobWindows p
            (s'.modPart p (fun x => { x with launches := x.launches ++ [l], bufTable := table, groups := x.groups ++ groups })).accept_ p q)

end Sys2Proof.Machine
end

