-- ==== Sys2Proof/Machine/Place.lean ====
section
/-! DEFINITION. The signal boxes' choices: which gang starts and where (R293 to R298), the end of a gang and of a launch (R266,
R285, R293), pre-emption and resumption (R301 to R303, R358), sharing (R297), the placement period (R299), and launches ended
from outside (R267, R345). -/

namespace Sys2Proof.Machine

/-! What may start. -/

/-- A cluster a partition may use now: it is the partition's, and its die is ready (R297, R387). -/
def State.avail (s : State) (p cl : Nat) : Bool := (s.cluster cl).part == some p && bit s.hk.ready (4 + cl / 16)

/-- Gangs of a launch that have not started. -/
def Launch.waiting (l : Launch) : Bool := decide (l.started < l.g)

/-- The previous LAUNCH of a launch's own queue has reached STARTED, or has ended (R294). -/
def Part.prevOk (q : Part) (i : Nat) : Bool :=
  match ((q.launches.take i).filter (fun o => o.queue == (q.at_ i).queue)).getLast? with
  | none => true
  | some o => o.started == o.g || o.final || o.phase == .refused

/-- A launch may start gangs (R292, R294). -/
def Part.canBegin (q : Part) (i : Nat) : Bool :=
  let l := q.at_ i
  (l.phase == .accepted || l.phase == .started) && l.abort.isNone && l.waiting && l.deps.all q.depOk && l.impl.all (fun j => (q.at_ j).final) &&
    (!l.wide || (q.launches.take i).all (·.final)) && q.prevOk i

/-- PRIO of a launch: its queue's (R287, R296). -/
def Part.prioOf (q : Part) (l : Launch) : Nat := qPrio (q.queue l.queue)

/-- Places all of a co-resident launch (R295). -/
def State.placeCor (s : State) (p : Nat) (l : Launch) : Option (List (Nat × List (Nat × List (Nat × Nat)) × Bool)) :=
  if l.bars = 0 then s.placeSets p l (s.avail p) s.used else s.placeAll p l (s.avail p) s.used

/-- Whether gang `g` of a launch finds room now, with the gangs placed with it. -/
def State.roomFor (s : State) (p : Nat) (l : Launch) (g : Nat) : Bool :=
  if l.cor ∧ l.started = 0 then (s.placeCor p l).isSome
  else (l.gang g).phase == .waiting && (s.placeUnit p l (s.avail p) s.used g).isSome

def State.anyRoom (s : State) (p : Nat) (l : Launch) : Bool := l.units.any (fun g => (l.gang g).phase == .waiting && s.roomFor p l g)

/-- The oldest launch of a queue with unstarted gangs (R296). -/
def Part.oldest (q : Part) (k : Nat) : Option Nat :=
  lfind (fun l => l.queue == k && l.waiting && l.abort.isNone && (l.phase == .accepted || l.phase == .started)) q.launches

/-- Where a saved set would resume (R303): its cluster, and whether the die is a fallback. -/
def State.placeSaved (s : State) (p : Nat) (l : Launch) (v : SavedSet) : Option (Nat × Bool) :=
  let order := dieOrder (s.scores p l v.gangs) (v.gangs.headD 0)
  let u := s.used
  let fits (cl : Nat) : Bool := v.cores.all (fun k => coreEmpty u (4 * cl + k.1))
  let on (d : Nat) : Option Nat :=
    let cls := ((List.range 16).map (fun i => 16 * d + i)).filter (s.avail p)
    (if l.bars = 0 then cls.find? (fun cl => clusterHas u cl p l.lid && fits cl) else none).or (cls.find? (clusterEmpty u))
  (List.range 4).findSome? (fun i => (on (lget 0 order i)).map (fun cl => (cl, i != 0)))

/-- A set's running triggered copies have completed or parked (R157). -/
def SavedSet.still (v : SavedSet) : Bool := v.cores.all (fun k => k.2.trigs.all (fun m => m.phase != .active || m.parked.isSome))

/-- What the signal box does next for a partition. -/
inductive Pick where
  | start (i : Nat)
  | resume (j : Nat)
  deriving DecidableEq, Repr

/-- The pick of one priority level (R296): a saved set first, else the queues in turn; and whether a co-resident launch of the
level waits, which holds lower levels back (R295). -/
def State.pickLevel (s : State) (p prio : Nat) : Option Pick × Bool :=
  let q := s.part p
  let saved := (List.range q.saved.length).filter (fun j => match q.saved[j]? with
    | some v => q.prioOf (s.launch p v.lid) == prio
    | none => false)
  let queues := ((List.range 16).map (fun i => (tget 0 q.nextRR prio + i) % 16)).filter (fun k => qPrio (q.queue k) == prio)
  let ready := queues.filterMap (fun k => (q.oldest k).bind (fun i => if q.canBegin i then some i else none))
  let hold := ready.any (fun i => (q.at_ i).cor && (q.at_ i).started == 0 && !s.anyRoom p (q.at_ i))
  if saved ≠ [] then
    ((saved.find? (fun j => match q.saved[j]? with
      | some v => v.still && (s.placeSaved p (s.launch p v.lid) v).isSome
      | none => false)).map .resume, hold)
  else ((ready.find? (fun i => s.anyRoom p (q.at_ i))).map .start, hold)

/-- What the signal box does next for a partition: the highest level that has something to do (R296). -/
def State.pick (s : State) (p : Nat) : Option Pick :=
  let go (l : Nat) (r : Option Pick × Bool) : Option Pick × Bool :=
    if r.1.isSome ∨ r.2 then r else s.pickLevel p l
  ((List.range 4).foldl (fun r l => go l r) (none, false)).1

/-! Starting gangs. -/

/-- The pieces of a range inside pages: VA and length. -/
def pageChunks (va n : Nat) : List (Nat × Nat) :=
  (List.range (n / 65536 + 2)).filterMap (fun i =>
    let a := max va ((va / 65536 + i) * 65536)
    let e := min (va + n) ((va / 65536 + i + 1) * 65536)
    if e ≤ a then none else some (a, e - a))

/-- The frames under a range: PA and length of each piece that lies in one. -/
def State.framesOf (s : State) (p va n : Nat) : List (Nat × Nat) :=
  (pageChunks va n).filterMap (fun c => match s.leafPlace p c.1 with
    | some (_, .hbm pa ..) => some (pa, c.2)
    | _ => none)

/-- Drops an L2 line without a write-back, from a window too (R293). -/
def State.dropLine (s : State) (ln : Nat) (l : L2Line) : State :=
  let s := match l.owner with
    | .stash c w i => s.modCore c (fun k =>
        let st : Stash := tget {} k.stash w
        { k with stash := tput {} k.stash w { st with lines := tput none st.lines i none } })
    | _ => s
  { s with l2 := tput none s.l2 ln none }

/-- Acts on every L2 line under a list of physical pieces. -/
def State.onLines (s : State) (ps : List (Nat × Nat)) (f : State → Nat → L2Line → State) : State :=
  s.l2.foldl (fun s e => match e.2 with
    | some l => if ps.any (fun p => decide (p.1 < 128 * e.1 + 128) && decide (128 * e.1 < p.1 + p.2)) then f s e.1 l else s
    | none => s) s

/-- Before a launch's first gang (R293): lines of ranges last written from outside are dropped. -/
def State.dropExternal (s : State) (p : Nat) : State :=
  let ext := (s.part p).bufTable.filter (fun r => r.writer == .external)
  let s := ext.foldl (fun s r => s.onLines (s.framesOf p r.base r.len) State.dropLine) s
  s.modPart p (fun q =>
    { q with bufTable := bufTidy (q.bufTable.map (fun r => if r.writer = .external then { r with writer := .none } else r)) })

/-- A core's scratchpad and tiles zeroed (R160, R368). -/
def Core.wipe (k : Core) : Core :=
  { k with sp := [], spBad := [], soft := k.soft.filter (fun e => decide (Config.spBytes ≤ 8 * e.1)), tiles := [], tPoison := [], tOver := [] }

/-- Brings a launch's image onto a core (R32, R126): none while it cannot be read. A core that holds the image keeps it as it stands, also
with entries that DICT.LOAD has written since (log 93). -/
def State.loadImage (s : State) (p : Nat) (l : Launch) (c : Nat) : Option State :=
  if (s.core c).image = some l.digest then some s
  else
    match s.glRead (sigWho p) (l.code + l.dictOff) (48 * l.dictN) 0 with
    | .ok s ds false _ =>
      (match s.glRead (sigWho p) (l.code + l.poolOff) (64 * l.poolN) 0 with
       | .ok s ps false _ =>
         let dict := (List.range l.dictN).map (fun e =>
           let d : DictEntry :=
             { valid := true, word := BitVec.ofNat 384 (bytesNat ((ds.drop (48 * e)).take 48)), source := l.code + l.dictOff + 48 * e }
           (e, d))
         let pool := (List.range l.poolN).map (fun e => (e, BitVec.ofNat 512 (bytesNat ((ps.drop (64 * e)).take 64))))
         some (s.modCore c (fun k => { k with
           dict := dict, pool := pool.filter (fun e => e.2 != 0), poolN := l.poolN, poolSrc := l.code + l.poolOff,
           soft := k.soft.filter (fun e => decide (8 * e.1 < Config.spBytes)), image := some l.digest }))
       | _ => none)
    | _ => none

/-- Makes a core ready for a launch (R32, R160, R293). -/
def State.prepCore (s : State) (p : Nat) (l : Launch) (c : Nat) : Option State :=
  let k := s.core c
  let k := if k.owner = some p then k else { k.wipe with owner := some p }
  let k := if k.strands.any (fun x => x.2.resident) then k else { k with tiles := [], tPoison := [], tOver := [], dev := [] }
  let k := { k with descs := k.descs.filter (fun d => d.part == p && d.tt == l.ttbase) }
  ((s.setCore c k).loadImage p l c).map (·.strike c)

/-- The debug flags of gangs that start now (R373). -/
def Part.debugNow (q : Part) : Debug := { early := bit q.polOpen 2, strict := bit q.polOpen 3, mixchk := bit q.polOpen 4 }

/-- A strand as its gang starts it (R80, R167, R171, R289). -/
def Launch.strand0 (l : Launch) (p g x sid : Nat) (d : Debug) : Strand :=
  { resident := true, part := p, lid := l.lid, gang := g, sid := sid, dbg := d,
    regs := { g := (List.range 16).foldl (fun t i => tput 0 t i (lget 0 l.ginit i)) [] },
    ctl := { spillBase := l.spill.1 + x * l.spill.2, spillSize := l.spill.2, regionBase := l.region.1 + x * l.region.2,
             regionSize := l.region.2, rseed := l.rseed, ttbase := l.ttbase, ttcount := l.ttcount, dbase := l.dbase } }

/-- Binds a launch's barriers on a cluster to a set of `n` strands (R280, R295). -/
def State.bindBars (s : State) (cl : Nat) (l : Launch) (n : Nat) : State :=
  (List.range 16).foldl (fun s b => if bit l.bars b then s.setBar cl b { expect := n } else s) s

/-- Starts one gang on its contexts (R266, R300). -/
def State.startGang (s : State) (p i cl : Nat) (fallback : Bool) (g : Nat) (at_ : List (Nat × Nat)) : State :=
  let l := (s.part p).at_ i
  let d := (s.part p).debugNow
  let s := (List.range at_.length).foldl (fun s j =>
    let a := lget (0, 0) at_ j
    s.setStrand a.1 a.2 (l.strand0 p g a.2 (j % l.s) d)) s
  -- what arrived for its scratchpad before it started is there now (R252, R263)
  let s := (l.gang g).early.foldl (fun s e => s.modCore ((at_.map (·.1)).headD 0) (fun k => k.spPut e.1 [e.2])) s
  let gang : Gang := { phase := .running, place := at_, cores := (at_.map (·.1)).eraseDups, dbg := d }
  let s := s.modAt p i (fun l =>
    { l with gangs := tput {} l.gangs g { gang with ends := (l.gang g).ends }, started := l.started + 1,
             phase := if l.started + 1 = l.g then .started else l.phase })
  s.plog p { lid := l.lid, gidx := g, kind := 1, to_ := cl, reason := if fallback then 1 else 0 }

/-- Starts placed units of a launch; none while a core's image cannot be loaded. -/
def State.startUnits (s : State) (p i : Nat) (us : List (Nat × List (Nat × List (Nat × Nat)) × Bool)) : Option State :=
  let l := (s.part p).at_ i
  let s := if l.started = 0 then s.dropExternal p else s
  let cores := (us.flatMap (fun u => u.2.1.flatMap (fun g => g.2.map (·.1)))).eraseDups
  (cores.foldl (fun (r : Option State) c => r.bind (fun s => s.prepCore p l c)) (some s)).map (fun s =>
    -- with BAR = 0 each gang has a preferred die of its own, also in a set of a co-resident launch (R298, R300)
    let fell (u : Nat × List (Nat × List (Nat × Nat)) × Bool) (g : Nat) : Bool :=
      if l.bars = 0 then u.1 / 16 != lget 0 (dieOrder (s.scores p l [g]) g) 0 else u.2.2
    us.foldl (fun s u =>
      let s := if l.bars = 0 then s else s.bindBars u.1 l ((u.2.1.map (fun g => g.2.length)).sum)
      u.2.1.foldl (fun s g => s.startGang p i u.1 (fell u g.1) g.1 g.2) s) s)

/-- GANG_START (R293 to R298): the launch that R296 picks starts gang `g` with the gangs placed with it. -/
def execGangStart (p lid g : Nat) (s : State) : Host.Outcome State Fault Refusal :=
  .next (match (s.part p).indexOf lid, s.pick p with
    | some i, some (.start j) =>
      let l := (s.part p).at_ i
      if i ≠ j ∨ l.g ≤ g ∨ (l.gang g).phase ≠ .waiting ∨ !s.roomFor p l g then s
      else
        let us := if l.cor ∧ l.started = 0 then s.placeCor p l
          else (s.placeUnit p l (s.avail p) s.used g).map (fun u => [u])
        (match us.bind (s.startUnits p i) with
         | some s' => s'.modPart p (fun q => { q with nextRR := tput 0 q.nextRR (q.prioOf l) ((l.queue + 1) % 16) })
         | none => s)
    | _, _ => s)

/-! Ends. -/

/-- An armed trigger that has not fired (R157). -/
def Cmd.armed (m : Cmd) : Bool := (match m.kind with | .trig .. => true | _ => false) && m.phase == .queued

/-- Whether a gang is over (R266, R285): its strands have exited, their stores are performed, their commands completed. -/
def State.gangDone (s : State) (p lid g : Nat) : Bool :=
  let k := (s.launch p lid).gang g
  k.phase == .running && k.place.all (fun a => let t := s.strand a.1 a.2; t.exited && t.stores == [] && t.atoms == []) &&
    k.cores.all (fun c => (s.core c).cmds.all (fun m => !m.ofGang p lid g || m.armed))

/-- GANG_END (R266, R285): armed triggers are discarded, windows unmapped, contexts free. -/
def execGangEnd (p lid g : Nat) (s : State) : Host.Outcome State Fault Refusal :=
  .next (if !s.gangDone p lid g then s
    else
      let k := (s.launch p lid).gang g
      let s := k.cores.foldl (fun s c =>
        let s := (s.core c).stash.foldl (fun s e =>
          if e.2.mapped ∧ e.2.part = p ∧ e.2.lid = lid ∧ e.2.gang = g then s.stashUnmap c e.1 else s) s
        s.modCore c (fun k => k.cancel (fun m => m.ofGang p lid g))) s
      let s := k.place.foldl (fun s a => s.setStrand a.1 a.2 {}) s
      let cl := (k.cores.headD 0) / 4
      let s := if clusterEmpty s.used cl then
          (s.modCluster cl (fun c => { c with bars := [] })).modPart p (fun q => { q with deferred := q.deferred.filter (fun d => d.1 % 64 != cl) })
        else s
      s.modLaunch p lid (fun l =>
        { l with gangs := tput {} l.gangs g { k with phase := .ended }, ended := if l.abort.isNone then l.ended + 1 else l.ended }))

/-- Whether every gang of a launch is over (R293, R335). -/
def Launch.isOver (l : Launch) : Bool :=
  !l.closed && (l.phase == .accepted || l.phase == .started) &&
    (if l.abort.isSome then l.gangs.all (fun g => g.2.phase != .running && g.2.phase != .saved) else l.ended == l.g)

/-- The last steps of a launch (R139, R292, R293): write-backs, leases, and its record. -/
def State.closeLaunch (s : State) (p i : Nat) : State :=
  let l := (s.part p).at_ i
  let s := (l.bufs.filter (fun e => bufW e.2.2)).foldl (fun s e =>
    s.onLines (s.framesOf p e.1 e.2.1) (fun s ln _ =>
      let s := s.recall ln
      match tget none s.l2 ln with
      | some l => s.writeBack ln l
      | none => s)) s
  let s := s.leases.foldl (fun s e => match e.2 with
    | some x => if x.part = p ∧ x.lid = l.lid then s.endLease e.1 else s
    | none => s) s
  let s : State := { s with flights := s.flights.filter (fun f => !(f.part == p && f.lid == l.lid)) }
  let s := s.modPart p (fun q => { q with groups := q.groups.filter (fun g => g.lid != l.lid) })
  let s := s.modAt p i (fun l => { l with closed := true, phase := if l.abort.isSome then .aborted else l.phase })
  s.owe p
    { lid := l.lid, index := some i, status := l.status, irq := l.irq,
      word0 := match l.abort with | some c => recWord l.lid 3 c | none => recWord l.lid 1 0 }

/-- LAUNCH_COMPLETE (R290, R293, R294): an owed record is tried again; a launch whose DEP is lost is refused; one whose gangs are
all over is completed. -/
def execLaunchComplete (p lid : Nat) (s : State) : Host.Outcome State Fault Refusal :=
  .next (if (s.part p).records.any (fun r => r.lid == lid && (r.fault.isNone || r.failed)) then s.payRecords p
    else match (s.part p).indexOf lid with
      | none => s
      | some i =>
        let q := s.part p
        let l := q.at_ i
        if l.isOver then s.closeLaunch p i
        else if l.phase = .accepted ∧ !l.closed ∧ l.abort.isNone ∧ l.started = 0 ∧ l.deps.any q.depLost then
          let s := s.modAt p i (fun l => { l with closed := true, phase := .refused })
          let s := s.modPart p (fun q => { q with groups := q.groups.filter (fun g => g.lid != lid) })
          s.owe p { lid := lid, index := some i, status := l.status, word0 := recWord lid 2 7, irq := l.irq }
        else s)

/-! Pre-emption (R301, R302). -/

/-- The set on a cluster: partition, LID, gangs in ascending order. -/
def State.setOn (s : State) (cl : Nat) : Option (Nat × Nat × List Nat) :=
  match s.used.find? (fun o => o.1 / 4 == cl) with
  | none => none
  | some (_, _, p, lid) =>
    some (p, lid, (s.launch p lid).gangs.filterMap (fun g =>
      if g.2.phase = .running ∧ g.2.cores.any (fun c => c / 4 == cl) then some g.1 else none))

/-- The cores of a set. -/
def State.setCores (s : State) (cl : Nat) : List Nat :=
  (List.range 4).map (fun i => 4 * cl + i) |>.filter (fun c => (s.core c).strands.any (fun x => x.2.resident))

/-- A command that completes before a set is saved (R239). -/
def Cmd.mustEnd (m : Cmd) : Bool :=
  (match m.kind with | .drain .. => true | .accZero _ => true | _ => false) && m.phase == .active && m.parked.isNone

/-- A launch that keeps every gang resident, from its first gang's start to its last gang's end (R267). -/
def Launch.stays (l : Launch) : Bool := l.cor && decide (0 < l.started) && decide (l.ended < l.g) && l.abort.isNone

/-- A command of the channel queue that has begun to write its destination completes that before it is saved (R263). -/
def Cmd.writing (m : Cmd) : Bool :=
  m.cursor != 0 && (match m.kind with | .chRecv .. | .chStat _ => m.phase == .active | _ => false)

/-- A set can be saved now: its launch is not co-resident (R267), a strand still runs, no DICT.LOAD or rollback is under way, no DRAIN or
ACC.ZERO is half done, every sector is whole, and no payload is half written (R154, R239, R263, R302, R333). It waits for accesses that later
ones of their strand have been performed before, which can be performed at once, so that the axioms hold of what the set meets when it is
resumed (R320, log 113). -/
def State.canSave (s : State) (cl : Nat) : Bool :=
  let cs := (s.setCores cl).map s.core
  let ts := cs.flatMap (fun k => k.strands.filterMap (fun x => if x.2.resident then some x.2 else none))
  ts.any (fun t => !t.exited) && ts.all (fun t => t.dict.isNone && t.rolling.isNone && !t.passing) &&
  cs.all (fun k => k.kiln.all (fun m => !m.mustEnd) && k.cmds.all (fun m => !m.mid && !m.writing)) &&
  (match s.setOn cl with | some (p, lid, _) => !(s.launch p lid).stays | none => true)

/-- Save slots of a partition that are free (R301). -/
def Part.freeSlots (q : Part) : List Nat := (List.range q.saveSlots).filter (fun i => !q.saved.any (fun v => v.slots.contains i))

/-- Flushes the windows of a core and gives their lines back; the mappings stay (R142). -/
def State.flushWindows (s : State) (c : Nat) : State :=
  let s := (s.core c).stash.foldl (fun s e =>
    let s := s.stashFlush c e.1
    e.2.lines.foldl (fun s x => match x.2 with
      | some (ln, _) => s.recall ln
      | none => s) s) s
  s.modCore c (fun k => { k with stash := k.stash.map (fun e => (e.1, { e.2 with lines := [] })) })

/-- A core without its gangs: what belongs to the core stays (R303, R357). -/
def Core.vacate (k : Core) : Core :=
  { k with strands := [], active := none, copies := [], trigs := [], kiln := [], gath := [], chans := [], stash := [], marks := [] }

/-- A deferral is over: what asked for the pre-emption asks no more (R301). -/
def State.undefer (s : State) (p d : Nat) : State :=
  if (s.part p).deferred.any (·.1 == d) then s.modPart p (fun q => { q with deferred := q.deferred.filter (·.1 != d) }) else s

/-- A set finds too few free save slots (R301). -/
def State.noSlot (s : State) (cl : Nat) : Bool :=
  match s.setOn cl with
  | some (p, _, _) => decide ((s.part p).freeSlots.length < (s.setCores cl).length)
  | none => false

/-- Saves the set on a cluster (R301); with too few free slots the pre-emption is not started, which is logged once for whom it is asked.
`why`: what asks, `asker`: for whom. It waits for slots whose stack is not ready (R387). -/
def State.preempt (s : State) (cl why : Nat) (asker : Nat := 0) : State :=
  match s.setOn cl with
  | none => s
  | some (p, lid, gs) =>
    let cs := s.setCores cl
    if !s.canSave cl then s
    else if (s.part p).freeSlots.length < cs.length then
      (if (s.part p).deferred.contains (cl + 64 * why, asker) then s
       else (s.modPart p (fun q => { q with deferred := (cl + 64 * why, asker) :: q.deferred.filter (·.1 != cl + 64 * why) })).plog p
         { lid := lid, gidx := gs.headD 0, kind := 6, to_ := cl, reason := 1 })
    else if !((s.part p).freeSlots.take cs.length).all (fun i => s.unitUp ((s.part p).saveBase / 2 ^ 22 + i)) then s
    else
      let s := cs.foldl State.flushWindows s
      let slots := (s.part p).freeSlots.take cs.length
      let v : SavedSet :=
        { lid := lid, gangs := gs, cluster := cl, cores := cs.map (fun c => (c % 4, { s.core c with active := none })),
          bars := (s.cluster cl).bars, slots := slots }
      -- the slots' bytes are the state's, in a layout the spec does not give, under the partition's key slot (R287, R301, log 53)
      let s := s.undefine (slots.map (fun i => (s.part p).saveBase / 2 ^ 22 + i)) p
      let s := slots.foldl (fun s i => s.watchLines (unitWho p) (((s.part p).saveBase / 2 ^ 22 + i) * 2 ^ 22) (2 ^ 22)) s
      let s := cs.foldl (fun s c => s.modCore c Core.vacate) s
      let s := s.modCluster cl (fun k => { k with bars := [] })
      let s := gs.foldl (fun s g => s.modGang p lid g (fun k => { k with phase := .saved })) s
      let s := s.modPart p (fun q => { q with saved := q.saved ++ [v], deferred := q.deferred.filter (fun d => d.1 % 64 != cl) })
      s.plog p { lid := lid, gidx := gs.headD 0, kind := 4, to_ := cl }

/-- The gang a PRIO 0 queue with PRE waits to place: its launch's position and the gang (R296). -/
def State.preWaits (s : State) (p : Nat) : Option (Nat × Nat) :=
  let q := s.part p
  ((List.range 16).filter (fun k => qPrio (q.queue k) == 0 && qPre (q.queue k))).findSome? (fun k =>
    match q.oldest k with
    | some i =>
      let l := q.at_ i
      if q.canBegin i ∧ !s.anyRoom p l then (l.units.find? (fun g => (l.gang g).phase == .waiting)).map (fun g => (i, g)) else none
    | none => none)

/-- The set that gives way (R296, R358): of the youngest launch of PRIO 2 or 3, the one on the waiting gang's die, else the
lowest. -/
def State.victim (s : State) (p i g : Nat) : Option Nat :=
  let q := s.part p
  let l := q.at_ i
  let die := lget 0 (dieOrder (s.scores p l (l.unit g)) (l.unitNo g)) 0
  let sets := (List.range 64).filterMap (fun cl => match s.setOn cl with
    | some (p', lid, _) => if p' = p ∧ 2 ≤ q.prioOf (s.launch p lid) ∧ ¬ (s.launch p lid).stays then some (cl, (q.indexOf lid).getD 0) else none
    | none => none)
  let young := sets.foldl (fun m e => max m e.2) 0
  let cands := sets.filter (fun e => e.2 == young)
  ((cands.find? (fun e => e.1 / 16 == die)).or cands.head?).map (·.1)

/-- PREEMPT (R296, R301): the set on a cluster gives way to a waiting gang of PRIO 0. -/
def execPreempt (p cl : Nat) (s : State) : Host.Outcome State Fault Refusal :=
  .next (match s.preWaits p with
    | some (i, g) => if s.victim p i g = some cl then s.preempt cl 0 (i * 2 ^ 20 + g) else s.undefer p cl
    | none => s.undefer p cl)

/-! Resumption (R303). -/

/-- A core of one cluster at the same position of another. -/
def moveCore (old new c : Nat) : Nat := if c / 4 = old then 4 * new + c % 4 else c

def moveLoc (old new : Nat) : Loc → Loc
  | .sp c o => .sp (moveCore old new c) o
  | l => l

def Piece.moved (q : Piece) (old new : Nat) : Piece := { q with loc := moveLoc old new q.loc }

/-- An access that is not performed, with the parts of it that have been (R304). -/
def Result.moved (r : Result) (old new : Nat) : Result :=
  { r with faults := [], got := r.got.map (fun g => (g.1.moved old new, g.2)),
           load := r.load.map (fun l => { l with pieces := l.pieces.map (·.moved old new), more := l.more.map (fun a => (moveLoc old new a.1, a.2)) }) }

/-- A unit of poison (R96, R160), a row of a scratchpad with its core. -/
def moveUnit (old new u : Nat) : Nat :=
  if 2 ^ 56 ≤ u then 2 ^ 56 + moveCore old new ((u - 2 ^ 56) / 2 ^ 20) * 2 ^ 20 + u % 2 ^ 20 else u

/-- A store on the core it goes on at; elements that wait on a page fault are retried (R302). -/
def Store.moved (r : Store) (old new : Nat) : Store :=
  { r with pieces := r.pieces.map (fun q => { q with loc := moveLoc old new q.loc, fault := none }),
           done := r.done.map (fun a => (moveLoc old new a.1, a.2)), clean := r.clean.map (moveUnit old new),
           passes := r.passes.map (fun a => (moveCore old new a.1, a.2)) }

def Plat.moved (t : Plat) (old new : Nat) : Plat := { t with results := t.results.map (fun r => r.moved old new) }

/-- A strand's held accesses name the cores it now stands on. Those that wait on a page fault are retried (R302). -/
def Strand.moved (t : Strand) (old new : Nat) : Strand :=
  { t with plat := t.plat.moved old new, handler := t.handler.map (fun h => { h with plat := h.plat.moved old new }),
           atoms := t.atoms.map (fun r => r.moved old new), fault := none,
           stores := t.stores.map (fun r => r.moved old new) }

/-- A saved core on the core it resumes on: dictionary, store of descriptors, counters are the core's own (R303, R357). -/
def Core.restored (v live : Core) (old new : Nat) : Core :=
  let put (m : Cmd) : Cmd := { m with outbox := m.outbox.map (fun q => { q with loc := moveLoc old new q.loc }) }
  let v := v.mapCmds put
  { v with
    strands := v.strands.map (fun x => (x.1, x.2.moved old new)), active := none, last := live.last, dict := live.dict, pool := live.pool,
    poolN := live.poolN, image := live.image, owner := live.owner, descs := live.descs,
    marks := v.marks.map (fun a => (moveCore old new (a.1 / 16384) * 16384 + a.1 % 16384, a.2)),
    stall := live.stall, dev := live.dev, l2loc := live.l2loc, l2rem := live.l2rem, l2dom := live.l2dom, ecc := live.ecc, soft := live.soft, poolSrc := live.poolSrc, portAt := live.portAt,
    stopped := live.stopped }

/-- RESUME (R303): saved set `j` returns to empty cores, its strands on their contexts. -/
def execResume (p j : Nat) (s : State) : Host.Outcome State Fault Refusal :=
  .next (match s.pick p, (s.part p).saved[j]? with
    | some (.resume j'), some v =>
      let l := s.launch p v.lid
      if j ≠ j' ∨ !v.slots.all (fun i => s.unitUp ((s.part p).saveBase / 2 ^ 22 + i)) then s
      else match s.placeSaved p l v with
        | none => s
        | some (cl, _) =>
          let cs := v.cores.map (fun k => 4 * cl + k.1)
          (match cs.foldl (fun (r : Option State) c => r.bind (fun s => s.prepCore p l c)) (some s) with
           | none => s
           | some s' =>
             let s' := v.cores.foldl (fun s k => s.modCore (4 * cl + k.1) (fun live => k.2.restored live v.cluster cl)) s'
             let s' := if l.bars = 0 then s' else s'.modCluster cl (fun k => { k with bars := v.bars })
             let s' := v.gangs.foldl (fun s g => s.modGang p v.lid g (fun k =>
               { k with phase := .running, place := k.place.map (fun a => (moveCore v.cluster cl a.1, a.2)),
                        cores := k.cores.map (moveCore v.cluster cl) })) s'
             let s' := s'.modPart p (fun q => { q with saved := ldel q.saved j })
             s'.plog p { lid := v.lid, gidx := v.gangs.headD 0, kind := 5, to_ := cl, from_ := v.cluster })
    | _, _ => s)

/-! Sharing (R297). -/

/-- A partition has ready work for a shared cluster: a set on it, a saved set, or a gang that may start. -/
def State.hasWork (s : State) (p cl : Nat) : Bool :=
  let q := s.part p
  (match s.setOn cl with | some (p', _) => p' == p | none => false) || q.saved != [] || (List.range q.launches.length).any q.canBegin

/-- Hands a shared cluster to a sharer. -/
def State.handOver (s : State) (cl p : Nat) : State := s.modCluster cl (fun k => { k with holder := some (p, s.cy), part := some p })

/-- No sharer asks for the cluster now. -/
def State.undeferSet (s : State) (cl : Nat) : State :=
  match s.setOn cl with
  | some (p, _, _) => s.undefer p (cl + 64)
  | none => s

/-- The set on a cluster gives way to a sharer, which then holds the cluster (R297, R301). -/
def State.yieldTo (s : State) (cl p : Nat) : State :=
  let s := s.preempt cl 1 (p + 1)
  if clusterEmpty s.used cl then s.handOver cl p else s

/-- Whether the set on a cluster is of a partition that does not share it: one that ran there when SHARE was given (R297, R390). -/
def State.stranger (s : State) (cl : Nat) : Bool :=
  match s.setOn cl with
  | some (p, _, _) => !(s.cluster cl).share.any (fun e => e.1 == p)
  | none => false

/-- SHARE_SLICE_EXPIRY (R297): a sharer that has used its share, or has no work, gives way to the next one with work; a set of a partition
that does not share the cluster to any. -/
def execShareSliceExpiry (cl : Nat) (s : State) : Host.Outcome State Fault Refusal :=
  let k := s.cluster cl
  let work (e : Nat × Nat) : Bool := s.hasWork e.1 cl
  -- the sharers, in turn after the one that holds the cluster, which comes last
  let ring := match k.holder.bind (fun h => lfind (fun e => e.1 == h.1) k.share) with
    | some i => k.share.drop (i + 1) ++ k.share.take i
    | none => k.share
  let held := match k.holder with
    | some h => k.share.filter (fun e => e.1 == h.1)
    | none => []
  .next (if k.share.length < 2 then s
    else if s.stranger cl then
      (match (held ++ ring).find? work with
       | some e => s.yieldTo cl e.1
       | none => s.undeferSet cl)
    else match k.holder with
      | none => (match k.share.find? work with
          | some e => if clusterEmpty s.used cl then s.handOver cl e.1 else s
          | none => s)
      | some (p, since) =>
        match ring.find? work with
        | none => s.undeferSet cl
        | some next =>
          let total := ((k.share.filter (fun e => e.1 == p || work e)).map (·.2)).sum
          let mine := (held.map (·.2)).headD 0
          let used := 2 * (s.cy - since) / 5
          if s.hasWork p cl ∧ used * total < k.slice * mine then s.undeferSet cl else s.yieldTo cl next.1)

/-! The placement period (R299). -/

/-- Valid leaves of a partition's tables below a table: VA, entry, level. -/
def leavesOf (s : State) (slot : Nat) : Nat → Nat → Nat → List (Nat × Nat × Nat)
  | 0, t, va => (List.range 32).filterMap (fun i =>
      let e := s.pteAt slot (t + 8 * i)
      if bit e 0 ∧ peLeaf e then some (va + i * 65536, e, 0) else none)
  | n + 1, t, va => (List.range (if n = 2 then 2 ^ 18 else 512)).flatMap (fun i =>
      let e := s.pteAt slot (t + 8 * i)
      let va := va + i * 2 ^ (21 + 9 * n)
      if !bit e 0 then [] else if peLeaf e then [(va, e, n + 1)] else leavesOf s slot n (fld e 49 8 * 256) va)

def State.leaves (s : State) (p : Nat) : List (Nat × Nat × Nat) := leavesOf s p 3 (s.part p).fu.ptbase 0

/-- One page of a period: it is moved towards the die that asks for it, or the move is skipped and logged (R299, R300). Where several reasons
hold, the record carries the first of pool empty, lock taken, floor: the model's choice, since R300 gives no order (log 123). -/
def State.placePage (s : State) (p va e thresh : Nat) : State :=
  let fr := peFrame e
  let n (d : Nat) : Nat := tget 0 s.frames (fr * 4 + d)
  let total := n 0 + n 1 + n 2 + n 3
  let stack := pageStack (fr * 65536) (pePl e) (pePln e)
  match (List.range 4).find? (fun d => decide (thresh < n d) && decide (3 * total < 4 * n d) && stack / 3 != d) with
  | none => s
  | some d =>
    let pl := pePl e
    let pln := if pl = 1 then d else 3 * d + stack % 3
    let f := (s.part p).fu
    let q := tget {} s.hk.pools (poolOf pl pln)
    let skip (r : Nat) : State :=
      s.plog p { va := va, kind := 3, to_ := 3 * d + stack % 3, from_ := stack, reason := r, req := n d }
    if q.head = q.tail ∨ fld q.base 49 12 = 0 then skip 1
    else if f.locks.any (fun l => l.1 == va / 65536 && !f.grants.contains (l.1, s.time)) then skip 2
    else if (f.floorOf s.time va).isSome ∨ !f.floorRoom s.time 1 then skip 3
    else s.migStart p [va] pl pln (n d)

/-- PLACEMENT_PERIOD (R299): the counts of every counted page are read and zeroed. A page of 2 MiB or 1 GiB has no pool of frames and is
not moved (R108, log 52). -/
def execPlacementPeriod (p : Nat) (s : State) : Host.Outcome State Fault Refusal :=
  let ctl := (s.part p).placeCtl
  .next (if !bit ctl 0 ∨ s.time < (s.part p).placedAt + fld ctl 63 32 then s
    else
      let s := s.modPart p (fun q => { q with placedAt := s.time })
      let pages := (s.leaves p).filter (fun x => bit x.2.1 61 && decide (pePl x.2.1 < 3))
      pages.foldl (fun s x =>
        let s := if x.2.2 = 0 ∧ (pePl x.2.1 = 1 ∨ pePl x.2.1 = 2) then s.placePage p x.1 x.2.1 (fld ctl 31 8) else s
        let n := 2 ^ (pageBits x.2.2 - 16)
        { s with frames := s.frames.filter (fun c => !(decide (peFrame x.2.1 ≤ c.1 / 4) && decide (c.1 / 4 < peFrame x.2.1 + n))) }) s)

/-! Launches ended from outside. -/

/-- Ends a launch with a CODE the spec does not give (log 9). -/
def State.endFree (s : State) (p lid : Nat) : State := s.nextFree.abortLaunch p lid (Config.freeByte s.free).toNat

/-- Launches of a partition that have not ended. -/
def Part.live (q : Part) : List Nat := q.launches.filterMap (fun l => if l.closed then none else some l.lid)

/-- PROVIDER_END_LAUNCH (R267). -/
def execProviderEndLaunch (p lid : Nat) (s : State) : Host.Outcome State Fault Refusal :=
  .next (if (s.part p).live.contains lid then s.endFree p lid else s)

/-- Whether a leaf's page has bytes on a stack: an interleaved page lies on all, a page of a die on the die's three (R93). -/
def leafOn (e stack : Nat) : Bool :=
  match pePl e with
  | 0 => true
  | 1 => pePln e == stack / 3
  | 2 => pePln e == stack
  | _ => false

/-- UNATTRIBUTED_FAULT (R345): the launches of every partition that uses the cluster or the stack end, and it is logged. -/
def execUnattributedFault (site : FaultSite) (s : State) : Host.Outcome State Fault Refusal :=
  let uses (p : Nat) : Bool := match site with
    | .cluster cl => bit (s.part p).clusters cl || (s.cluster cl).part == some p
    | .stack k => (s.leaves p).any (fun x => leafOn x.2.1 k)
  let s' := (List.range 48).foldl (fun s p => if uses p then (s.part p).live.foldl (fun s lid => s.endFree p lid) s else s) s
  -- R392 has no KIND for it (log 54)
  .next (s'.nextFree.hkLog (Config.freeByte s'.free).toNat (match site with | .cluster cl => cl | .stack k => 0x100 + k) 0)

end Sys2Proof.Machine
end

