-- ==== Sys2Proof/Machine/Regs.lean ====
section
/-! DEFINITION. The register pages of the partitions and of the PF (R25, R104, R287, R336, R341, R371, R376, R386, R390 to
R393): what a read returns and what a plain write does; the placement log's base (R300), handler segments (R380), watchpoints
(R341 to R344) and the debug policy (R370 to R374). -/

namespace Sys2Proof.Machine

/-! Reads. -/

/-- A stack's scrub register (R97): 0 CE, 1 UE, 2 TAGF, 3 LAST. -/
def Scrub.read (x : Scrub) (r : Nat) : Nat := match r with | 0 => x.ce | 1 => x.ue | 2 => x.tagf | _ => x.last

/-- A write of a scrub register (R97): a one clears a bit of a count. -/
def Scrub.write (x : Scrub) (r v : Nat) : Scrub :=
  let w1c (n : Nat) : Nat := n &&& ((2 ^ 32 - 1) ^^^ (v % 2 ^ 32))
  match r with | 0 => { x with ce := w1c x.ce } | 1 => { x with ue := w1c x.ue } | 2 => { x with tagf := w1c x.tagf } | _ => x

def tdispCode : Tdisp → Nat
  | .unlocked => 0 | .locked => 1 | .run => 2 | .error => 3

/-- READY (R386). -/
def Housekeeping.readyWord (h : Housekeeping) : Nat := h.fail * 2 ^ 32 + h.ready

/-- POL.STAT (R372). -/
def Part.polStat (q : Part) : Nat := (if q.polBusy then 65536 else 0) + q.polRes * 256 + q.polOpen % 64

/-- A watchpoint register as it reads (R341): 0 while the policy does not open WATCH (R374). -/
def Part.watchRead (q : Part) (i r : Nat) : Nat :=
  let w := tget {} q.watches i
  if !bit q.polOpen 5 then 0
  else match r with
    | 0 => w.base
    | 8 => w.ctl + (if w.armed then 8 else 0)
    | 16 => w.hit
    | _ => w.haddr

/-- A read of a partition's register page; an offset that holds no register, and a write-only one, read as 0. -/
def State.regRead (s : State) (p off : Nat) : Nat :=
  let q := s.part p
  let f := q.fu
  if 0x100 ≤ off ∧ off < 0x300 then
    let k := q.queue ((off - 0x100) / 32)
    (match (off - 0x100) % 32 with | 0 => k.base | 8 => k.ctl | 16 => k.tail | 24 => k.head | _ => 0)
  else if 0x400 ≤ off ∧ off < 0x500 then q.watchRead ((off - 0x400) / 32) ((off - 0x400) % 32)
  else match off with
    | 0x000 => f.base | 0x008 => f.head | 0x010 => f.tail | 0x018 => f.fstat | 0x028 => f.floor | 0x038 => f.migres
    | 0x048 => if f.tlbDone then 1 else 0
    | 0x050 => f.ptbase | 0x060 => q.plogBase | 0x068 => q.plogHead | 0x070 => q.plogTail | 0x078 => q.plogLost
    | 0x080 => q.placeCtl | 0x088 => q.saveBase | 0x090 => q.saveSlots | 0x098 => q.trapBase | 0x0A0 => q.trapSeg
    | 0x0A8 => q.segStat | 0x0B0 => q.winBase | 0x600 => q.polAddr | 0x610 => q.polStat | 0x618 => q.polCtr | 0x620 => q.polExp
    | 0x628 => tdispCode q.tdisp | 0x640 => s.hk.readyWord
    | _ => 0

/-- HK.STAT (R390). -/
def Housekeeping.stat (h : Housekeeping) : Nat := (if h.busy then 2 ^ 63 else 0) + h.status

/-- Offsets of the PF page that the spec's tables give to a register, readable or not (R386, R388, R390, R392 to R394). -/
def pfNamed (off : Nat) : Bool :=
  (decide (0x800 ≤ off) && decide (off < 0x848)) || (decide (0x1000 ≤ off) && decide (off < 0x1260)) ||
  (decide (0x1400 ≤ off) && decide (off < 0x1480)) || (decide (0x1800 ≤ off) && decide (off < 0x1A20))

/-- The driver's own fault unit and window have their registers at the offsets of a partition's page (R104, R376, log 100). -/
def pfOwn (off : Nat) : Bool := decide (off < 0x058) || off == 0x0B0

/-- A read of the PF's register page. -/
def State.pfRead (s : State) (off : Nat) : Nat :=
  let h := s.hk
  if 0x1000 ≤ off ∧ off < 0x1260 then (tget 0 h.sensors ((off - 0x1000) / 8)).toNat
  else if 0x1400 ≤ off ∧ off < 0x1480 then (tget 0 h.wear ((off - 0x1400) / 8)).toNat
  else if 0x1800 ≤ off ∧ off < 0x1A20 then
    let k := tget {} h.pools ((off - 0x1800) / 32)
    (match (off - 0x1800) % 32 with | 0 => k.base | 8 => k.tail | 16 => k.head | _ => 0)
  else match off with
    | 0x800 => h.readyWord | 0x810 => h.arg0.toNat | 0x818 => h.arg1.toNat | 0x820 => h.stat
    | 0x828 => h.logBase | 0x830 => h.logHead | 0x838 => h.logTail | 0x840 => h.sigBase
    | _ =>
      if pfOwn off then s.regRead 49 off
      else if pfNamed off then 0
      else match Config.scrubReg off with
        | some (k, r) => (tget {} s.scrub k).read r
        | none => 0

/-- What the provider may read of a partition's profile (R112, R373): a core's counters, or a register of the placement log. -/
inductive ProfReg where
  | l2loc (core : Nat) | l2rem (core : Nat) | l2dom (core : Nat) | bankStall (core : Nat) | plog (off : Nat)
  deriving DecidableEq, Repr

/-- A provider's read of a partition's profile: 0 unless the partition's policy opens PROF (R373, R374). -/
def State.profRead (s : State) (p : Nat) (r : ProfReg) : Nat :=
  let of (c : Nat) (f : Core → Word) : Nat := if (s.core c).owner = some p then (f (s.core c)).toNat else 0
  if !bit (s.part p).polOpen 1 then 0
  else match r with
    | .l2loc c => of c Core.l2loc
    | .l2rem c => of c Core.l2rem
    | .l2dom c => of c Core.l2dom
    | .bankStall c => of c (·.stall)
    | .plog off => if 0x060 ≤ off ∧ off < 0x080 then s.regRead p off else 0

/-! The state ERROR (R364, R368). -/

/-- Lines of a slot leave the L2, dirty ones written under the key they have. -/
def State.flushSlot (s : State) (slot : Nat) : State :=
  s.l2.foldl (fun s e => match e.2 with
    | some l =>
      if l.slot = slot then
        let s := s.recall e.1
        let s := match tget none s.l2 e.1 with
          | some l => s.writeBack e.1 l
          | none => s
        { s with l2 := tput none s.l2 e.1 none }
      else s
    | none => s) s

/-- Erases the keys of a slot (R364): no line written before, also one in the L2, reads under the slot again. -/
def State.dropKeys (s : State) (slot : Nat) : State :=
  let s := s.flushSlot slot
  { s with kryel := { s.kryel with gens := s.kryel.gens + 1, keyGen := tput 0 s.kryel.keyGen slot (s.kryel.gens + 1) } }

/-- Moves a VF to a TDISP state, and says so with vector 2 (R375). A VF has an IDE stream in RUN only; its keys go with it (R369). -/
def State.setTdisp (s : State) (p : Nat) (t : Tdisp) : State :=
  (s.modPart p (fun q => { q with tdisp := t, ideKey := if q.tdisp = .run then none else q.ideKey })).irq p 2

/-- ERROR (R368): every launch ends with CODE 0x3F, keys are erased, scratchpads and accumulators zeroed. -/
def State.toError (s : State) (p : Nat) : State :=
  let s := (s.part p).live.foldl (fun s lid => s.abortLaunch p lid 0x3F) s
  let s := s.dropKeys p
  let s : State := { s with cores := s.cores.map (fun e => (e.1, if e.2.owner = some p then e.2.wipe else e.2)) }
  s.setTdisp p .error

/-- A write to the frozen configuration of a VF (R368). -/
def State.frozenWrite (s : State) (p : Nat) : State :=
  match (s.part p).tdisp with
  | .locked | .run => s.toError p
  | _ => s

/-! Plain writes (R25). -/

/-- A queue register (R287). -/
def Queue.write (k : Queue) (r v : Nat) : Queue :=
  match r with
  | 0 => if qEn k then k else { k with base := fld v 49 12 * 4096 }
  | 8 =>
    if fld v 8 4 < 4 ∨ 16 < fld v 8 4 then k
    else
      let size := if qEn k then qLog k else fld v 8 4
      { k with ctl := fld v 9 9 * 512 + size * 16 + fld v 2 1 * 2 + fld v 0 0 }
  | 16 => { k with tail := v }
  | _ => k

/-- A watchpoint register, but for an enabling write of its CTL (R341, R342, R344). -/
def Watch.write (w : Watch) (r v : Nat) : Watch :=
  match r with
  | 0 => { w with base := fld v 49 3 * 8 }
  | 8 => if bit v 0 then w else { w with ctl := fld v 63 32 * 2 ^ 32 + fld v 2 1 * 2, armed := false }
  | 16 => { w with hit := (fld w.hit 63 48 &&& (65535 - fld v 63 48)) * 2 ^ 48 + fld w.hit 47 0 }
  | _ => w

/-- A write to a partition's page of a register with no behaviour of its own. -/
def State.partWrite (s : State) (p off v : Nat) : State :=
  let on (f : Part → Part) : State := s.modPart p f
  let fu (f : FaultUnit → FaultUnit) : State := s.modFu p f
  if 0x100 ≤ off ∧ off < 0x300 then
    let i := (off - 0x100) / 32
    on (fun q => { q with queues := tput {} q.queues i ((q.queue i).write ((off - 0x100) % 32) v) })
  else if 0x400 ≤ off ∧ off < 0x500 then
    let i := (off - 0x400) / 32
    if bit (s.part p).polOpen 5 then
      on (fun q => { q with watches := tput {} q.watches i ((tget {} q.watches i).write ((off - 0x400) % 32) v) })
    else s
  else match off with
    | 0x018 => fu (fun f => { f with ovf := f.ovf && !bit v 0 })
    | 0x028 => fu (fun f => { f with floor := v })
    | 0x050 => fu (fun f => { f with ptbase := fld v 49 21 * 2 ^ 21 })
    | 0x070 => on (fun q => if q.plogTail ≤ v ∧ v ≤ q.plogHead then { q with plogTail := v } else q)
    | 0x078 => on (fun q => { q with plogLost := q.plogLost &&& ((2 ^ 32 - 1) ^^^ (v % 2 ^ 32)) })
    | 0x080 => on (fun q => { q with placeCtl := v - fld v 7 1 * 2 })
    | 0x088 => on (fun q => { q with saveBase := fld v 49 22 * 2 ^ 22 })
    | 0x090 =>
      if (s.part p).tdisp = .unlocked then on (fun q => { q with saveSlots := v % 256 }) else s.frozenWrite p
    | 0x098 => on (fun q => { q with trapBase := fld v 56 17 * 2 ^ 17 })
    | 0x0B0 => on (fun q => { q with winBase := fld v 56 36 * 2 ^ 36 })
    | 0x600 => on (fun q => { q with polAddr := fld v 49 6 * 64 })
    | _ => s

/-- A pool register (R393). -/
def Pool.write (k : Pool) (r v : Nat) : Pool :=
  match r with
  | 0 => if k.head ≠ k.tail ∨ fld v 4 0 < 4 ∨ 16 < fld v 4 0 then k else { k with base := fld v 49 12 * 4096 + fld v 4 0 }
  | 8 => { k with tail := v }
  | _ => k

/-- A write to the PF's page of a register with no behaviour of its own. -/
def State.pfWrite (s : State) (off : Nat) (v : Word) : State :=
  let n := v.toNat
  let hk (f : Housekeeping → Housekeeping) : State := { s with hk := f s.hk }
  if 0x1800 ≤ off ∧ off < 0x1A20 then
    let i := (off - 0x1800) / 32
    hk (fun h => { h with pools := tput {} h.pools i ((tget {} h.pools i).write ((off - 0x1800) % 32) n) })
  else match off with
    | 0x810 => hk (fun h => { h with arg0 := v })
    | 0x818 => hk (fun h => { h with arg1 := v })
    | 0x828 => (hk (fun h =>
        let b := fld n 49 18 * 2 ^ 18
        if h.logHead ≠ h.logTail then h else if b = 0 then { h with logBase := 0 } else { h with logBase := b, logHead := 0, logTail := 0 })).hkSpace
    | 0x840 => hk (fun h => { h with sigBase := n })
    | _ =>
      if pfOwn off then s.partWrite 49 off n
      else if pfNamed off then s
      else match Config.scrubReg off with
        | some (k, r) => { s with scrub := tput {} s.scrub k ((tget {} s.scrub k).write r n) }
        | none => s

/-- REGISTER_WRITE (R25): a register with a behaviour of its own is written by its own event. A step holds a write of BAR0 back behind posted
window writes of its function that wait (R376, State.behind). -/
def execRegisterWrite (page : PageRef) (off : Nat) (v : Word) (s : State) : Host.Outcome State Fault Refusal :=
  .next (match page with
    | .part p => s.partWrite p off v.toNat
    | .pf => s.pfWrite off v)

/-- PLOG_BASE_WRITE (R300): ignored while HEAD differs from TAIL; else both become 0. -/
def execPlogBaseWrite (p : Nat) (v : Word) (s : State) : Host.Outcome State Fault Refusal :=
  let base := fld v.toNat 49 17 * 2 ^ 17
  .next (s.modPart p (fun q =>
    if q.plogHead ≠ q.plogTail then q else { q with plogBase := base, plogHead := 0, plogTail := 0 }))

/-! Handler segments (R380). -/

/-- TRAP_SEG_WRITE (R380). -/
def execTrapSegWrite (p : Nat) (v : Word) (s : State) : Host.Outcome State Fault Refusal :=
  let va := fld v.toNat 56 6 * 64
  .next (s.modPart p (fun q => { q with trapSeg := va, segStat := if va = 0 then 0 else 1 }))

/-- TRAP_SEG_CHECK_DONE (R378, R380). -/
def execTrapSegCheckDone (p : Nat) (s : State) : Host.Outcome State Fault Refusal :=
  .next (if (s.part p).segStat ≠ 1 then s
    else match s.segCheck p (canonVa (s.part p).trapSeg) true 2 with
      | .error none => s
      | .error (some _) => s.modPart p (fun q => { q with segStat := 3 })
      | .ok (s, g) => s.modPart p (fun q => { q with segStat := 2, segLen := g.len, segStarts := g.starts }))

/-! Watchpoints (R341, R344). -/

/-- Recalls the lines of a range from leases and stash windows (R344). -/
def State.recallRange (s : State) (a n : Nat) : State :=
  s.onLines [(a, n)] (fun s ln l =>
    match l.owner with
    | .home => s
    | .stash .. => s.recall ln
    | .lease .. | .ended _ => (s.writeBack ln l).putLine ln { l with owner := .home, dirty := false })

/-- WATCHPOINT_ENABLE (R341, R344): a write of WP.CTL with EN set. -/
def execWatchpointEnable (p i : Nat) (v : Word) (s : State) : Host.Outcome State Fault Refusal :=
  let n := v.toNat
  let len := fld n 63 32
  .next (if !bit (s.part p).polOpen 5 ∨ !bit n 0 ∨ len = 0 ∨ len % 8 ≠ 0 then s
    else
      let w := tget {} (s.part p).watches i
      let s := s.modPart p (fun q =>
        { q with watches := tput {} q.watches i { w with ctl := len * 2 ^ 32 + fld n 2 0, armed := false } })
      s.recallRange w.base len)

/-- WATCHPOINT_ARMED (R344). -/
def execWatchpointArmed (p i : Nat) (s : State) : Host.Outcome State Fault Refusal :=
  let w := tget {} (s.part p).watches i
  .next (if bit w.ctl 0 then s.modPart p (fun q => { q with watches := tput {} q.watches i { w with armed := true } }) else s)

/-! The debug policy (R370 to R374). -/

/-! fdb under DBG (R26, R373). No row of the opcode table stands for a breakpoint, or for an access of a register or of memory: a turn of the
agenda makes them, and each does nothing and answers nothing while DBG is closed (log 101). -/

/-- fdb sets or removes a breakpoint at a bundle of a launch: for all its strands, or for one gang's or one SID's (R355, R359). -/
def State.fdbBreak (s : State) (p lid pos : Nat) (gang strand : Option Nat) (on : Bool) : State :=
  if !bit (s.part p).polOpen 0 then s
  else s.modPart p (fun q =>
    { q with breaks := q.breaks.filter (· != (lid, pos, gang, strand)) ++ (if on then [(lid, pos, gang, strand)] else []) })

/-- A token's state as a number: EMPTY, ARMED, DONE, ERROR with its cause's code (R277). -/
def tokCode : Tok → Nat
  | .empty => 0 | .armed => 1 | .done => 2 | .error c => 3 + c.code * 2 ^ 8

/-- The state of the dump's header: RUN, FROZEN, BLOCKED, STOPPED (R26). -/
def Strand.fdbState (t : Strand) : Nat :=
  if t.stopped then 3 else match t.hold with | .run => 0 | .frozen _ => 1 | .blocked => 2

/-- fdb may look at a strand of the partition. -/
def State.fdbSees (s : State) (p c x : Nat) : Bool := bit (s.part p).polOpen 0 && (s.strand c x).part == p && (s.strand c x).resident

/-- fdb reads a register of a strand of the partition (R26). -/
def State.fdbReg (s : State) (p c x : Nat) (r : FdbReg) : Option Nat :=
  let t := s.strand c x
  if !s.fdbSees p c x then none
  else some (match r with
    | .g i => (tget 0 t.regs.g i).toNat
    | .s i => (tget 0 t.regs.s (t.regs.fb + i)).toNat
    | .v i => (tget 0 t.regs.v i).toNat
    | .m i => if i = 0 then 2 ^ 256 - 1 else (tget 0 t.regs.m i).toNat
    | .q i => (tget 0 t.regs.q i).toNat
    | .k i => tokCode (tget .empty t.regs.k i)
    | .cr n => (s.crOf c t n).toNat
    | .y i row col => ((s.core c).tile i row col).toNat
    | .pc => t.pc
    | .sclk => t.sclk
    | .state => t.fdbState
    | .depth => t.frames.length
    | .plat => t.underWay s.cy)

/-- fdb writes a register of a strand that it holds; m0, a control register that MTC cannot write, the position and what the header shows are
none. -/
def State.fdbSet (s : State) (p c x : Nat) (r : FdbReg) (v : Nat) : State :=
  let t := s.strand c x
  let regs (f : Regs → Regs) : State := s.setStrand c x { t with regs := f t.regs }
  if !s.fdbSees p c x ∨ !t.stopped then s
  else match r with
    | .g i => regs (fun r => { r with g := tput 0 r.g i (BitVec.ofNat 64 v) })
    | .s i => regs (fun r => { r with s := tput 0 r.s (r.fb + i) (BitVec.ofNat 64 v) })
    | .v i => regs (fun r => { r with v := tput 0 r.v i (BitVec.ofNat 2048 v) })
    | .m i => if i = 0 then s else regs (fun r => { r with m := tput 0 r.m i (BitVec.ofNat 256 v) })
    | .q i => regs (fun r => { r with q := tput 0 r.q i (BitVec.ofNat 512 v) })
    | .k i => regs (fun r => { r with k := tput .empty r.k i (match v % 4 with | 0 => .empty | 1 => .armed | 2 => .done | _ => .error .software) })
    | .cr n => if crWritable n ∧ mtcOk t n v then s.writeCr c x n (BitVec.ofNat 64 v) else s
    | .y i row col => s.modCore c (fun k => { k with tiles := tput 0 k.tiles (tileIx i row col) (BitVec.ofNat 32 v) })
    | .pc | .sclk | .state | .depth | .plat => s

/-- fdb reads a strand's memory: scratchpad of its core, or a VA through its walk; none where the access does not go through. -/
def State.fdbMem (s : State) (p c x n : Nat) : Loc → Option (State × List Byte × Bool)
  | .sp k a => if !s.fdbSees p c x ∨ (s.core k).owner ≠ some p then none
    else some (s.correct k a n, (s.core k).spBytes a n, (s.core k).spPoison a n)
  | .gl va => if !s.fdbSees p c x then none
    else match s.glRead { part := p, slot := p, core := c, ctx := x } va n 0 with
      | .ok s bs bad _ => some (s, bs, bad)
      | _ => none

/-- fdb writes a strand's memory. -/
def State.fdbPut (s : State) (p c x : Nat) (bs : List Byte) : Loc → Option State
  | .sp k a => if !s.fdbSees p c x ∨ (s.core k).owner ≠ some p then none
    else some (s.modCore k (·.spWrite a bs))
  | .gl va => if !s.fdbSees p c x then none
    else match s.glWrite { part := p, slot := p, core := c, ctx := x } va 0 bs with
      | .ok s .. => some s
      | _ => none

/-- An operation of fdb (R373). -/
def State.fdb (s : State) (p : Nat) (op : FdbOp) : State :=
  match op with
  | .break_ lid pos gang strand on => s.fdbBreak p lid pos gang strand on
  | .get c x r => s.reply (.fdbReg (s.fdbReg p c x r))
  | .set c x r v => s.fdbSet p c x r v
  | .read c x l n => (match s.fdbMem p c x n l with
    | some (s, bs, bad) => s.reply (.fdbMem (some (bs, bad)))
    | none => s.reply (.fdbMem none))
  | .write c x l bs => (s.fdbPut p c x bs l).getD s

/-- What closes when the OPEN bits change (R374): breakpoints go, strands that fdb holds resume, watchpoints are disabled. -/
def State.closeDebug (s : State) (p new : Nat) : State :=
  let free (t : Strand) : Strand := if t.part = p then { t with stopped := false } else t
  let s := if bit new 0 then s
    else (s.mapCores p (fun k => { k with strands := k.strands.map (fun x => (x.1, free x.2)) })).modPart p (fun q => { q with breaks := [] })
  if bit new 5 then s
  else s.modPart p (fun q =>
    { q with watches := q.watches.map (fun e => (e.1, { e.2 with ctl := e.2.ctl - fld e.2.ctl 0 0, armed := false })) })

/-- POL_CMD_LOAD (R372): a load that comes while one is checked is ignored. -/
def execPolCmdLoad (p : Nat) (s : State) : Host.Outcome State Fault Refusal :=
  .next (if (s.part p).polBusy then s else (s.modPart p (fun q => { q with polBusy := true })).irq p 2)

/-- The RESULT of a load (R372), with the blob's first half line. -/
def State.polCheck (s : State) (p : Nat) : State × Nat × Nat :=
  let q := s.part p
  match q.tdisp, q.policyKey with
  | .run, some key =>
    let (s, bs, bad) := s.paRead q.polAddr p 0x1C73
    let body := bs.take 64
    let h := bytesNat body
    let sig := (bs.drop 64).take 4627
    let pub := (bs.drop 0x1253).take 2592
    let res :=
      if bad ∨ Config.sha3 pub ≠ key ∨ !Config.mldsaVerify pub body sig then 2
      else if fld h 7 0 ≠ 1 ∨ fld h 13 8 ≠ p ∨ fld h 63 14 ≠ 0 ∨ fld h 511 201 ≠ 0 ∨ fld h 200 198 ≠ 0 then 5
      else if fld h 127 64 ≤ q.polCtr then 3
      else if fld h 191 128 ≤ s.time then 4
      else 1
    (s, res, h)
  | .run, none => (s, 6, 0)
  | _, _ => (s, 7, 0)

/-- POLICY_CHECK_DONE (R372, R374). -/
def execPolicyCheckDone (p : Nat) (s : State) : Host.Outcome State Fault Refusal :=
  .next (if !(s.part p).polBusy ∨ !s.paUp (s.part p).polAddr 0x1C73 then s
    else
      let (s, res, h) := s.polCheck p
      let s := s.modPart p (fun q => { q with polBusy := false, polRes := res })
      let s := if res ≠ 1 then s
        else
          (s.modPart p (fun q =>
            { q with polOpen := fld h 197 192, polCtr := fld h 127 64, polExp := fld h 191 128,
                     polBlob := some (Config.sha3 (natBytes 64 h)) })).closeDebug p (fld h 197 192)
      s.irq p 2)

/-- POLICY_EXPIRY (R374). -/
def execPolicyExpiry (p : Nat) (s : State) : Host.Outcome State Fault Refusal :=
  .next (if (s.part p).polBlob.isNone ∨ s.time < (s.part p).polExp then s
    else ((s.modPart p (fun q => { q with polOpen := 0, polExp := 0, polBlob := none })).closeDebug p 0).irq p 2)

end Sys2Proof.Machine
end

