-- ==== Sys2Proof/Machine/Remote.lean ====
section
/-! DEFINITION. REMOTE_ACCESS: an access that arrives from another package, checked against the domain window table and
performed at the home slice (R242). -/

namespace Sys2Proof.Machine

/-- Bytes a request names, and whether it writes. -/
def remoteSize : RemoteKind → Nat
  | .read n => n
  | .write bs => bs.length
  | .atom n .. => n

def remoteWrites : RemoteKind → Bool
  | .read _ => false
  | _ => true

/-- The window of a partition's table that grants a request (R242). -/
def State.grant (s : State) (node gid p pa : Nat) (k : RemoteKind) : Option DomWindow :=
  (tget [] s.windows p).find? (fun w =>
    w.node == node && w.gid == gid && (w.write || !remoteWrites k) && decide (w.base ≤ pa) && decide (pa + remoteSize k ≤ w.base + w.len))

/-- Whether a partition's window table grants a request (R242). -/
def State.granted (s : State) (node gid p pa : Nat) (k : RemoteKind) : Bool := (s.grant node gid p pa k).isSome

/-- Who the other package is at the home slice, under the window's key slot. -/
def remoteWho (node p slot : Nat) : Who := { part := p, slot := slot, core := 0, agent := 10, node := node, count := false }

/-- The home slices record the pieces of a request for the tenant's MIXCHECK (R316). -/
def State.remoteMix (s : State) (node pa : Nat) (k : RemoteKind) : State :=
  match k with
  | .write bs => (cut16 pa bs.length).foldl (fun s om => (s.mixPa false (remoteAgent node) (pa + om.1) om.2).1) s
  | _ => (s.mixPa false (remoteAgent node) pa (remoteSize k)).1

/-- The HBM place of a PA under a partition's key slot, with the region's mode from the placement map (R93, R241). -/
def State.hbmAt (s : State) (pa slot : Nat) : Phys :=
  let b := tget 0 s.pmap (pa / 2 ^ 30)
  .hbm pa slot (fld b 7 5) (fld b 3 0) false

/-- Reads `n` bytes at a PA, line by line; a PA past HBM reads as the reserved pages do. No VA goes with it, so none of a lease's range. -/
def State.homeRead (s : State) (w : Who) (pa n : Nat) : State × List Byte × Bool :=
  (lineSplit (n / 128 + 2) pa 0 n).foldl (fun r om =>
    let a := pa + om.1
    match r.1.physLine w (if isHbm a then r.1.hbmAt a w.slot else .reserved a) (2 ^ 64 + a) om.2 0 none with
    | .ok s bs bad _ => (s, r.2.1 ++ bs, r.2.2 || bad)
    | _ => r) (s, [], false)

/-- Writes bytes at a PA, line by line. -/
def State.homeWrite (s : State) (w : Who) (pa : Nat) (bs : List Byte) : State :=
  (lineSplit (bs.length / 128 + 2) pa 0 bs.length).foldl (fun s om =>
    let a := pa + om.1
    match s.physLine w (if isHbm a then s.hbmAt a w.slot else .reserved a) (2 ^ 64 + a) om.2 0 (some ((bs.drop om.1).take om.2)) with
    | .ok s .. => s
    | _ => s) s

/-- A request of another package can be served now (R387): its port and the stack of the frame are ready. Until then it waits, and the event
does nothing. -/
def State.serves (s : State) (node pa : Nat) (k : RemoteKind) : Bool := s.linkUp node && s.paUp pa (remoteSize k)

/-- REMOTE_ACCESS (R242, R96): with no window or the wrong rights nothing is performed; an ATOM on a poisoned half leaves
memory as it is. -/
def execRemoteAccess (node gid p pa : Nat) (k : RemoteKind) (s : State) : Host.Outcome State Fault Refusal :=
  .next (if !s.serves node pa k then s
    else match s.grant node gid p pa k with
    | none => s.reply (.remote [] false false)
    | some win =>
      let w := remoteWho node p win.slot
      let s := s.remoteMix node pa k
      match k with
      | .read n => let (s, bs, bad) := s.homeRead w pa n; s.reply (.remote bs true bad)
      | .write bs => (s.homeWrite w pa bs).reply (.remote [] true false)
      | .atom n op sgn v cmp =>
        let (s, bs, bad) := s.homeRead w pa n
        if bad then s.reply (.remote [] true true)
        else
          let nv := atomNew op sgn (8 * n) (bytesNat bs) v.toNat cmp.toNat
          (s.homeWrite w pa (natBytes n nv)).reply (.remote bs true false))

end Sys2Proof.Machine
end

