-- ==== Sys2Proof/Machine/Kryel.lean ====
section
/-! DEFINITION. The Kryel security processor: SPDM sessions and measurements (R365 to R367), the TDISP states (R368), IDE keys
(R369), and a partition's keys at its creation and destruction (R364). Response codes are those of SPDM (log 40). -/

namespace Sys2Proof.Machine

/-- SPDM, TDISP and IDE are served once KRYEL and HOST are ready (R387). -/
def State.kryelUp (s : State) : Bool := bit s.hk.ready 1 && bit s.hk.ready 0

/-- A request that is served, or not yet. -/
def State.spdm (s : State) (f : State → State) : Host.Outcome State Fault Refusal := .next (if s.kryelUp then f s else s)

/-- The SPDM ERROR InvalidRequest (R367). -/
def State.invalid (s : State) : State := s.reply (.spdm 0x7F [0x01])

/-- Bytes as words of 64 bytes, for a reply. -/
def words64 (bs : List Byte) : List (BitVec 512) :=
  (List.range (cdiv bs.length 64)).map (fun i => BitVec.ofNat 512 (bytesNat ((bs.drop (64 * i)).take 64)))

/-- A session opened through a function, or at an Amisia port. -/
def State.session (s : State) (f : FnRef) (id : Nat) : Option Session := s.kryel.sessions.find? (fun x => x.id == id && x.fn == f)

/-- A session of a function that FINISH has established. -/
def State.openSession (s : State) (f : FnRef) (id : Nat) : Bool := ((s.session f id).map (·.open_)).getD false

/-- Changes a session. -/
def State.modSession (s : State) (id : Nat) (f : Session → Session) : State :=
  { s with kryel := { s.kryel with sessions := s.kryel.sessions.map (fun x => if x.id = id then f x else x) } }

/-! SPDM requests (R366). -/

/-- GET_VERSION: SPDM 1.4. -/
def execGetVersion (_f : FnRef) (s : State) : Host.Outcome State Fault Refusal := s.spdm (·.reply (.spdm 0x04 [0x14]))

/-- What the responder supports (R366): the request, by the code of its answer (log 40). -/
def supported : List Nat := [0x04, 0x61, 0x63, 0x01, 0x02, 0x03, 0x60, 0x64, 0x65, 0x69, 0x68, 0x6C, 0x7E]

/-- GET_CAPABILITIES: the requests served, one certificate slot, up to 64 sessions. -/
def execGetCapabilities (_f : FnRef) (s : State) : Host.Outcome State Fault Refusal :=
  s.spdm (·.reply (.spdm 0x61 [BitVec.ofNat 512 (supported.foldl (fun n k => n + 2 ^ k) 0), 1, 64]))

/-- The algorithms of R366, each by the octets of its name: signature, hash, AEAD (log 40). -/
def algorithms : List (BitVec 512) :=
  ["ML-DSA-87", "SHA3-512", "AES-256-GCM"].map (fun n => BitVec.ofNat 512 (n.toList.foldl (fun a c => 256 * a + c.toNat) 0))

/-- NEGOTIATE_ALGORITHMS: ML-DSA-87, SHA3-512, AES-256-GCM. -/
def execNegotiateAlgorithms (_f : FnRef) (s : State) : Host.Outcome State Fault Refusal := s.spdm (·.reply (.spdm 0x63 algorithms))

/-- The device's certificate chain, rooted in Sanoter's key (log 8). -/
def State.chain (s : State) : BitVec 512 := Config.sha3 (natBytes 64 Config.fusedKeyHash.toNat ++ natBytes 64 (tget 0 s.kryel.meas 1).toNat)

/-- GET_DIGESTS: one certificate slot. -/
def execGetDigests (_f : FnRef) (s : State) : Host.Outcome State Fault Refusal := s.spdm (fun s => s.reply (.spdm 0x01 [s.chain]))

/-- GET_CERTIFICATE. -/
def execGetCertificate (_f : FnRef) (s : State) : Host.Outcome State Fault Refusal := s.spdm (fun s => s.reply (.spdm 0x02 [s.chain]))

/-- CHALLENGE: a signature over the nonce. -/
def execChallenge (_f : FnRef) (nonce : BitVec 256) (s : State) : Host.Outcome State Fault Refusal :=
  s.spdm (·.reply (.spdm 0x03 (words64 (Config.mldsaSign (natBytes 32 nonce.toNat)))))

/-- A measurement as a session sees it (R365, R366): 7 and 8 only through the partition's own VF. -/
def State.measurement (s : State) (f : FnRef) (sess : Option Nat) (i : Nat) : BitVec 512 :=
  if i = 6 then bootStatus s.hk.fail
  else if i ≤ 5 then tget 0 s.kryel.meas i
  else match f, sess with
    | .vf p, some id => if !s.openSession f id then 0 else if i = 7 then (s.part p).config else ((s.part p).polBlob).getD 0
    | _, _ => 0

/-- GET_MEASUREMENTS (R366). -/
def execGetMeasurements (f : FnRef) (sess : Option Nat) (index : Nat) (s : State) : Host.Outcome State Fault Refusal :=
  s.spdm (fun s => if index = 0 ∨ 8 < index then s.invalid else s.reply (.spdm 0x60 [s.measurement f sess index]))

/-- KEY_EXCHANGE: up to 64 concurrent sessions. -/
def execKeyExchange (f : FnRef) (s : State) : Host.Outcome State Fault Refusal :=
  s.spdm (fun s =>
    let k := s.kryel
    if 64 ≤ k.sessions.length then s.invalid
    else
      let x : Session := { id := k.nextId, fn := f }
      ({ s with kryel := { k with sessions := k.sessions ++ [x], nextId := k.nextId + 1, draws := k.draws + 1 } } : State).reply
        (.spdm 0x64 [BitVec.ofNat 512 k.nextId, Config.randomKey k.draws]))

/-- FINISH: the session is established. -/
def execFinish (f : FnRef) (sess : Nat) (s : State) : Host.Outcome State Fault Refusal :=
  s.spdm (fun s => if (s.session f sess).isSome then (s.modSession sess (fun x => { x with open_ := true })).reply (.spdm 0x65 [])
    else s.invalid)

/-- KEY_UPDATE: the session goes on under its next keys. -/
def execKeyUpdate (f : FnRef) (sess : Nat) (s : State) : Host.Outcome State Fault Refusal :=
  s.spdm (fun s => if s.openSession f sess then (s.modSession sess (fun x => { x with key := x.key + 1 })).reply (.spdm 0x69 [])
    else s.invalid)

/-- HEARTBEAT. -/
def execHeartbeat (f : FnRef) (sess : Nat) (s : State) : Host.Outcome State Fault Refusal :=
  s.spdm (fun s => if s.openSession f sess then s.reply (.spdm 0x68 []) else s.invalid)

/-- END_SESSION. -/
def execEndSession (f : FnRef) (sess : Nat) (s : State) : Host.Outcome State Fault Refusal :=
  s.spdm (fun s => if s.openSession f sess then
      ({ s with kryel := { s.kryel with sessions := s.kryel.sessions.filter (fun x => x.id != sess) } } : State).reply (.spdm 0x6C [])
    else s.invalid)

/-- SET_POLICY_KEY (R367, R370): over a session of the VF, while it is CONFIG_LOCKED, once per lock. -/
def execSetPolicyKey (f : FnRef) (sess : Nat) (key : BitVec 512) (s : State) : Host.Outcome State Fault Refusal :=
  s.spdm (fun s => match f with
    | .pf | .port _ => s.invalid
    | .vf p =>
      if s.openSession f sess ∧ (s.part p).tdisp = .locked ∧ (s.part p).policyKey.isNone then
        (s.modPart p (fun q => { q with policyKey := some key })).reply (.spdm 0x7E [])
      else s.invalid)

/-- SET_MEAS_PERIOD (R367). -/
def execSetMeasPeriod (f : FnRef) (sess seconds : Nat) (s : State) : Host.Outcome State Fault Refusal :=
  s.spdm (fun s => match f with
    | .pf | .port _ => s.invalid
    | .vf p =>
      if s.openSession f sess ∧ ((s.part p).tdisp = .locked ∨ (s.part p).tdisp = .run) ∧ 1 ≤ seconds ∧ seconds ≤ 3600 then
        (s.modPart p (fun q => { q with measPeriod := seconds })).reply (.spdm 0x7E [])
      else s.invalid)

/-! TDISP (R368). -/

/-- Measurement 7 (R365): cluster list, key slot, VF, shared-cluster weights, SAVE.SLOTS. -/
def State.configOf (s : State) (p : Nat) : BitVec 512 :=
  let q := s.part p
  let ws := (List.range 64).map (fun cl => (((s.cluster cl).share.find? (fun e => e.1 == p)).map (·.2)).getD 0)
  Config.sha3 (natBytes 8 q.clusters ++ natBytes 1 p ++ natBytes 1 (p + 1) ++ ws.flatMap (natBytes 1) ++ natBytes 1 q.saveSlots)

/-- LOCK_INTERFACE (R368): the configuration is frozen, measurement 7 taken, and the policy key may be set anew. -/
def execLockInterface (p : Nat) (s : State) : Host.Outcome State Fault Refusal :=
  s.spdm (fun s => if (s.part p).tdisp = .unlocked then
      (s.modPart p (fun q => { q with config := s.configOf p, policyKey := none })).setTdisp p .locked
    else s)

/-- START_INTERFACE (R368). -/
def execStartInterface (p : Nat) (s : State) : Host.Outcome State Fault Refusal :=
  s.spdm (fun s => if (s.part p).tdisp = .locked then s.setTdisp p .run else s)

/-- STOP_INTERFACE (R368). -/
def execStopInterface (p : Nat) (s : State) : Host.Outcome State Fault Refusal :=
  s.spdm (fun s => if (s.part p).tdisp = .unlocked then s else s.setTdisp p .unlocked)

/-- FROZEN_CONFIG_WRITE (R368). -/
def execFrozenConfigWrite (p : Nat) (s : State) : Host.Outcome State Fault Refusal := .next (s.frozenWrite p)

/-- IDE_INTEGRITY_FAIL (R368, R369): the TLP is dropped, and a VF, which has a stream in RUN, moves to ERROR. -/
def execIdeIntegrityFail (f : FnRef) (s : State) : Host.Outcome State Fault Refusal :=
  .next (match f with
    | .pf | .port _ => s
    | .vf p => if (s.part p).tdisp = .run then s.toError p else s)

/-- A message of an SPDM session fails its integrity at the DOE mailbox (R368): it is dropped, and a VF whose session it is moves to ERROR.
No row of the opcode table stands for it: a turn of the agenda makes it (log 102). -/
def State.doeFail (s : State) (f : FnRef) (sess : Nat) : State :=
  match f with
  | .pf | .port _ => s
  | .vf p => if s.openSession f sess ∧ (s.part p).tdisp ≠ .error then s.toError p else s

/-- IDE_KM (R369): the keys of a stream, over the session of its function. -/
def execIdeKm (f : FnRef) (sess : Nat) (key : BitVec 256) (s : State) : Host.Outcome State Fault Refusal :=
  s.spdm (fun s => if !s.openSession f sess then s.invalid
    else match f with
      | .port _ => s.invalid
      | .pf => ({ s with kryel := { s.kryel with pfKey := some key } } : State).reply (.spdm 0x7E [])
      | .vf p => (s.modPart p (fun q => { q with ideKey := some key })).reply (.spdm 0x7E []))

/-! Partitions (R364). -/

/-- The partition with the lowest number that ASSIGN gives a cluster. -/
def State.assignee (s : State) (cl : Nat) : Option Nat := (List.range 48).find? (fun q => bit (s.part q).clusters cl)

/-- TDISP.STATE or POL.STAT stands at another value than its reset value: going back to it is a change that vector 2 reports (R375). -/
def Part.shown (q : Part) : Bool := decide (q.tdisp ≠ .unlocked) || decide (q.polStat ≠ 0)

/-- PARTITION_CREATION (R364, R367): new keys for the slot, and the registers of its page at their reset values; the clusters that
ASSIGN gave it (R363) stay its own. -/
def execPartitionCreation (p : Nat) (s : State) : Host.Outcome State Fault Refusal :=
  .next (if (s.part p).created ∨ 47 < p then s
    else
      let told := (s.part p).shown
      let s := (s.dropKeys p).setPart p { created := true, clusters := (s.part p).clusters }
      if told then s.irq p 2 else s)

/-- PARTITION_DESTRUCTION (R364): its launches end, its keys are erased, and what it held is free. -/
def execPartitionDestruction (p : Nat) (s : State) : Host.Outcome State Fault Refusal :=
  .next (if !(s.part p).created then s
    else
      let s := (s.part p).live.foldl (fun s lid => s.abortLaunch p lid 0x3F) s
      let s := s.cores.foldl (fun s e => e.2.stash.foldl (fun s w =>
        if w.2.mapped ∧ w.2.part = p then s.stashUnmap e.1 w.1 else s) s) s
      let s := s.leases.foldl (fun s e => match e.2 with
        | some x => if x.part = p then s.endLease e.1 else s
        | none => s) s
      let clear (k : Core) : Core :=
        { k with strands := k.strands.filter (fun x => x.2.part != p),
                 active := k.active.bind (fun x => if (k.strand x).part = p then none else some x) }
      let s : State :=
        { s with cores := s.cores.map (fun e => (e.1, clear (e.2.cancel (fun m => m.part == p)))),
                 flights := s.flights.filter (fun f => f.part != p),
                 windows := tput [] s.windows p [] }
      let told := (s.part p).shown
      let s := (s.dropKeys p).setPart p {}
      let s := if told then s.irq p 2 else s
      -- its clusters go to another partition they are assigned to, and it leaves every sharing list (R297)
      let leave (cl : Nat) (k : Cluster) : Cluster :=
        let share := k.share.filter (fun e => e.1 != p)
        let k : Cluster := { k with share := if share.length < 2 then [] else share }
        if k.part == some p then { k with part := s.assignee cl, bars := [], holder := (s.assignee cl).map (fun q => (q, s.cy)) } else k
      { s with clusters := s.clusters.map (fun e => (e.1, leave e.1 e.2)) })

end Sys2Proof.Machine
end

