-- ==== Sys2Proof/Machine/Window.lean ====
section
/-! DEFINITION. The device window of the host link (R375, R376): reads, writes and AtomicOps of BAR2; and receive DMA of the
Ethernet ports (R288). -/

namespace Sys2Proof.Machine

/-- The slot, also the tables, that a function's window uses (R369, R376). -/
def winSlot : FnRef → Nat
  | .pf | .port _ => 49
  | .vf p => p

/-- The host as an agent: no permission check, no A, no D (R376). -/
def hostWho (p : Nat) : Who := { part := p, slot := p, core := 0, agent := 8, own := false, count := false }

/-- What a window access meets at a VA: a place, nothing (all ones, discarded), or a wait. -/
inductive WinAt where
  | at_ (s : State) (ph : Phys)
  | none_ (s : State)
  | wait
  deriving DecidableEq, Repr

/-- A window access to a page without a valid mapping (R103): a record with AGENT 8 in the fault unit whose table the window uses; the
access itself is over. -/
def State.winFault (s : State) (f : FnRef) (va kind lvl : Nat) (u : Use) : State :=
  let r : FaultRec :=
    { va := va, kind := kind, rwx := (match u with | .r => 1 | .w => 2 | .rw => 3 | .x => 4), level := lvl, agent := 8, core := 0, strand := 0,
      gidx := 0, cls := 15, sc := .system, pc := 0, handle := 0, cursor := 0, time := 0 }
  (s.postFault (winSlot f) r).1

/-- The level of the leaf that maps a VA. -/
def State.leafLevel (s : State) (p va : Nat) : Nat :=
  match walkGo s p (va % 2 ^ 57) 3 (s.part p).fu.ptbase with
  | .leaf _ lvl _ => lvl
  | _ => 0

/-- Translates a window access (R101, R103, R376). The PF's window is refused for frames of slots 0 to 47 as for a page that has no valid
mapping (R369). -/
def State.winAt (s : State) (f : FnRef) (va : Nat) (u : Use) : WinAt :=
  let p := winSlot f
  match s.translate p p va u false with
  | (s, .ok (.host _)) => .none_ s
  | (s, .ok (.hbm pa slot pl pln ce)) =>
    (match f with
     | .pf => if slot ≤ 47 then .none_ (s.winFault f va 0 (s.leafLevel p va) u) else .at_ s (.hbm pa slot pl pln ce)
     | .vf _ => .at_ s (.hbm pa slot pl pln ce)
     | .port _ => .none_ s)
  | (s, .ok ph) => .at_ s ph
  | (s, .cause _) => .none_ s
  | (_, .wait _) => .wait
  | (s, .fault k lvl) => .none_ (s.winFault f va k lvl u)

/-- Reads from HBM behind the L2 (R317): the bytes, and whether a half they touch is poisoned, as all of a failed stack are (R387). -/
def State.behindRead (s : State) (pa slot pl pln n : Nat) : State × List Byte × Bool :=
  let stack := (home pa pl pln).2.1
  let r := ((List.range (n / 64 + 2)).map (fun i => pa / 64 + i) |>.filter (fun h => decide (64 * h < pa + n))).foldl
    (fun (r : State × Bool) h => let (s, bad) := r.1.readHalf h slot stack; (s, r.2 || bad)) (s, s.stackFailed stack)
  (r.1, (List.range n).map (fun i => r.1.hbmSeen slot (pa + i)), r.2)

/-- What the transmit DMA of a scale-out Ethernet port reads (R317): HBM behind the L2. No row of the opcode table stands for it, and it
leaves nothing in the machine but what any read of HBM leaves (log 92). -/
def State.transmit (s : State) (slot pa n : Nat) : State × List Byte × Bool :=
  let b := tget 0 s.pmap (pa / 2 ^ 30)
  s.behindRead pa slot (fld b 7 5) (fld b 3 0) n

/-- The home slices record the pieces of a window access for the tenant's MIXCHECK (R305, R316); what goes behind the L2 meets none. -/
def State.hostMix (s : State) (f : FnRef) (ph : Phys) (n : Nat) : State :=
  match ph with
  | .hbm pa .. => (cut16 pa n).foldl (fun s om => (s.mixPa false (hostAgent (winSlot f)) (pa + om.1) om.2).1) s
  | _ => s

/-- One 64-byte half of a window read (R376): a poisoned one reads all ones, with EP: the state, its bytes, whether EP is set; none while it waits. -/
def State.winReadLine (s : State) (f : FnRef) (va n : Nat) (noSnoop : Bool) : Option (State × List Byte × Bool) :=
  let ones := List.replicate n (0xFF : Byte)
  match s.winAt f va .r with
  | .wait => none
  | .none_ s => some (s, ones, false)
  | .at_ s ph =>
    match ph, noSnoop with
    | .hbm pa slot pl pln _, true =>
      let (s, bs, bad) := s.behindRead pa slot pl pln n
      some (s, if bad then ones else bs, bad)
    | _, _ =>
      match (s.hostMix f ph n).physLine (hostWho (winSlot f)) ph va n 0 none with
      | .ok s bs bad _ => some (s, if bad then ones else bs, bad)
      | .cause s .. => some (s, ones, false)
      | .fault s .. => some (s, ones, false)
      | .wait .. => none

/-- One line of a window write. -/
def State.winWriteLine (s : State) (f : FnRef) (va : Nat) (bs : List Byte) (noSnoop : Bool) : Option State :=
  match s.winAt f va .w with
  | .wait => none
  | .none_ s => some s
  | .at_ s ph =>
    match ph, noSnoop with
    | .hbm pa slot _ _ _, true => some (s.behindWrite pa slot bs)
    | _, _ =>
      match (s.hostMix f ph bs.length).physLine (hostWho (winSlot f)) ph va bs.length 0 (some bs) with
      | .ok s .. => some s
      | .cause s .. => some s
      | .fault s .. => some s
      | .wait .. => none

/-- The VA of a window offset (R376). -/
def State.winVa (s : State) (f : FnRef) (off : Nat) : Nat := (s.part (winSlot f)).winBase + off

/-- The pieces of a range that lie in one 64-byte half each: offset and length. -/
def halfSplit (a n : Nat) : List (Nat × Nat) :=
  (List.range (n / 64 + 2)).filterMap (fun i =>
    let lo := max a ((a / 64 + i) * 64)
    let hi := min (a + n) ((a / 64 + i + 1) * 64)
    if hi ≤ lo then none else some (lo - a, hi - lo))

/-- A read of the window: its reply; none while a page is copied or a stack is not ready (R101, R387). -/
def State.winRead (s : State) (f : FnRef) (va n : Nat) (noSnoop : Bool) : Option State :=
  ((halfSplit va n).foldl (fun (r : Option (State × List Byte × Bool)) om =>
      r.bind (fun a => (a.1.winReadLine f (va + om.1) om.2 noSnoop).map (fun b => (b.1, a.2.1 ++ b.2.1, a.2.2 || b.2.2)))) (some (s, [], false))).map
    (fun a => a.1.reply (.read a.2.1 a.2.2))

/-- A write of the window. -/
def State.winWrite (s : State) (f : FnRef) (va : Nat) (bytes : List Byte) (noSnoop : Bool) : Option State :=
  (lineSplit (bytes.length / 128 + 2) va 0 bytes.length).foldl (fun (r : Option State) om =>
    r.bind (fun s => s.winWriteLine f (va + om.1) ((bytes.drop om.1).take om.2) noSnoop)) (some s)

/-- The new value of an AtomicOp: FetchAdd adds `a`, Swap stores `a`, CAS stores `b` where the old value is `a` (R375). -/
def pcieNew (op : PcieAtomic) (w old a b : Nat) : Nat :=
  match op with
  | .fetchAdd => (old + a) % 2 ^ w
  | .swap => a % 2 ^ w
  | .cas => if old = a % 2 ^ w then b % 2 ^ w else old

/-- An AtomicOp of the window: one RMW event; a poisoned half is left as it is (R96). -/
def State.winAtomic (s : State) (f : FnRef) (va n : Nat) (op : PcieAtomic) (a b : Word) : Option State :=
  let ones := List.replicate n (0xFF : Byte)
  match s.winAt f va .rw with
  | .wait => none
  | .none_ s => some (s.reply (.read ones false))
  | .at_ s ph =>
    match (s.hostMix f ph n).physLine (hostWho (winSlot f)) ph va n 0 none with
    | .ok s bs bad _ =>
      if bad then some (s.reply (.read ones true))
      else
        (match s.physLine (hostWho (winSlot f)) ph va n 0 (some (natBytes n (pcieNew op (8 * n) (bytesNat bs) a.toNat b.toNat))) with
         | .ok s .. => some (s.reply (.read bs false))
         | .cause s .. => some (s.reply (.read ones false))
         | .fault s .. => some (s.reply (.read ones false))
         | .wait .. => none)
    | .cause s .. => some (s.reply (.read ones false))
    | .fault s .. => some (s.reply (.read ones false))
    | .wait .. => none

/-- A posted write of a function: of its window, or of its registers. -/
def WinReq.writes (r : WinReq) : Bool := match r.op with | .write .. | .reg _ => true | _ => false

/-- Performs a window request, if it can be performed now. A register write is the turn's own (State.dueReg). -/
def State.winDo (s : State) (r : WinReq) : Option State :=
  let va := r.va.getD (s.winVa r.fn r.off)
  match r.op with
  | .reg _ => none
  | .read n ns => s.winRead r.fn va n ns
  | .write bs ns => s.winWrite r.fn va bs ns
  | .atomic n op a b => s.winAtomic r.fn va n op a b

/-- Performs what can be performed of a list of requests: no request of a function passes an earlier posted write of it, and its VA is that of
the WIN.BASE that stands then (R376). -/
def State.winGo : List WinReq → List WinReq → State → State
  | [], kept, s => { s with win := kept }
  | r :: rest, kept, s =>
    if kept.any (fun x => x.fn == r.fn && x.writes) then winGo rest (kept ++ [r]) s
    else
      let r := { r with va := some (r.va.getD (s.winVa r.fn r.off)) }
      match s.winDo r with
      | some s => winGo rest kept s
      | none => winGo rest (kept ++ [r]) s

/-- Tries the window requests that wait. -/
def State.winAgain (s : State) : State := State.winGo s.win [] { s with win := [] }

/-- A window request arrives, after those that wait. -/
def State.window (s : State) (r : WinReq) : State := ({ s with win := s.win ++ [r] } : State).winAgain

/-- The first register write that no earlier posted write of its function holds back, with its place among the requests that wait. -/
def State.dueReg (s : State) : Option (Nat × Instr) :=
  (List.range s.win.length).findSome? (fun j => (s.win[j]?).bind (fun r => match r.op with
    | .reg i => if (s.win.take j).any (fun x => x.fn == r.fn && x.writes) then none else some (j, i)
    | _ => none))

/-- WINDOW_READ (R376): it waits while its page or its stack is not ready (R102, R387), and for the function's posted writes. -/
def execWindowRead (f : FnRef) (off n : Nat) (noSnoop : Bool) (s : State) : Host.Outcome State Fault Refusal :=
  .next (s.window { fn := f, off := off, op := .read n noSnoop })

/-- WINDOW_WRITE (R376): posted; with No Snoop it goes behind the L2 (R288). -/
def execWindowWrite (f : FnRef) (off : Nat) (bytes : List Byte) (noSnoop : Bool) (s : State) : Host.Outcome State Fault Refusal :=
  .next (s.window { fn := f, off := off, op := .write bytes noSnoop })

/-- WINDOW_ATOMIC (R375, R376). -/
def execWindowAtomic (f : FnRef) (off n : Nat) (op : PcieAtomic) (a b : Word) (s : State) : Host.Outcome State Fault Refusal :=
  .next (s.window { fn := f, off := off, op := .atomic n op a b })

/-- RECEIVE_DMA (R288): arriving data go into HBM behind the L2, under the slot of their frame, once the ports and the
stack are ready (R387). -/
def execReceiveDma (slot pa : Nat) (bytes : List Byte) (s : State) : Host.Outcome State Fault Refusal :=
  .next (if pa + bytes.length ≤ hbmEnd ∧ bit s.hk.ready 24 ∧ s.paUp pa bytes.length then s.behindWrite pa slot bytes else s)

end Sys2Proof.Machine
end

