-- ==== Sys2Proof/Machine/Keeper.lean ====
section
/-! DEFINITION. The housekeeping processor (R386 to R394): readiness, sensors and limits, mailbox commands, firmware, its log,
and the reset of the package (R365). -/

namespace Sys2Proof.Machine

/-! Mailbox commands (R390). -/

/-- A command of HK.CMD: ignored while BUSY is 1 or the processor is not ready; else its effect, with the status it ends with. -/
def State.hkCmd (s : State) (f : State → State × Nat) : Host.Outcome State Fault Refusal :=
  .next (if s.hk.busy ∨ !bit s.hk.ready 2 then s
    else
      let (s, st) := f s
      { s with hk := { s.hk with busy := true, status := 1, result := st } })

/-- A command that reads `n` bytes of main memory at a PA: it is BUSY until their stack is ready (R387). -/
def State.hkRead (s : State) (cmd pa n : Nat) (f : State → State × Nat) : Host.Outcome State Fault Refusal :=
  if s.paUp pa n then s.hkCmd f
  else .next (if s.hk.busy ∨ !bit s.hk.ready 2 then s else { s with hk := { s.hk with busy := true, status := 1, pend := some cmd } })

/-- SET_NODE (R241, R390): LOCKED once any partition is in RUN. -/
def execSetNode (s : State) : Host.Outcome State Fault Refusal :=
  s.hkCmd (fun s => if s.parts.any (fun e => e.2.tdisp == .run) then (s, 2) else ({ s with node := fld s.hk.arg0.toNat 13 0 }, 0))

/-- A byte of the placement map that R92 gives a meaning. -/
def mapByteOk (b : Nat) : Bool :=
  !bit b 4 && (match fld b 7 5 with
    | 0 => true
    | 1 => decide (fld b 3 0 ≤ 3)
    | 2 => decide (fld b 3 0 ≤ 11)
    | _ => false)

/-- 16 KiB blocks of region `r` whose PA[33:14] is `j` mod 3 (R93). -/
def blocksOf (r j : Nat) : Nat :=
  let a := r % 16 * 65536
  (a + 65536 + 2 - j) / 3 - (a + 2 - j) / 3

/-- 4 KiB granules of region `r` under map byte `b` that are homed on a stack (R92, R93). -/
def granulesOn (r b stack : Nat) : Nat :=
  match fld b 7 5 with
  | 0 => blocksOf r (stack % 3)
  | 1 => if fld b 3 0 = stack / 3 then 4 * blocksOf r (stack % 3) else 0
  | _ => if fld b 3 0 = stack then 4 * 65536 else 0

/-- The regions that a valid leaf of a partition, or of the PF's table, points into (R92). -/
def State.mapped (s : State) (p : Nat) : List Nat :=
  ((s.leaves p).filterMap (fun e => if pePl e.2.1 < 3 then some (peFrame e.2.1 / 16384) else none)).eraseDups

/-- The effect of WRITE_MAP, with its status (R92). A map that reads poisoned is refused with BAD_ARG: the model's choice (log 121). -/
def State.writeMap (s : State) : State × Nat :=
  let (s, bs, bad) := s.paRead s.hk.arg0.toNat 49 576
  let m := (List.range 576).map (fun r => (lget 0 bs r).toNat)
  if bad ∨ !m.all mapByteOk then (s, 6)
  else if (List.range 12).any (fun k => decide (48 * 2 ^ 18 < ((List.range 576).map (fun r => granulesOn r (lget 0 m r) k)).sum)) then (s, 3)
  else
    let changed := (List.range 576).filter (fun r => tget 0 s.pmap r != lget 0 m r)
    let maps := if changed.isEmpty then [] else s.parts.map (fun q => (q.1, s.mapped q.1))
    let s : State := { s with pmap := (List.range 576).foldl (fun t r => tput 0 t r (lget 0 m r)) [] }
    (changed.foldl (fun s r =>
      let ps := (maps.filter (fun e => e.2.contains r)).map (·.1)
      if ps = [] then s else (List.range 256).foldl (fun s i => s.loseTo ps (256 * r + i)) s) s, 0)

/-- WRITE_MAP (R92, R390): refused where a stack would hold more than 48 GiB. The contents of a region that a valid page entry points
into become undefined when its entry changes, for the partitions whose entries do (log 77). -/
def execWriteMap (s : State) : Host.Outcome State Fault Refusal := s.hkRead 2 s.hk.arg0.toNat 576 State.writeMap

/-- ASSIGN (R363, R390): LOCKED unless the VF is CONFIG_UNLOCKED. A cluster belongs to the first partition it is assigned to, until
it is shared. One that takes a shared cluster from the sharer which holds it leaves the list and the slice as they are and gives the cluster to
the lowest assignee, on the list or not: the model's choice, since R297 and R390 do not say (log 52). An empty mask is refused with BAD_ARG
(log 121). -/
def execAssign (s : State) : Host.Outcome State Fault Refusal :=
  s.hkCmd (fun s =>
    let p := fld s.hk.arg0.toNat 5 0
    let mask := s.hk.arg1.toNat
    if p ≤ 47 ∧ (s.part p).tdisp ≠ .unlocked then (s, 2)
    else if 47 < p ∨ mask = 0 then (s, 6)
    else
      let s := s.modPart p (fun q => { q with clusters := mask })
      ((List.range 64).foldl (fun s cl => s.modCluster cl (fun k =>
        if bit mask cl then { k with part := k.part.or (some p) }
        else if k.part = some p then { k with part := s.assignee cl } else k)) s, 0))

/-- The valid entries of SHARE's list: partition and weight (R390). -/
def shareList (w : Nat) : List (Nat × Nat) :=
  (List.range 4).filterMap (fun i => let e := w / 2 ^ (16 * i) % 65536; if bit e 15 then some (fld e 13 8, fld e 7 0) else none)

/-- SHARE (R297, R390): the first share begins now, that of the partition which has the cluster if it is on the list, else of the list's
first; without a list the cluster is its first assignee's (log 52). -/
def execShare (s : State) : Host.Outcome State Fault Refusal :=
  s.hkCmd (fun s =>
    let cl := fld s.hk.arg0.toNat 5 0
    let slice := fld s.hk.arg0.toNat 63 32
    let l := shareList s.hk.arg1.toNat
    let k := s.cluster cl
    if (l ++ k.share).any (fun e => (s.part e.1).tdisp != .unlocked) then (s, 2)
    else if l.any (fun e => e.2 == 0 || !bit (s.part e.1).clusters cl) ∨ (l.map (·.1)).eraseDups.length ≠ l.length then (s, 6)
    else
      let first := if l.length < 2 then s.assignee cl else (k.part.filter (fun p => l.any (fun e => e.1 == p))).or (l.head?.map (·.1))
      (s.modCluster cl (fun k =>
        { k with share := if l.length < 2 then [] else l, slice := if slice = 0 then 2000000 else slice, part := first,
                 holder := first.map (fun p => (p, s.cy)) }), 0))

/-- SET_SCRUB (R97, R390). -/
def execSetScrub (s : State) : Host.Outcome State Fault Refusal :=
  s.hkCmd (fun s =>
    let k := fld s.hk.arg0.toNat 3 0
    let h := fld s.hk.arg1.toNat 7 0
    let put (t : Tbl Scrub) (i : Nat) : Tbl Scrub := tput {} t i { tget {} t i with period := h }
    if h = 0 ∨ 168 < h ∨ (11 < k ∧ k ≠ 15) then (s, 6)
    else ({ s with scrub := if k = 15 then (List.range 12).foldl put s.scrub else put s.scrub k }, 0))

/-- CHECKPOINT (R392). -/
def execCheckpoint (s : State) : Host.Outcome State Fault Refusal := s.hkCmd (fun s => (s.hkLog 1 0 0, 0))

/-! Firmware (R365, R391). -/

/-- The bytes of the firmware image at ARG1, as FW_STAGE reads it under the driver's slot (log 8). -/
def State.fwImage (s : State) : State × List Byte × Bool :=
  let a := s.hk.arg1.toNat % 2 ^ 50
  let (s, hd, _) := s.paRead a 49 64
  s.paRead a 49 (Config.fwLen hd % 2 ^ 26)

/-- The effect of FW_STAGE, with its status (R391): BAD_SIG also for an image that reads poisoned (log 8). -/
def State.fwStage (s : State) : State × Nat :=
  let k := fld s.hk.arg0.toNat 1 0
  let f := tget {} s.hk.fw k
  if k = 0 then (s, 6)
  else
    let (s, bs, bad) := s.fwImage
    let x := (Config.fwVersion bs, Config.sha3 bs)
    if bad ∨ !Config.imageSigned Config.fusedKeyHash x.2 then (s, 4)
    else if x.1 < f.fuse then (s, 5)
    else
      let s : State := { s with hk := { s.hk with fw := tput {} s.hk.fw k (f.stage x) } }
      (s.hkLog 4 (0x200 + k) 0, 0)

/-- Bytes of the image that FW_STAGE reads now: its header until that can be read, then all of it (R387). -/
def State.fwSize (s : State) : Nat :=
  let a := s.hk.arg1.toNat % 2 ^ 50
  if s.paUp a 64 then max 64 (Config.fwLen (s.paRead a 49 64).2.1 % 2 ^ 26) else 64

/-- FW_STAGE (R391): a passing image is pending in the inactive bank. It waits for every stack on which the image lies (R387). -/
def execFwStage (s : State) : Host.Outcome State Fault Refusal := s.hkRead 4 (s.hk.arg1.toNat % 2 ^ 50) s.fwSize State.fwStage

/-- FW_COMMIT (R391): fuses rise to the running image's version; a bank that is still pending cannot be committed. Image 0,
which R391 does not name, is refused with BAD_ARG: the model's choice (log 121). -/
def execFwCommit (s : State) : Host.Outcome State Fault Refusal :=
  s.hkCmd (fun s =>
    let k := fld s.hk.arg0.toNat 1 0
    let f := tget {} s.hk.fw k
    if k = 0 ∨ f.pend = some f.cur then (s, 6)
    else
      let s : State := { s with hk := { s.hk with fw := tput {} s.hk.fw k { f with fuse := max f.fuse (f.img f.cur).1 } } }
      (s.hkLog 4 (0x200 + k) 0, 0))

/-- HK_COMMAND_COMPLETE (R390): a command that waits for its stack has its effect first. -/
def execHkCommandComplete (s : State) : Host.Outcome State Fault Refusal :=
  let done (s : State) (st : Nat) : State := { s with hk := { s.hk with busy := false, status := st, pend := none } }
  .next (if !s.hk.busy then s
    else match s.hk.pend with
      | none => done s s.hk.result
      | some 2 => if s.paUp s.hk.arg0.toNat 576 then (let (s, st) := s.writeMap; done s st) else s
      | some _ => if s.paUp (s.hk.arg1.toNat % 2 ^ 50) s.fwSize then (let (s, st) := s.fwStage; done s st) else s)

/-- PACKAGE_RESET (R365, R391): every register at its reset value, the firmware checked, measured and booted. Fuses and banks
persist, and no key of before is made again. -/
def execPackageReset (s : State) : Host.Outcome State Fault Refusal :=
  let fw := bootAll s.hk.fw
  .next { State.reset with
    free := s.free, agenda := s.agenda,
    hk := { fw := fw, fail := bootFail fw, chain := measure (fwOf fw 1).image },
    kryel := { meas := bootMeas fw, gens := s.kryel.gens, draws := s.kryel.draws } }

/-- FUNCTION_READY (R386, R387): a function with its FAIL bit set is not made ready before the next reset, nor one whose firmware does not
run (R365); a boot that fell back to the other bank succeeds here, which clears FAIL (R391). What waited for a stack goes on. -/
def execFunctionReady (b : Nat) (s : State) : Host.Outcome State Fault Refusal :=
  let own := decide (1 ≤ b) && decide (b ≤ 3)
  let back := own && (fwOf s.hk.fw b).fell
  .next (if 26 ≤ b ∨ (bit s.hk.fail b ∧ !back) ∨ (own ∧ !runs s.hk.fw b) then s
    else
      let h := s.hk
      let s : State := { s with hk := { h with ready := h.ready ||| 2 ^ b, fail := h.fail - (if bit h.fail b then 2 ^ b else 0),
                                               fw := if own then tput {} h.fw b ((fwOf h.fw b).keep) else h.fw } }
      (s.hkLog 7 (0x200 + b) 0).thaw)

/-- FUNCTION_FAILED_CHECK (R386). -/
def execFunctionFailedCheck (b : Nat) (s : State) : Host.Outcome State Fault Refusal :=
  .next (if 26 ≤ b then s
    else (({ s with hk := { s.hk with fail := s.hk.fail ||| 2 ^ b } } : State).hkLog 7 (0x200 + b) 1).thaw)

/-! Log (R392). -/

/-- LOG_TAIL_WRITE (R392): space frees, and a LOSS record follows a drop. -/
def execLogTailWrite (v : Word) (s : State) : Host.Outcome State Fault Refusal :=
  let n := v.toNat
  .next (if s.hk.logTail ≤ n ∧ n ≤ s.hk.logHead then ({ s with hk := { s.hk with logTail := n } } : State).hkSpace else s)

/-! Sensors and limits (R388, R389). -/

/-- A sensor word (R388). -/
def sensorWord (x : Sensor) : Word := BitVec.ofNat 64 (x.curr % 65536 * 2 ^ 32 + x.volt % 65536 * 65536 + wrap 16 x.temp)

/-- Where a sensor's word stands: word index from 0x1000. -/
def sensorAt (x : Sensor) : Nat := if x.isStack then 64 + x.index else x.index

/-- The temperature a word holds, in sixteenths of a degree. -/
def tempOf (w : Word) : Int := sext 16 w.toNat

/-- A limit with its two bounds: set at or above one, lifted below the other. -/
def limit (now : Bool) (hot cool : Bool) : Bool := hot || (now && !cool)

/-- The sensor log record of a crossing (R389, R392). -/
def State.thermal (s : State) (src data : Nat) (crossed : Bool) : State := if crossed then s.hkLog 3 src data else s

/-- The die's temperatures: its clusters'. -/
def Housekeeping.dieTemps (h : Housekeeping) (d : Nat) : List Int := (List.range 16).map (fun c => tempOf (tget 0 h.sensors (16 * d + c)))

/-- The hottest cluster of a die, for the log. -/
def Housekeeping.hottest (h : Housekeeping) (d : Nat) : Nat :=
  (List.range 16).foldl (fun b c => if tempOf (tget 0 h.sensors (16 * d + b)) < tempOf (tget 0 h.sensors (16 * d + c)) then c else b) 0

/-- A limit clears a ready bit, and remembers that it was set (R389). -/
def Housekeeping.hold (h : Housekeeping) (b : Nat) : Housekeeping :=
  if bit h.ready b then { h with ready := h.ready - 2 ^ b, cooling := h.cooling ||| 2 ^ b } else h

/-- A limit is lifted: a bit that it has cleared is set again, unless the function has failed since (R387, R389). -/
def Housekeeping.lift (h : Housekeeping) (b : Nat) : Housekeeping :=
  if bit h.cooling b then { h with cooling := h.cooling - 2 ^ b, ready := if bit h.fail b then h.ready else h.ready ||| 2 ^ b } else h

/-- The limits of a die (R389). -/
def State.dieLimit (s : State) (d : Nat) : State :=
  let h := s.hk
  let ts := h.dieTemps d
  let hot (t : Int) : Bool := ts.any (fun x => decide (t ≤ x))
  let slow := limit (tget false h.throttle d) (hot 1520) (!hot 1472)
  let stop := limit (tget false h.dieStop d) (hot 1680) (!hot 1440)
  let src := 16 * d + h.hottest d
  let s' : State := { s with hk := { h with throttle := tput false h.throttle d slow, dieStop := tput false h.dieStop d stop } }
  let s' := (s'.thermal src 0 (slow != tget false h.throttle d)).thermal src 1 (stop != tget false h.dieStop d)
  let cores (f : Core → Core) (s : State) : State := (List.range 64).foldl (fun s i => s.modCore (64 * d + i) f) s
  if stop then
    let s' := (List.range 16).foldl (fun s c => s.preempt (16 * d + c) 2) s'
    let s' : State := { s' with hk := s'.hk.hold (4 + d) }
    -- with no save slot free the die stops; a set that cannot be saved yet runs until it can
    let stuck := (List.range 16).any (fun c => s'.noSlot (16 * d + c))
    cores (fun k => { k with stopped := stuck }) s'
  else if tget false h.dieStop d then
    let s' := (List.range 16).foldl (fun s c => match s.setOn (16 * d + c) with | some (p, _, _) => s.undefer p (16 * d + c + 128) | none => s) s'
    cores (fun k => { k with stopped := false }) { s' with hk := s'.hk.lift (4 + d) }
  else s'

/-- The limits of a stack (R389). -/
def State.stackLimit (s : State) (k : Nat) : State :=
  let h := s.hk
  let t := tempOf (tget 0 h.sensors (64 + k))
  let fast := limit (tget false h.refresh2 k) (decide (1520 ≤ t)) (decide (t < 1472))
  let stop := limit (tget false h.stackStop k) (decide (1680 ≤ t)) (decide (t < 1440))
  let s' : State := { s with hk := { h with refresh2 := tput false h.refresh2 k fast, stackStop := tput false h.stackStop k stop } }
  let s' := (s'.thermal (0x100 + k) 0 (fast != tget false h.refresh2 k)).thermal (0x100 + k) 1 (stop != tget false h.stackStop k)
  if stop then { s' with hk := s'.hk.hold (8 + k) }
  else if tget false h.stackStop k then ({ s' with hk := s'.hk.lift (8 + k) } : State).thaw
  else s'

/-- SENSOR_REFRESH (R388, R389): the words, then the limits; the power is the package's, averaged over 10 ms, in watts. -/
def execSensorRefresh (readings : List Sensor) (packagePower : Nat) (s : State) : Host.Outcome State Fault Refusal :=
  let s : State := { s with hk := { s.hk with sensors := readings.foldl (fun t x => tput 0 t (sensorAt x) (sensorWord x)) s.hk.sensors } }
  let slow := decide (2800 < packagePower) || (s.hk.pkgThrottle && decide (packagePower = 2800))
  let crossed := slow != s.hk.pkgThrottle
  let s := ({ s with hk := { s.hk with pkgThrottle := slow } } : State).thermal (0x200 + 2) packagePower crossed
  let s := (List.range 4).foldl State.dieLimit s
  .next ((List.range 12).foldl State.stackLimit s)

/-- WEAR_RECOMPUTE (R394): dies 0 to 3, then stacks from 4; the reserved bits stay 0. -/
def execWearRecompute (words : List (Nat × Word)) (s : State) : Host.Outcome State Fault Refusal :=
  .next { s with hk := { s.hk with wear := words.foldl (fun t e => tput 0 t e.1 (e.2 &&& 0xFFFFFFFF0000FFFF#64)) s.hk.wear } }

end Sys2Proof.Machine
end

