-- ==== Sys2Proof/Machine/Link.lean ====
section
/-! DEFINITION. The link between packages (R243): what is under way on it, and the retry of a flit whose tag fails. -/

namespace Sys2Proof.Machine

/-- An access under way between packages: a strand's load or store, an engine's command, a contribution. -/
inductive Linked where
  | load (c x i va : Nat)
  | dict (c x va : Nat)
  | desc (c x va : Nat)
  | code (c x va : Nat)
  | trap (c x va : Nat)
  | saved (p j c : Nat) (m : Cmd) (va : Nat)
  | store (c x i : Nat)
  | cmd (c : Nat) (m : Cmd) (va : Nat)
  | sub (p lid ch step rank : Nat) (key : Option Sender)
  deriving DecidableEq, Repr

/-- Whether a VA of a partition lies in another package (R241). -/
def State.isRemote (s : State) (p va : Nat) : Bool :=
  match (s.translate p p va .r false).2 with
  | .ok (.remote ..) => true
  | _ => false

/-- A place of another package. -/
def State.farPlace (s : State) (p : Nat) (l : Loc) : Option Nat :=
  match l with
  | .gl va => if s.isRemote p va then some va else none
  | .sp .. => none

/-- The unit that an engine's command performs next. -/
def Cmd.nextPlaces (m : Cmd) (c : Nat) : List EPlace :=
  match m.kind with
  | .gath .. | .scat .. => (m.rowPlaces c m.cursor).map (·.1)
  | .copy _ | .copyRed .. | .trig .. => (m.sectorPlaces c).map (·.1)
  | .chSend _ | .chRed .. | .chFwd _ => (List.range (qCount m.ps.toNat)).map (elemPlace c m.ps.toNat (m.ds.map BitVec.toNat))
  | .chRecv .. => (chPlaces c m.pd.toNat (m.dd.map BitVec.toNat) .w ++ chPlaces c m.pd1.toNat (m.dd1.map BitVec.toNat) .w).map (·.1)
  | .chStat _ => (List.range (qCount m.pd.toNat)).map (elemPlace c m.pd.toNat (m.dd.map BitVec.toNat))
  | .drain .. =>
    (chPlaces c m.pd.toNat (m.dd.map BitVec.toNat) .w ++ (if gRes m.aux then chPlaces c m.ps1.toNat (m.ds1.map BitVec.toNat) .r else [])).map (·.1)
  | .tcon .. => (m.terms.drop m.cursor).take 16 |>.flatMap (fun x =>
      let (a, b) := termPlaces c m ((m.ds.map BitVec.toNat).getD 0) ((m.dd.map BitVec.toNat).getD 0) x
      [a, b])
  | .tgemm .. => (List.range (qCount m.ps1.toNat)).map (elemPlace c m.ps1.toNat (m.ds1.map BitVec.toNat))
  | _ => []

/-- The handle of the descriptor that a command of the matrix engine reads as it starts: of a window block, or of the residual that GLZ
enables; none where the engine's store holds it. -/
def State.startHandle (s : State) (c : Nat) (m : Cmd) : Option Nat :=
  let k := s.core c
  let h := match m.kind with
    | .drain .. =>
      if qKind m.ps1.toNat = 2 ∧ gRes (bytesNat (k.spBytes (blockAddr m.ps.toNat) 64)) then some (qHandle m.ps1.toNat) else none
    | .mmaW .. => some (winOf (bytesNat (k.spBytes (blockAddr m.ps1.toNat) 32))).handle
    | _ => none
  h.filter (fun h => (k.desc 2 m.part (s.strand c m.ctx).ctl.ttbase h).isNone)

/-- The place of another package that a command performs an access to next: of its unit, or of the descriptor it starts with. -/
def State.farCmd (s : State) (c : Nat) (m : Cmd) : Option Nat :=
  if m.phase = .active then (m.nextPlaces c).findSome? (fun p => if p.zero then none else s.farPlace m.part p.loc)
  else if (s.core c).kiln.head?.any (·.same m) then
    (s.startHandle c m).bind (fun h => s.farPlace m.part (.gl (((s.strand c m.ctx).ctl.ttbase + 64 * h) % 2 ^ 64)))
  else none

/-- The places that a load still to be performed reads: its pieces, the values of VLD.EXPAND, the next line of a lease's fill. -/
def LoadOp.places (l : LoadOp) : List Loc :=
  l.pieces.map (·.loc) ++ l.more.flatMap (fun a => [a.1, a.1.plus (a.2 - 1)]) ++
  (match l.kind with
   | .lease _ _ va _ _ true => [.gl va]
   | .fill _ _ _ va _ i => [.gl (va + 128 * i)]
   | _ => [])

/-- The VA at which a strand's code is fetched next, if it is to be fetched (R24, R335). -/
def State.fetchVa (s : State) (t : Strand) : Option Nat :=
  if t.resident && !t.exited && t.fault.isNone && t.idle == 0 && t.dict.isNone && t.rolling.isNone && t.trapping.isNone && !t.eret then
    some (((s.stream t).1 + 2 * t.pc) % 2 ^ 64)
  else none

/-- What a strand has under way between packages: loads and stores, an entry of DICT.LOAD, a descriptor, a trap record that is written or
that ERET reads, its code. -/
def State.linkedStrand (s : State) (c : Nat) (u : Nat × Strand) : List Linked :=
  let t := u.2
  ((List.range t.flying.length).filterMap (fun i => match t.flying[i]? with
    | some r => if r.arrived then none else r.load.bind (fun l => (l.places.findSome? (s.farPlace t.part)).map (.load c u.1 i))
    | none => none)) ++
  ((List.range t.stores.length).filterMap (fun i => match t.stores[i]? with
    | some r => if r.depth = 0 ∧ r.pieces.any (fun q => (s.farPlace t.part q.loc).isSome) then some (.store c u.1 i) else none
    | none => none)) ++
  (match t.dict with
   | some (_, _, va) => (s.farPlace t.part (.gl va)).toList.map (.dict c u.1)
   | none => []) ++
  (match s.wants c u.1 with
   | some (_, h) => (s.farPlace t.part (.gl ((t.ctl.ttbase + 64 * h) % 2 ^ 64))).toList.map (.desc c u.1)
   | none => []) ++
  (match t.trapping, t.handler with
   | some (_, _, _, false), _ => (s.farPlace t.part (.gl (trapSlot (s.part t.part).trapBase c u.1))).toList.map (.trap c u.1)
   | _, some h => if t.eret then (s.farPlace t.part (.gl h.record)).toList.map (.trap c u.1) else []
   | _, none => []) ++
  ((s.fetchVa t).bind (fun va => s.farPlace t.part (.gl va))).toList.map (.code c u.1)

/-- Accesses under way between packages, in the order in which FLIT_TAG_FAIL counts them after the payloads: the strands', the engines',
those of triggers whose gangs are away, the contributions. -/
def State.linked (s : State) : List Linked :=
  s.cores.flatMap (fun e => e.2.strands.flatMap (s.linkedStrand e.1)) ++
  s.cores.flatMap (fun e => e.2.cmds.filterMap (fun m => (s.farCmd e.1 m).map (.cmd e.1 m))) ++
  (List.range 256).flatMap (fun c => (s.awayTrigs c).filterMap (fun a => (s.farCmd c a.2.2).map (.saved a.1 a.2.1 c a.2.2))) ++
  s.parts.flatMap (fun q => q.2.groups.flatMap (fun k => k.steps.flatMap (fun r => r.subs.filterMap (fun c =>
    if !c.taken && (r.sw || k.members.any (fun m => m.2.2 && m.1 != s.node)) then some (.sub q.1 k.lid k.ch r.step c.rank c.sender) else none))))

/-- A command's flit fails its tag: it is sent again, or after eight failures the command ends (R243). -/
def State.linkCmd (s : State) (c : Nat) (m : Cmd) : State :=
  if m.tries < 8 then s.putCmd c { m with tries := m.tries + 1 }
  else s.putCmd c { m.note (some .uncorrectable) with phase := .ended, parked := none }

/-- A flit of an access between packages fails its tag: the access is tried again, or after eight failures ends with UNCORRECTABLE, in the
manner of R242, and the port is logged (R243, log 87). -/
def State.linkFail (s : State) (a : Linked) : State :=
  let log (s : State) (n : Nat) : State := s.hkLog 6 (0x200 + Config.linkPort n % 16) (Config.linkPort n % 16)
  match a with
  | .load c x i va =>
    (match (s.strand c x).flying[i]? with
     | none => s
     | some r =>
       if r.tries < 8 then s.putResult c x i { r with tries := r.tries + 1 }
       else log (s.putResult c x i { r with arrived := true, exc := some { cause := .uncorrectable, aux := va, slot := 2 } }) va)
  | .store c x i =>
    let t := s.strand c x
    (match t.stores[i]? with
     | none => s
     | some r =>
       if r.tries < 8 then s.modStrand c x (fun t => { t with stores := lput t.stores i { r with tries := r.tries + 1 } })
       else
         let near := r.pieces.filter (fun q => (s.farPlace t.part q.loc).isNone)
         let va := (r.pieces.findSome? (fun q => s.farPlace t.part q.loc)).getD 0
         let s := s.modStrand c x (fun t => { t with
           stores := if near = [] then ldel t.stores i else lput t.stores i { r with pieces := near },
           reports := if t.exited then t.reports else t.reports ++ [({ cause := .uncorrectable, aux := va, slot := r.slot }, r.pc)] })
         log s va)
  | .cmd c m va => let s := s.linkCmd c m; if m.tries < 8 then s else log s va
  | .saved p j c m va => let s := s.withSaved p j (fun s => s.linkCmd c m); if m.tries < 8 then s else log s va
  | .dict c x va =>
    let t := s.strand c x
    if t.tries < 8 then s.setStrand c x { t with tries := t.tries + 1 }
    else log (s.setStrand c x { t with dict := none, tries := 0, reports := t.reports ++ [({ cause := .uncorrectable, aux := va }, t.bpos)] }) va
  | .desc c x va =>
    let t := s.strand c x
    if t.tries < 8 then s.setStrand c x { t with tries := t.tries + 1 }
    else
      let h := ((s.wants c x).map (·.2)).getD 0
      log (s.setStrand c x { t with want := none, tries := 0, wantBad := t.wantBad ++ [(h, va)] }) va
  | .code c x va =>
    let t := s.strand c x
    if t.tries < 8 then s.setStrand c x { t with tries := t.tries + 1 }
    else log (s.setStrand c x { t with tries := 0, reports := t.reports ++ [({ cause := .uncorrectable, aux := va }, t.pc)] }) va
  -- a record that cannot be written, or read back, is FATAL (R334, R339)
  | .trap c x va =>
    let t := s.strand c x
    if t.tries < 8 then s.setStrand c x { t with tries := t.tries + 1 }
    else log ((s.setStrand c x { t with tries := 0 }).abortLaunch t.part t.lid 0x3F) va
  | .sub p lid ch st rank key =>
    let tries := ((((s.group p lid ch).bind (fun k => k.step st)).bind (fun r => r.subs.find? (fun c => c.rank == rank))).map (·.tries)).getD 0
    let up (f : Contrib → Contrib) (s : State) : State := s.modGroup p lid ch (fun k => { k with steps := k.steps.map (fun r =>
      if r.step = st then { r with subs := r.subs.map (fun c => if c.rank = rank then f c else c) } else r) })
    if tries < 8 then up (fun c => { c with tries := c.tries + 1 }) s
    else
      let s := up (fun c => { c with taken := true }) s
      log (match key with | some k => s.failSender p k ch .uncorrectable | none => s) rank

/-- FLIT_TAG_FAIL (R243): a flit of payload `i` between packages, or past their number of an access, fails its tag and is sent again;
after eight failed retransmissions what it carried ends with UNCORRECTABLE, and the port is logged. -/
def execFlitTagFail (i : Nat) (s : State) : Host.Outcome State Fault Refusal :=
  .next (match s.flights[i]? with
    | none => (match s.linked[i - s.flights.length]? with
      | some a => s.linkFail a
      | none => s)
    | some f =>
      if !f.remote then s
      else if f.tries < 8 then { s with flights := lput s.flights i { f with tries := f.tries + 1 } }
      else
        let port := Config.linkPort f.gang % 16
        let s := s.hkLog 6 (0x200 + port) port
        if f.out then ({ s with flights := ldel s.flights i } : State).sent f (some .uncorrectable)
        else { s with flights := lput s.flights i { f with bad := true } })

end Sys2Proof.Machine
end

