-- ==== Sys2Proof/Machine/Dispatch.lean ====
section
/-! DEFINITION. One arm per constructor of Instr: a direct call of its meaning. -/

namespace Sys2Proof.Machine

def exec (i : Instr) (s : State) : Host.Outcome State Fault Refusal :=
  match i with
  | .nop slot land => Sys2Proof.Machine.execNop slot land s
  | .idleBundle => Sys2Proof.Machine.execIdleBundle s
  | .br land tgt => Sys2Proof.Machine.execBr land tgt s
  | .brCc land cc a b tgt => Sys2Proof.Machine.execBrCc land cc a b tgt s
  | .bri land a => Sys2Proof.Machine.execBri land a s
  | .loop land a tgt => Sys2Proof.Machine.execLoop land a tgt s
  | .call land w tgt => Sys2Proof.Machine.execCall land w tgt s
  | .calli land a w => Sys2Proof.Machine.execCalli land a w s
  | .ret land => Sys2Proof.Machine.execRet land s
  | .wait land k0 k1 k2 k3 => Sys2Proof.Machine.execWait land k0 k1 k2 k3 s
  | .barArrive land b => Sys2Proof.Machine.execBarArrive land b s
  | .barWait land b => Sys2Proof.Machine.execBarWait land b s
  | .barSs land b => Sys2Proof.Machine.execBarSs land b s
  | .yield land => Sys2Proof.Machine.execYield land s
  | .exit land => Sys2Proof.Machine.execExit land s
  | .setfmt land src => Sys2Proof.Machine.execSetfmt land src s
  | .mfc land a cr => Sys2Proof.Machine.execMfc land a cr s
  | .mtc land cr src => Sys2Proof.Machine.execMtc land cr src s
  | .rgnBegin land rid retry abm fs tgt => Sys2Proof.Machine.execRgnBegin land rid retry abm fs tgt s
  | .rgnKeep land keep => Sys2Proof.Machine.execRgnKeep land keep s
  | .rgnEnd land rid => Sys2Proof.Machine.execRgnEnd land rid s
  | .rgnEndC land rid => Sys2Proof.Machine.execRgnEndC land rid s
  | .rgnAbort land code => Sys2Proof.Machine.execRgnAbort land code s
  | .chk land a b => Sys2Proof.Machine.execChk land a b s
  | .chkV land a b m ty => Sys2Proof.Machine.execChkV land a b m ty s
  | .trap land imm => Sys2Proof.Machine.execTrap land imm s
  | .eret land => Sys2Proof.Machine.execEret land s
  | .dictLoad land a e0 n clr => Sys2Proof.Machine.execDictLoad land a e0 n clr s
  | .add u d a b => Sys2Proof.Machine.execAdd u d a b s
  | .sub u d a b => Sys2Proof.Machine.execSub u d a b s
  | .addi u d a imm => Sys2Proof.Machine.execAddi u d a imm s
  | .mul u d a b => Sys2Proof.Machine.execMul u d a b s
  | .mulh u k d a b => Sys2Proof.Machine.execMulh u k d a b s
  | .div u natural d a b => Sys2Proof.Machine.execDiv u natural d a b s
  | .rem u natural d a b => Sys2Proof.Machine.execRem u natural d a b s
  | .madd u d a b c => Sys2Proof.Machine.execMadd u d a b c s
  | .and u d a b => Sys2Proof.Machine.execAnd u d a b s
  | .or u d a b => Sys2Proof.Machine.execOr u d a b s
  | .xor u d a b => Sys2Proof.Machine.execXor u d a b s
  | .andn u d a b => Sys2Proof.Machine.execAndn u d a b s
  | .shl u d a n => Sys2Proof.Machine.execShl u d a n s
  | .shr u d a n => Sys2Proof.Machine.execShr u d a n s
  | .sar u d a n => Sys2Proof.Machine.execSar u d a n s
  | .rot u d a n => Sys2Proof.Machine.execRot u d a n s
  | .clz u d a => Sys2Proof.Machine.execClz u d a s
  | .popc u d a => Sys2Proof.Machine.execPopc u d a s
  | .min u natural d a b => Sys2Proof.Machine.execMin u natural d a b s
  | .max u natural d a b => Sys2Proof.Machine.execMax u natural d a b s
  | .sel u d a b c => Sys2Proof.Machine.execSel u d a b c s
  | .cmpCc u cc d a b => Sys2Proof.Machine.execCmpCc u cc d a b s
  | .li u d imm => Sys2Proof.Machine.execLi u d imm s
  | .lih u d a imm => Sys2Proof.Machine.execLih u d a imm s
  | .bfx u d a pos w => Sys2Proof.Machine.execBfx u d a pos w s
  | .bfi u d a pos w => Sys2Proof.Machine.execBfi u d a pos w s
  | .qset q bm pool => Sys2Proof.Machine.execQset q bm pool s
  | .qclr q => Sys2Proof.Machine.execQclr q s
  | .symix mult d a b => Sys2Proof.Machine.execSymix mult d a b s
  | .ld as sz sgn t a off at_ => Sys2Proof.Machine.execLd as sz sgn t a off at_ s
  | .st as sz t a off at_ => Sys2Proof.Machine.execSt as sz t a off at_ s
  | .atom as sz aop ord sgn t a c off at_ => Sys2Proof.Machine.execAtom as sz aop ord sgn t a c off at_ s
  | .fence mask sc => Sys2Proof.Machine.execFence mask sc s
  | .qld as q a off at_ => Sys2Proof.Machine.execQld as q a off at_ s
  | .ldv v q m ty at_ => Sys2Proof.Machine.execLdv v q m ty at_ s
  | .stv v q m ty at_ => Sys2Proof.Machine.execStv v q m ty at_ s
  | .ldvT v q m ty at_ => Sys2Proof.Machine.execLdvT v q m ty at_ s
  | .stvT v q m ty at_ => Sys2Proof.Machine.execStvT v q m ty at_ s
  | .vstPack v q m ty at_ => Sys2Proof.Machine.execVstPack v q m ty at_ s
  | .vpackEnd q ty at_ => Sys2Proof.Machine.execVpackEnd q ty at_ s
  | .vldExpand v q m ty at_ => Sys2Proof.Machine.execVldExpand v q m ty at_ s
  | .stashMap w a b c at_ => Sys2Proof.Machine.execStashMap w a b c at_ s
  | .stashFlush w at_ => Sys2Proof.Machine.execStashFlush w at_ s
  | .stashInv w at_ => Sys2Proof.Machine.execStashInv w at_ s
  | .leaseGet d a b c fill at_ => Sys2Proof.Machine.execLeaseGet d a b c fill at_ s
  | .leaseFree a at_ => Sys2Proof.Machine.execLeaseFree a at_ s
  | .fadd u ty rnd d a b m => Sys2Proof.Machine.execFadd u ty rnd d a b m s
  | .fsub u ty rnd d a b m => Sys2Proof.Machine.execFsub u ty rnd d a b m s
  | .fmul u ty rnd d a b m => Sys2Proof.Machine.execFmul u ty rnd d a b m s
  | .fma u ty rnd d a b c m => Sys2Proof.Machine.execFma u ty rnd d a b c m s
  | .fmin u ty d a b m => Sys2Proof.Machine.execFmin u ty d a b m s
  | .fmax u ty d a b m => Sys2Proof.Machine.execFmax u ty d a b m s
  | .fabs u ty d a m => Sys2Proof.Machine.execFabs u ty d a m s
  | .fneg u ty d a m => Sys2Proof.Machine.execFneg u ty d a m s
  | .frcp u ty rnd d a m => Sys2Proof.Machine.execFrcp u ty rnd d a m s
  | .frsq u ty rnd d a m => Sys2Proof.Machine.execFrsq u ty rnd d a m s
  | .fexp2 u ty rnd d a m => Sys2Proof.Machine.execFexp2 u ty rnd d a m s
  | .flog2 u ty rnd d a m => Sys2Proof.Machine.execFlog2 u ty rnd d a m s
  | .fcmp u cc ty d a b m => Sys2Proof.Machine.execFcmp u cc ty d a b m s
  | .cvt u tyd tys rnd d a m part => Sys2Proof.Machine.execCvt u tyd tys rnd d a m part s
  | .cvtQ u tyd tys rnd d c a m part => Sys2Proof.Machine.execCvtQ u tyd tys rnd d c a m part s
  | .cvtDq u tyd tys rnd d a b m part => Sys2Proof.Machine.execCvtDq u tyd tys rnd d a b m part s
  | .iadd u ty d a b m => Sys2Proof.Machine.execIadd u ty d a b m s
  | .isub u ty d a b m => Sys2Proof.Machine.execIsub u ty d a b m s
  | .imul u ty d a b m => Sys2Proof.Machine.execImul u ty d a b m s
  | .imad u ty d a b c m => Sys2Proof.Machine.execImad u ty d a b c m s
  | .iaddSat u ty d a b m => Sys2Proof.Machine.execIaddSat u ty d a b m s
  | .isubSat u ty d a b m => Sys2Proof.Machine.execIsubSat u ty d a b m s
  | .vmacI8 u tya tyb d a b m part => Sys2Proof.Machine.execVmacI8 u tya tyb d a b m part s
  | .vdot4I8 u tya tyb d a b m => Sys2Proof.Machine.execVdot4I8 u tya tyb d a b m s
  | .vrshr u ty d a b m sh part => Sys2Proof.Machine.execVrshr u ty d a b m sh part s
  | .vand u ty d a b m => Sys2Proof.Machine.execVand u ty d a b m s
  | .vor u ty d a b m => Sys2Proof.Machine.execVor u ty d a b m s
  | .vxor u ty d a b m => Sys2Proof.Machine.execVxor u ty d a b m s
  | .vandn u ty d a b m => Sys2Proof.Machine.execVandn u ty d a b m s
  | .vshl u ty d a n m => Sys2Proof.Machine.execVshl u ty d a n m s
  | .vshr u ty d a n m => Sys2Proof.Machine.execVshr u ty d a n m s
  | .vsar u ty d a n m => Sys2Proof.Machine.execVsar u ty d a n m s
  | .vperm u z ty d a b c m => Sys2Proof.Machine.execVperm u z ty d a b c m s
  | .vbcast u ty d src m => Sys2Proof.Machine.execVbcast u ty d src m s
  | .vsel u ty d a b m => Sys2Proof.Machine.execVsel u ty d a b m s
  | .vred u op ty rnd d a m => Sys2Proof.Machine.execVred u op ty rnd d a m s
  | .vscan u op ex ty rnd d a m => Sys2Proof.Machine.execVscan u op ex ty rnd d a m s
  | .vcmp u cc ty d a b m => Sys2Proof.Machine.execVcmp u cc ty d a b m s
  | .mand u d a b => Sys2Proof.Machine.execMand u d a b s
  | .mor u d a b => Sys2Proof.Machine.execMor u d a b s
  | .mnot u d a => Sys2Proof.Machine.execMnot u d a s
  | .mpopc u ty d a => Sys2Proof.Machine.execMpopc u ty d a s
  | .vmovS u ty d a lane => Sys2Proof.Machine.execVmovS u ty d a lane s
  | .vmovV u ty d a lane => Sys2Proof.Machine.execVmovV u ty d a lane s
  | .vrand u ty d m seq => Sys2Proof.Machine.execVrand u ty d m seq s
  | .accRd u ty d y hr m => Sys2Proof.Machine.execAccRd u ty d y hr m s
  | .accWr u ty y a hr m => Sys2Proof.Machine.execAccWr u ty y a hr m s
  | .cpy qd qs e => Sys2Proof.Machine.execCpy qd qs e s
  | .cpyL qd qs e => Sys2Proof.Machine.execCpyL qd qs e s
  | .cpyRed op ty qd qs e => Sys2Proof.Machine.execCpyRed op ty qd qs e s
  | .trig n count qd qs e => Sys2Proof.Machine.execTrig n count qd qs e s
  | .tokClr k0 k1 k2 k3 => Sys2Proof.Machine.execTokClr k0 k1 k2 k3 s
  | .mma j tya tyb y qa qb e => Sys2Proof.Machine.execMma j tya tyb y qa qb e s
  | .mmaG f j tya tyb y qa qb e => Sys2Proof.Machine.execMmaG f j tya tyb y qa qb e s
  | .mmaW j tya tyb y qa qb e => Sys2Proof.Machine.execMmaW j tya tyb y qa qb e s
  | .tgemm tya tyb y qa qb e => Sys2Proof.Machine.execTgemm tya tyb y qa qb e s
  | .tcon j tya tyb y qa qb e => Sys2Proof.Machine.execTcon j tya tyb y qa qb e s
  | .drain z bs tyt tyo qa y qb e => Sys2Proof.Machine.execDrain z bs tyt tyo qa y qb e s
  | .accZero y e => Sys2Proof.Machine.execAccZero y e s
  | .gath f ty qd qs qx e => Sys2Proof.Machine.execGath f ty qd qs qx e s
  | .scat add f ty qd qs qx e => Sys2Proof.Machine.execScat add f ty qd qs qx e s
  | .chSend n q e => Sys2Proof.Machine.execChSend n q e s
  | .chRecv n q e => Sys2Proof.Machine.execChRecv n q e s
  | .chRecvRel n e => Sys2Proof.Machine.execChRecvRel n e s
  | .chRed op ty n q e => Sys2Proof.Machine.execChRed op ty n q e s
  | .chFwd n q e => Sys2Proof.Machine.execChFwd n q e s
  | .chStat n q e => Sys2Proof.Machine.execChStat n q e s
  | .resultLanding c x => Sys2Proof.Machine.execResultLanding c x s
  | .resultArrival c x j => Sys2Proof.Machine.execResultArrival c x j s
  | .strandSwitch c => Sys2Proof.Machine.execStrandSwitch c s
  | .descriptorLoad c x => Sys2Proof.Machine.execDescriptorLoad c x s
  | .codeFetchMiss c x => Sys2Proof.Machine.execCodeFetchMiss c x s
  | .pageFault p => Sys2Proof.Machine.execPageFault p s
  | .fbufBaseWrite p v => Sys2Proof.Machine.execFbufBaseWrite p v s
  | .fbufTailWrite p v => Sys2Proof.Machine.execFbufTailWrite p v s
  | .frespRetry p seq => Sys2Proof.Machine.execFrespRetry p seq s
  | .frespFail p seq => Sys2Proof.Machine.execFrespFail p seq s
  | .migreq p v => Sys2Proof.Machine.execMigreq p v s
  | .tlbinv p v => Sys2Proof.Machine.execTlbinv p v s
  | .tlbinvWholePartition p => Sys2Proof.Machine.execTlbinvWholePartition p s
  | .tlbinvDone p => Sys2Proof.Machine.execTlbinvDone p s
  | .migrationStart p vas pl pln => Sys2Proof.Machine.execMigrationStart p vas pl pln s
  | .migrationCopy p j => Sys2Proof.Machine.execMigrationCopy p j s
  | .migrationComplete p j => Sys2Proof.Machine.execMigrationComplete p j s
  | .floorExpiry p j => Sys2Proof.Machine.execFloorExpiry p j s
  | .pageRequestResponse p j ok => Sys2Proof.Machine.execPageRequestResponse p j ok s
  | .atsInvalidate p va count => Sys2Proof.Machine.execAtsInvalidate p va count s
  | .scrubLine stack line seen => Sys2Proof.Machine.execScrubLine stack line seen s
  | .leaseExpiry die n => Sys2Proof.Machine.execLeaseExpiry die n s
  | .stashWriteback c w line => Sys2Proof.Machine.execStashWriteback c w line s
  | .copyStart c => Sys2Proof.Machine.execCopyStart c s
  | .copySector c j => Sys2Proof.Machine.execCopySector c j s
  | .copyComplete c j => Sys2Proof.Machine.execCopyComplete c j s
  | .triggerFire c j => Sys2Proof.Machine.execTriggerFire c j s
  | .engineCommandStart c gather steps => Sys2Proof.Machine.execEngineCommandStart c gather steps s
  | .engineCommandComplete c gather => Sys2Proof.Machine.execEngineCommandComplete c gather s
  | .gatherRow c => Sys2Proof.Machine.execGatherRow c s
  | .channelArrival j => Sys2Proof.Machine.execChannelArrival j s
  | .channelCommandComplete c j => Sys2Proof.Machine.execChannelCommandComplete c j s
  | .switchCombine g step sw rank => Sys2Proof.Machine.execSwitchCombine g step sw rank s
  | .pugmillContribution g step recv rank => Sys2Proof.Machine.execPugmillContribution g step recv rank s
  | .switchRemeasure g sw ok => Sys2Proof.Machine.execSwitchRemeasure g sw ok s
  | .switchRemoval g sw opened => Sys2Proof.Machine.execSwitchRemoval g sw opened s
  | .resendTimeout g => Sys2Proof.Machine.execResendTimeout g s
  | .flitTagFail j => Sys2Proof.Machine.execFlitTagFail j s
  | .remoteAccess node gid p pa k => Sys2Proof.Machine.execRemoteAccess node gid p pa k s
  | .superstepRelease cl b => Sys2Proof.Machine.execSuperstepRelease cl b s
  | .gangEnd p lid g => Sys2Proof.Machine.execGangEnd p lid g s
  | .launch p q => Sys2Proof.Machine.execLaunch p q s
  | .queueNop p q => Sys2Proof.Machine.execQueueNop p q s
  | .extwr p q => Sys2Proof.Machine.execExtwr p q s
  | .unknownRecord p q => Sys2Proof.Machine.execUnknownRecord p q s
  | .gangStart p lid g => Sys2Proof.Machine.execGangStart p lid g s
  | .launchComplete p lid => Sys2Proof.Machine.execLaunchComplete p lid s
  | .preempt p cl => Sys2Proof.Machine.execPreempt p cl s
  | .resume p j => Sys2Proof.Machine.execResume p j s
  | .shareSliceExpiry cl => Sys2Proof.Machine.execShareSliceExpiry cl s
  | .placementPeriod p => Sys2Proof.Machine.execPlacementPeriod p s
  | .plogBaseWrite p v => Sys2Proof.Machine.execPlogBaseWrite p v s
  | .registerWrite page off v => Sys2Proof.Machine.execRegisterWrite page off v s
  | .trapSegWrite p v => Sys2Proof.Machine.execTrapSegWrite p v s
  | .trapSegCheckDone p => Sys2Proof.Machine.execTrapSegCheckDone p s
  | .watchpointEnable p j v => Sys2Proof.Machine.execWatchpointEnable p j v s
  | .watchpointArmed p j => Sys2Proof.Machine.execWatchpointArmed p j s
  | .polCmdLoad p => Sys2Proof.Machine.execPolCmdLoad p s
  | .policyCheckDone p => Sys2Proof.Machine.execPolicyCheckDone p s
  | .policyExpiry p => Sys2Proof.Machine.execPolicyExpiry p s
  | .getVersion f => Sys2Proof.Machine.execGetVersion f s
  | .getCapabilities f => Sys2Proof.Machine.execGetCapabilities f s
  | .negotiateAlgorithms f => Sys2Proof.Machine.execNegotiateAlgorithms f s
  | .getDigests f => Sys2Proof.Machine.execGetDigests f s
  | .getCertificate f => Sys2Proof.Machine.execGetCertificate f s
  | .challenge f nonce => Sys2Proof.Machine.execChallenge f nonce s
  | .getMeasurements f sess index => Sys2Proof.Machine.execGetMeasurements f sess index s
  | .keyExchange f => Sys2Proof.Machine.execKeyExchange f s
  | .finish f sess => Sys2Proof.Machine.execFinish f sess s
  | .keyUpdate f sess => Sys2Proof.Machine.execKeyUpdate f sess s
  | .heartbeat f sess => Sys2Proof.Machine.execHeartbeat f sess s
  | .endSession f sess => Sys2Proof.Machine.execEndSession f sess s
  | .setPolicyKey f sess key => Sys2Proof.Machine.execSetPolicyKey f sess key s
  | .setMeasPeriod f sess seconds => Sys2Proof.Machine.execSetMeasPeriod f sess seconds s
  | .lockInterface p => Sys2Proof.Machine.execLockInterface p s
  | .startInterface p => Sys2Proof.Machine.execStartInterface p s
  | .stopInterface p => Sys2Proof.Machine.execStopInterface p s
  | .frozenConfigWrite p => Sys2Proof.Machine.execFrozenConfigWrite p s
  | .ideIntegrityFail f => Sys2Proof.Machine.execIdeIntegrityFail f s
  | .ideKm f sess key => Sys2Proof.Machine.execIdeKm f sess key s
  | .windowRead f off n noSnoop => Sys2Proof.Machine.execWindowRead f off n noSnoop s
  | .windowWrite f off bytes noSnoop => Sys2Proof.Machine.execWindowWrite f off bytes noSnoop s
  | .windowAtomic f off n op a b => Sys2Proof.Machine.execWindowAtomic f off n op a b s
  | .setNode => Sys2Proof.Machine.execSetNode s
  | .writeMap => Sys2Proof.Machine.execWriteMap s
  | .assign => Sys2Proof.Machine.execAssign s
  | .fwStage => Sys2Proof.Machine.execFwStage s
  | .fwCommit => Sys2Proof.Machine.execFwCommit s
  | .checkpoint => Sys2Proof.Machine.execCheckpoint s
  | .setScrub => Sys2Proof.Machine.execSetScrub s
  | .share => Sys2Proof.Machine.execShare s
  | .sensorRefresh readings packagePower => Sys2Proof.Machine.execSensorRefresh readings packagePower s
  | .wearRecompute words => Sys2Proof.Machine.execWearRecompute words s
  | .functionReady bit => Sys2Proof.Machine.execFunctionReady bit s
  | .packageReset => Sys2Proof.Machine.execPackageReset s
  | .dictLoadComplete c x => Sys2Proof.Machine.execDictLoadComplete c x s
  | .storePerformed c x j => Sys2Proof.Machine.execStorePerformed c x j s
  | .unattributedFault site => Sys2Proof.Machine.execUnattributedFault site s
  | .partitionCreation p => Sys2Proof.Machine.execPartitionCreation p s
  | .partitionDestruction p => Sys2Proof.Machine.execPartitionDestruction p s
  | .debugHalt c x => Sys2Proof.Machine.execDebugHalt c x s
  | .debugResume c x single => Sys2Proof.Machine.execDebugResume c x single s
  | .providerEndLaunch p lid => Sys2Proof.Machine.execProviderEndLaunch p lid s
  | .receiveDma slot pa bytes => Sys2Proof.Machine.execReceiveDma slot pa bytes s
  | .hkCommandComplete => Sys2Proof.Machine.execHkCommandComplete s
  | .logTailWrite v => Sys2Proof.Machine.execLogTailWrite v s
  | .functionFailedCheck bit => Sys2Proof.Machine.execFunctionFailedCheck bit s

end Sys2Proof.Machine
end

