-- ==== Sys2Proof/Machine/Turn.lean ====
section
/-! DEFINITION. A turn of the machine: a core's issue port, an event, or time that passes (log 1); and the turns that the
package itself offers where the agenda names none. -/

namespace Sys2Proof.Machine

/-- Whether an instruction is an event of the opcode table: it has no slot word and no bundle element issues it. -/
def isEvent (i : Instr) : Bool := match i with
  | .idleBundle => false
  | i => (encode i).isNone

/-- The function whose BAR0 an event writes (R375): a register page, the housekeeping mailbox, the log's tail. -/
def barWrite (i : Instr) : Option FnRef :=
  let page (p : Nat) : FnRef := if p = 49 then .pf else .vf p
  match i with
  | .registerWrite (.part p) .. | .fbufBaseWrite p _ | .fbufTailWrite p _ | .frespRetry p _ | .frespFail p _ | .migreq p _ | .tlbinv p _
  | .tlbinvWholePartition p | .plogBaseWrite p _ | .trapSegWrite p _ | .watchpointEnable p .. | .polCmdLoad p => some (page p)
  | .registerWrite .pf .. | .setNode | .writeMap | .assign | .fwStage | .fwCommit | .checkpoint | .setScrub | .share | .logTailWrite _ => some .pf
  | _ => none

/-- The function of a register write for which a posted write of that function waits: the write waits behind it (R376). -/
def State.behind (s : State) (i : Instr) : Option FnRef := (barWrite i).filter (fun f => s.win.any (fun r => r.fn == f && r.writes))

/-! Mixed pairs (R316). -/

/-- The command that a part of unit `i` of a core's engines serves (`State.enginePart`). -/
def State.unitCmd (s : State) (c i : Nat) : Option Cmd :=
  let k := s.core c
  let lane := k.shunter ++ (s.awayTrigs c).map (·.2.2)
  if i < lane.length then lane[i]?
  else if i = lane.length then k.gath.head?
  else if i = lane.length + 1 then k.kiln.head?
  else k.chans[i - lane.length - 2]?

/-- The engine of a command: its AGENT code, and its number among the agents of a core (R103, R305). -/
def Cmd.engine (m : Cmd) : Nat × Nat :=
  match m.kind with
  | .copy _ | .copyRed .. | .trig .. | .keepP _ => (2, 4)
  | .gath .. | .scat .. => (4, 4)
  | .chSend _ | .chRecv .. | .chRed .. | .chFwd _ | .chStat _ => (5, 6)
  | _ => (3, 5)

/-- The pieces of what a command's next part of `n` touches, and whether it may write them: the aligned 16-byte pieces that are left of a write,
the elements that it reads or combines (R304). -/
def Cmd.unitPieces (c n : Nat) (m : Cmd) : List (Loc × Nat) :=
  let es (q : Nat) (d : Option QWord) (l : List Nat) : List (Loc × Nat) :=
    l.filterMap (fun e => let p := elemPlace c q (d.map BitVec.toNat) e; if p.zero then none else some (p.loc, p.n))
  if m.left ≠ [] then
    (Patch.runs (m.left.take (Patch.cut m.left n))).flatMap (fun r => (cut16 r.1 r.2.length).map (fun om => (keyLoc (r.1 + om.1), om.2)))
  else match m.kind with
    | .copy _ | .trig .. => es m.ps.toNat m.ds ((m.sectorElems.drop m.taken).take n)
    | .copyRed .. =>
      let todo := m.sectorElems.drop m.taken
      es m.ps.toNat m.ds (todo.take n) ++ es m.pd.toNat m.dd ((m.sectorElems.drop m.rmw).take (n - todo.length))
    | .gath .. | .scat .. =>
      let row := m.rowElems m.cursor (lget 0 m.rows m.cursor - 1)
      let todo := m.rowLen m.cursor - m.taken
      (if todo = 0 then [] else es m.ps.toNat m.ds (((row.drop m.taken).take n).map (·.1))) ++
      (if m.isAdd then es m.pd.toNat m.dd (((row.drop m.rmw).take (n - todo)).map (·.2)) else [])
    | .chSend _ | .chRed .. | .chFwd _ =>
      if m.sub ≠ 0 then [] else es m.ps.toNat m.ds ((List.range n).map (m.cursor + ·) |>.filter (fun e => decide (e < qCount m.ps.toNat)))
    | _ => []

/-- The agent of an access of a pair: a strand, or an engine of a core (R305). -/
def State.mixAgent (s : State) : Mix → Nat
  | .store c x _ | .result c x _ => strandAgent c x
  | .unit c i _ => engineAgent c (((s.unitCmd c i).map (fun m => m.engine.2)).getD 0)

/-- The pieces of an access of a pair that may be performed now, with the partition that makes it; none where it may not. -/
def State.mixPieces (s : State) : Mix → Option (Nat × List (Loc × Nat))
  | .store c x i =>
    let t := s.strand c x
    match t.stores[i]? with
    | some r =>
      if r.depth = 0 ∧ r.act.isNone ∧ !r.parked ∧ s.mayPerform c x t r.event ∧ s.canTouch c x .w r.event.at_ then some (t.part, r.event.at_) else none
    | none => none
  | .result c x i =>
    let t := s.strand c x
    match t.flying[i]? with
    | some r =>
      (match r.load with
       | some l =>
         let u : Use := match l.kind with | .atom .. => .rw | _ => .r
         let one : Bool := match l.kind with | .expand .. | .lease .. | .fill .. => false | _ => true
         let at_ := l.pieces.map (fun q => (q.loc, q.n))
         if one ∧ !r.arrived ∧ r.faults = [] ∧ r.got = [] ∧ s.mayPerform c x t (r.event l) ∧ s.canTouch c x u at_ then some (t.part, at_) else none
       | none => none)
    | none => none
  | .unit c i n => (s.unitCmd c i).bind (fun m => if m.phase = .active ∧ m.parked.isNone ∧ !(s.core c).stopped then some (m.part, m.unitPieces c n) else none)

/-- Whether a byte of a piece is common with a piece of the other access that differs from it in start or size. -/
def State.common (s : State) (p : Nat) (q : Loc × Nat) (j : Nat) (o : Nat × List (Loc × Nat)) : Bool :=
  o.2.any (fun v => s.sameByte p (q.1.plus j) 1 v.1 v.2 && !(v.2 == q.2 && s.key o.1 v.1 == s.key p q.1))

/-- Performs an access of a pair. -/
def State.mixDo (s : State) : Mix → State
  | .store c x i => s.perform c x i
  | .result c x i => s.arrive_ c x i
  | .unit c i n => s.enginePart c i n

/-- What an ATOM that may be performed would write. -/
def State.atomWrite (s : State) (c x i : Nat) : Option SPiece :=
  ((s.strand c x).flying[i]?).bind (fun r => match r.load with
    | some { kind := .atom f e aop sgn cv cmp, pieces := q :: ps, cls := cls, sc := sc, acq := acq, rel := rel, cl := cl, handle := h, more := o } =>
      let l : LoadOp := { kind := .atom f e aop sgn cv cmp, pieces := q :: ps, cls := cls, sc := sc, acq := acq, rel := rel, cl := cl, handle := h, more := o }
      (match s.readPieces c x r l .rw with
       | .ok _ got none _ =>
         let n := (partBytes got).length
         some { loc := q.loc, bytes := natBytes n (atomNew aop sgn (8 * n) (bytesNat (partBytes got)) cv.toNat cmp.toNat) }
       | _ => none)
    | _ => none)

/-- Acts on the command that unit `i` of a core serves. -/
def State.onUnit (s : State) (c i : Nat) (f : Cmd → State → State) : State :=
  if i < (s.core c).shunter.length + (s.awayTrigs c).length then s.onShunter c i f
  else match s.unitCmd c i with
    | some m => f m s
    | none => s

/-- Writes some bytes of what an engine has left of a unit, not the last (R316). -/
def State.unitSome (c : Nat) (now left : Patch) (m : Cmd) (s : State) : State :=
  let w := { s.engWho c m m.engine.1 with cover := m.clean }
  let (s, e, ts) := s.writePatch w (s.mixOn c m) (engineAgent c m.engine.2) now
  ((s.cleanDone w m.clean left).through m now).putCmd c { m.note e with left := left, leftT := m.leftT ++ ts }

/-- A mixed pair (R316) of two agents' accesses that nothing orders. Of the common bytes of pieces that differ, those that `mask` selects of the
one's write are written before the other access is performed and the rest after it, so that each byte has, and each is read as, the one or
the other. The write that is split is a strand's store, an ATOM's, or what an engine has left of a unit. Under MIXCHECK the pair is
refused instead. -/
def State.mixedTurn (s : State) (a : Mix) (mask : Nat) (b : Mix) : State :=
  match s.mixPieces a, s.mixPieces b with
  | some (p, mine), some o =>
    if s.mixAgent a = s.mixAgent b ∨ s.mixing then s
    else
      let sel (n : Nat) (q : SPiece) (k : Nat) : Bool := mask.testBit n && s.common p (q.loc, q.bytes.length) k o
      match a with
      | .store c x i =>
        (match (s.strand c x).stores[i]? with
         | none => s
         | some r =>
           let rest := splitBytes r.pieces sel false
           if rest = [] then (s.perform c x i).mixDo b
           else
             let (s, r) := s.writePart c x r (splitBytes r.pieces sel true) rest
             ((s.modStrand c x (fun t => { t with stores := lput t.stores i r })).mixDo b).perform c x i)
      | .result c x i =>
        (match s.atomWrite c x i with
         | none => s
         | some w => (splitBytes [w] sel false).foldl (fun s q => (s.writePiece c x 0 q).1) ((s.arrive_ c x i (some sel)).mixDo b))
      | .unit c i n =>
        (match s.unitCmd c i with
         | none => s
         | some m =>
           let k := Patch.cut m.left n
           let run := m.left.take k
           let byte (j : Nat) : Bool := mask.testBit j && mine.any (fun q =>
             let a := (lget (0, 0, 0, false) run j).1
             decide (locKey q.1 ≤ a) && decide (a < locKey q.1 + q.2) && s.common p q (a - locKey q.1) o)
           let part (want : Bool) : Patch := ((List.range k).filter (fun j => byte j == want)).map (lget (0, 0, 0, false) run)
           if m.left = [] then s
           else if part false = [] then (s.enginePart c i k).mixDo b
           else ((s.onUnit c i (State.unitSome c (part true) (part false ++ m.left.drop k))).mixDo b).enginePart c i (part false).length)
  | _, _ => s

/-- What a turn does; a slot operation runs only from a code stream, so as an event it does nothing, and an event of an
agent that does not exist does nothing. -/
def runTurn (t : Turn) (s : State) : Host.Outcome State Fault Refusal :=
  match t with
  | .tick n => .next { s with cy := s.cy + n }
  | .part c i n => .next (s.enginePart c i n)
  | .piece c x i n load => .next (s.pieceTurn c x i n load)
  | .stage i n => .next (s.stageTurn i n)
  | .mixed a mask b => .next (s.mixedTurn a mask b)
  | .window =>
    let s := s.winAgain
    (match s.dueReg with
     | some (j, i) => exec i { s with win := ldel s.win j }
     | none => .next s)
  | .fdb p op => .next (s.fdb p op)
  | .doe f sess => .next (s.doeFail f sess)
  | .event i =>
    if isEvent i && wellFormed i then
      match s.behind i with
      | some f => .next { s with win := s.win ++ [{ fn := f, off := 0, op := .reg i }] }
      | none => exec i s
    else .next s
  | .issue c =>
    if 256 ≤ c then .next s
    else match issueTurn c s with
      | .done s => .next s
      | .exec i s => exec i s
      | .ops l s => .next (issueBundle (l.map slotOp) s)

/-- Turns of one context (R56, R114, R166, R268). -/
def State.strandTurns (s : State) (c : Nat) (e : Nat × Strand) : List Turn :=
  let t := e.2
  (List.range t.flying.length).map (fun i => .event (.resultArrival c e.1 i)) ++
  (List.range t.stores.length).map (fun i => .event (.storePerformed c e.1 i)) ++
  (if (s.wants c e.1).isSome then [.event (.descriptorLoad c e.1)] else []) ++
  (if t.dict.isSome then [.event (.dictLoadComplete c e.1)] else [])

/-- Turns of one core: its port, its contexts, its engines (R143, R157, R213, R249). -/
def State.coreTurns (s : State) (e : Nat × Core) : List Turn :=
  let c := e.1
  let k := e.2
  let n := k.copies.length + k.trigs.length
  [.issue c] ++ k.strands.flatMap (s.strandTurns c) ++
  (if k.copies = [] then [] else [.event (.copyStart c)]) ++
  (List.range n).flatMap (fun i => [.event (.copySector c i), .event (.copyComplete c i)]) ++
  (List.range k.trigs.length).map (fun i => .event (.triggerFire c i)) ++
  (if k.kiln = [] then [] else [.event (.engineCommandStart c false 1), .event (.engineCommandComplete c false)]) ++
  (if k.gath = [] then []
   else [.event (.engineCommandStart c true 1), .event (.gatherRow c), .event (.engineCommandComplete c true)]) ++
  (List.range k.chans.length).map (fun i => .event (.channelCommandComplete c i))

/-- Turns of a launch's gangs and of its end (R290, R293, R298). -/
def launchTurns (p : Nat) (l : Launch) : List Turn :=
  (List.range l.g).flatMap (fun g => [.event (.gangStart p l.lid g), .event (.gangEnd p l.lid g)]) ++
  [.event (.launchComplete p l.lid)]

/-- Turns of a reduction group's steps and of its switches' measurements (R255 to R257). -/
def State.groupTurns (s : State) (p g : Nat) (k : Group) : List Turn :=
  let n := k.members.length
  k.steps.flatMap (fun r =>
    k.kids.flatMap (fun w => w.2.map (fun i => .event (.switchCombine g r.step w.1 i))) ++
    (List.range n).flatMap (fun i => (List.range n).map (fun j => .event (.pugmillContribution g r.step j i)))) ++
  [.event (.resendTimeout g)] ++ s.measureTurns p g k

/-- Turns of a partition: its fault unit, its signal box, its checks (R103 to R110, R288 to R303, R344, R372, R380). -/
def partTurns (e : Nat × Part) : List Turn :=
  let p := e.1
  let q := e.2
  [.event (.pageFault p), .event (.tlbinvDone p)] ++
  (List.range q.fu.migs.length).flatMap (fun i => [.event (.migrationCopy p i), .event (.migrationComplete p i)]) ++
  (List.range q.fu.floors.length).map (fun i => .event (.floorExpiry p i)) ++
  q.queues.flatMap (fun u => [.event (.launch p u.1), .event (.queueNop p u.1), .event (.extwr p u.1), .event (.unknownRecord p u.1)]) ++
  (q.launches.filter (fun l => !l.final)).flatMap (launchTurns p) ++
  q.records.map (fun r => .event (.launchComplete p r.lid)) ++
  (List.range q.saved.length).map (fun j => .event (.resume p j)) ++
  (List.range 64).map (fun cl => .event (.preempt p cl)) ++
  [.event (.placementPeriod p), .event (.trapSegCheckDone p), .event (.policyCheckDone p), .event (.policyExpiry p)] ++
  q.watches.map (fun w => .event (.watchpointArmed p w.1))

/-- Every turn the package can take by itself; a turn whose event is not enabled changes nothing (log 2). -/
def State.autoTurns (s : State) : List Turn :=
  [.tick 1] ++ s.cores.flatMap s.coreTurns ++
  (List.range s.flights.length).map (fun i => .event (.channelArrival i)) ++
  s.parts.flatMap partTurns ++
  s.parts.flatMap (fun e => (List.range e.2.groups.length).flatMap (fun g => s.groupTurns e.1 (e.1 * 2 ^ 16 + g) (lget { gid := 0, lid := 0, ch := 0 } e.2.groups g))) ++
  s.clusters.flatMap (fun e => (List.range 16).map (fun b => .event (.superstepRelease e.1 b)) ++ [.event (.shareSliceExpiry e.1)]) ++
  s.leases.map (fun e => .event (.leaseExpiry (e.1 / 256) (e.1 % 256))) ++
  (if s.hk.busy then [.event .hkCommandComplete] else []) ++ (if s.win = [] then [] else [.window])

/-- The turn taken where the agenda is empty: the turns the package offers, in rotation (log 1). -/
def State.autoTurn (s : State) : Turn := lget (.tick 1) s.autoTurns (s.rota % s.autoTurns.length)

end Sys2Proof.Machine
end

