-- ==== Sys2Proof/Machine/Step.lean ====
section
/-! DEFINITION. One step of the package, and the state in which a given instruction is the next one. -/

namespace Sys2Proof.Machine

/-- One step (log 1): the agenda's next turn; with an empty agenda, the next of the turns that the package itself offers. -/
def step (s : State) : Host.Outcome State Fault Refusal :=
  match s.agenda with
  | t :: r => runTurn t { s with agenda := r }
  | [] => runTurn s.autoTurn { s with rota := s.rota + 1 }

/-- `s` with a code segment of one literal bundle placed and its strand on core 0 about to issue (log 10): the bytes in
frame 0 of stack 0, the page's translation, the launch, the strand, and the port's turn. -/
def State.withFetchWord (s : State) (nbits w : Nat) : State :=
  let b : Bundle := if nbits ≤ 64 then soloBundle (homeSlot (w / 2 ^ 56 % 256)) (BitVec.ofNat 64 w) else BitVec.ofNat 384 w
  let s := s.hbmWrite 64 (0xFF :: 0xFF :: natBytes 48 b.toNat)
  let t : Strand := { resident := true }
  let g : Gang := { phase := .running, place := [(0, 0)], cores := [0] }
  let l : Launch := { lid := 0, queue := 0, phase := .started, codeLen := 25, starts := 1, system := true, gangs := [(0, g)], started := 1 }
  let s : State :=
    { s with agenda := [.issue 0], l2 := tput none s.l2 0 none, lines := tput {} (tput {} s.lines 0 {}) 1 {}, leases := [],
             hk := { s.hk with ready := s.hk.ready ||| 0x100 } }
  let s := s.modCore 0 (fun k => { k with strands := [(0, t)], active := some 0, portAt := 0, stopped := false, stash := [] })
  s.modPart 0 (fun q => { q with created := true, launches := [l], fu := { q.fu with tlb := [(0, some (0x27F, 0))] } })

end Sys2Proof.Machine
end

