-- ==== Sys2Proof/Safety.lean ====
section
/-! DEFINITION. What the statements about the machine speak of: the outcome of a bundle, room for its results, frames, and the
invariant of main memory. -/

namespace Sys2Proof.Safety

open Sys2Proof.Machine

abbrev Out := Host.Outcome State Fault Refusal

/-- The issuing strand has room for `n` more results under way, of 32 (R57). -/
abbrev Room (s : State) (n : Nat) : Prop := n + s.me.underWay s.cy ≤ 32

/-- The bundle has issued with the effects of its slots (R62). -/
def issued (s : State) : Out := .next s.finish

/-- A bundle issues that puts one fixed result under way (R55). -/
def result (s : State) (slot lat : Nat) (ws : List RegWrite) : Out := issued (s.fixed slot lat ws)

/-- One more draw in the bundle, if the operation draws (R80). -/
def drew (b : Bool) (s : State) : State := if b then s.modMe (fun t => { t with drawn := t.drawn + 1 }) else s

/-- A scalar result of an operation in C or X, due `lat` schedule cy later (R174). -/
def scalar (s : State) (u : CxUnit) (lat : Nat) (d : SReg) (v : Word) : Out := result s u.slot.num lat [s.me.wS d v]

/-- a cc b, with the codes of R42: signed, then natural. -/
def holds (cc : CC) (a b : Word) : Prop :=
  match cc with
  | .eq => a = b
  | .ne => a ≠ b
  | .lt => a.toInt < b.toInt
  | .ge => b.toInt ≤ a.toInt
  | .le => a.toInt ≤ b.toInt
  | .gt => b.toInt < a.toInt
  | .ltn => a.toNat < b.toNat
  | .gen => b.toNat ≤ a.toNat
  | .len => a.toNat ≤ b.toNat
  | .gtn => b.toNat < a.toNat

/-- The count or position of format XS (R177). -/
def position (s : State) : RegOrSh → Nat
  | .reg b => (s.me.sreg b).toNat % 64
  | .imm sh => sh.toNat

/-- A transfer taken at schedule cy t redirects the fetch of the bundle at t + 3 (R59, R271). -/
def redirected (s : State) (target : Nat) (wide land : Bool) (frame : Option Nat) (link : Option (Nat × Nat)) : State :=
  s.modMe (fun t => { t with plat := { t.plat with redirects := t.plat.redirects ++
    [{ due := t.sclk + 3, target := target, wide := wide, land := land, frame := frame, link := link, from_ := t.bpos }] } })

/-- A cause is raised at the bundle under way, in the state before it (R62). -/
def raised (s : State) (e : Exc) : Out := .next (s.raiseAt s.cur s.ctx e s.me.bpos s.me.bpos)

/-- A result in the active lanes of `d` (R185). -/
def laneResult (s : State) (u : VUnit) (lat : Nat) (d : VReg) (m : MReg) (ty : Ty) (f : Nat → Nat) : Out :=
  result s u.slot.num lat [wLanes d ty.bits ty.lanes (maskBit (s.me.mreg m) ty.bits) f]

/-- A rounded result in the active lanes of `d`: under SR the bundle draws once, and lane `e` draws with its number (R80, R186). -/
def rounded (s : State) (u : VUnit) (lat : Nat) (rnd : Rnd) (d : VReg) (m : MReg) (ty : Ty) (f : Rc → Nat → Nat) : Out :=
  let mode := rndMode rnd s.me.ctl.fmt
  issued (drew (mode == 5)
    (s.fixed u.slot.num lat [wLanes d ty.bits ty.lanes (maskBit (s.me.mreg m) ty.bits) (fun e => f (s.me.rc mode e) e)]))

/-- A comparison's outcome in every bit of each active lane of a mask (R190). -/
def maskResult (s : State) (u : VUnit) (lat : Nat) (d m : MReg) (ty : Ty) (f : Nat → Bool) : Out :=
  let eb := ty.bits / 8
  let on := lanesMask eb ty.lanes (maskBit (s.me.mreg m) ty.bits)
  result s u.slot.num lat
    [.m d.toNat (BitVec.ofNat 256 (lanesBuild eb ty.lanes (fun e => if f e then 2 ^ eb - 1 else 0) &&& on)) (BitVec.ofNat 256 on)]

/-- No store of the strand waits on a page fault (R102). -/
abbrev StoresClear (s : State) : Prop := ∀ r ∈ s.me.stores, r.parked = false

/-- The place of `n` bytes at address `x` of a space that passes the checks of R179 and R165. -/
def Reach (s : State) (as_ : Space) (x n : Nat) (loc : Loc) : Prop :=
  x % n = 0 ∧ match as_ with
    | .sp => x + n ≤ Config.spBytes ∧ (s.core s.cur).guarded x n = false ∧ loc = .sp s.cur x
    | .gl => fld x 63 57 = (if bit x 56 then 127 else 0) ∧ loc = .gl x
    | .cl => x / 2 ^ 23 = 0 ∧ x % 2 ^ 21 + n ≤ Config.spBytes ∧
        s.partOf (s.cur / 4 * 4 + x / 2 ^ 21 % 4) = some s.me.part ∧ loc = .sp (s.cur / 4 * 4 + x / 2 ^ 21 % 4) (x % 2 ^ 21)

/-- Whether a store is held in the region store gate (R326). -/
def gatedStore (s : State) (ps : List SPiece) : Bool :=
  !s.me.frames.isEmpty && s.me.handler.isNone && ps.any (fun q => match q.loc with | .gl _ => true | .sp .. => false)

/-- The core's region store gate has the entries that a store needs (R326). -/
abbrev GateRoom (s : State) (ps : List SPiece) : Prop := gatedStore s ps = true → gateBlocks ps ≤ (s.core s.cur).gateFree

/-- A store has taken its entry: in the store queue, or held in the gate at the region's depth (R166, R326). -/
def entered (s : State) (ps : List SPiece) (at_ : MAttr) (cl : Bool) (handle : Nat := 0) : State :=
  if ps = [] then s
  else
    let t := s.me
    let g := gatedStore s ps
    s.setMe { t with
      seq := t.seq + 1,
      stores := t.stores ++
        [{ seq := t.seq, pos := t.seq, pieces := ps, cls := at_.cls.toNat, sc := at_.sc, cl := cl, pc := t.bpos, handle := handle,
           depth := if g then t.frames.length else 0, gate := if g then gateBlocks ps else 0 }] }

/-- The strand has room in its store queue, and no store of it waits on a page fault (R102, R166). -/
abbrev StoreRoom (s : State) : Prop := StoresClear s ∧ s.me.queueFull = false

/-- A load's latency: own scratchpad, cluster, global; a stash hit is served as own scratchpad (R55, R141). -/
def latency (s : State) (as_ : Space) (sp cl gl : Nat) (ps : List Piece) : Nat :=
  match as_ with
  | .sp => sp
  | .cl => cl
  | .gl => if s.stashHit ps then sp else gl

/-- The space of a pattern's AS field (R42). -/
def spaceOf (as_ : Nat) : Space := if as_ = 0 then .sp else if as_ = 2 then .cl else .gl

/-- A load whose access is performed when its result arrives (R56). -/
def loading (s : State) (lat : Nat) (kind : LoadKind) (ps : List Piece) (at_ : MAttr) (as_ : Space) : Out :=
  issued (s.variable 2 lat { kind := kind, pieces := ps, cls := at_.cls.toNat, sc := at_.sc, cl := as_ == .cl })

/-- What every bundle but an MTC, an EXIT, a YIELD and an ERET finds: nothing else is to happen after it. -/
abbrev Plain (s : State) : Prop := s.me.post = 0 ∧ s.me.pend = none

/-- Context `x` of core `c` is to issue a bundle at its fetch position: nothing of R268 and R323 comes before it. -/
abbrev Issuing (s : State) (c x : Nat) : Prop :=
  let k := s.core c
  let t := s.strand c x
  k.stopped = false ∧ k.portAt ≤ s.cy ∧ k.active = some x ∧ t.resident = true ∧ t.exited = false ∧ t.stopped = false ∧
  t.leaves s.cy = false ∧ t.fault = none ∧ t.dict = none ∧ t.rolling = none ∧ t.trapping = none ∧ t.eret = false ∧
  t.ssWait = none ∧ t.due = [] ∧ t.redirectDue = false ∧ t.reports = [] ∧ t.idle = 0

/-- The state in which the port of core `c` fetches for context `x`, once its turn has been taken from the agenda. -/
def readied (s : State) (r : List Turn) (c x : Nat) : State :=
  ({ s with agenda := r, cur := c } : State).modStrand c x (fun t => { t with post := 0 })

/-- Main memory, the L2 and what is recorded of them. -/
def SameMemory (s t : State) : Prop :=
  t.hbm = s.hbm ∧ t.lines = s.lines ∧ t.l2 = s.l2 ∧ t.pmap = s.pmap ∧ t.remaps = s.remaps ∧ t.leases = s.leases ∧ t.scrub = s.scrub

/-- The package outside the cores. -/
def SamePackage (s t : State) : Prop :=
  t.node = s.node ∧ t.parts = s.parts ∧ t.clusters = s.clusters ∧ t.hk = s.hk ∧ t.kryel = s.kryel ∧ t.flights = s.flights ∧
  t.windows = s.windows ∧ t.frames = s.frames ∧ t.replies = s.replies ∧ t.agenda = s.agenda

/-- A core's scratchpad, tiles, dictionary and engines. -/
def SameCore (k k' : Core) : Prop :=
  k'.sp = k.sp ∧ k'.spBad = k.spBad ∧ k'.tiles = k.tiles ∧ k'.tPoison = k.tPoison ∧ k'.tOver = k.tOver ∧ k'.dict = k.dict ∧
  k'.pool = k.pool ∧ k'.soft = k.soft ∧ k'.descs = k.descs ∧ k'.copies = k.copies ∧ k'.trigs = k.trigs ∧ k'.kiln = k.kiln ∧ k'.gath = k.gath ∧
  k'.chans = k.chans ∧ k'.stash = k.stash

/-- Every context of the package but the issuing one. -/
def OtherStrands (s t : State) : Prop := ∀ c x, ¬ (c = s.cur ∧ x = s.ctx) → t.strand c x = s.strand c x

/-- Control registers that an issue leaves alone: all but FMT, which a pending SETFMT may change, and RCTR (R80, R89). -/
def SameCtl (a b : Ctl) : Prop :=
  b.spillBase = a.spillBase ∧ b.spillSize = a.spillSize ∧ b.regionBase = a.regionBase ∧ b.regionSize = a.regionSize ∧
  b.cf = a.cf ∧ b.rseed = a.rseed ∧ b.sherr = a.sherr ∧ b.rgnCause = a.rgnCause ∧ b.ttbase = a.ttbase ∧
  b.ttcount = a.ttcount ∧ b.dbase = a.dbase

/-- Recovery, barriers and memory accesses of a strand. -/
def SameWork (a b : Strand) : Prop :=
  b.frames = a.frames ∧ b.handler = a.handler ∧ b.out = a.out ∧ b.stores = a.stores ∧ b.fences = a.fences ∧ b.kseq = a.kseq

/-- What a command is given at issue (R139, R143, R144): its strand, its attributes, FMT and RSEED, and the tokens it waits for;
one already in ERROR fails it. -/
def Commanded (s : State) (m : Cmd) (e : EAttr) : Prop :=
  let t := s.me
  let ks := [e.ka.toNat, e.kb.toNat, e.kc.toNat].filter (fun k => k != 0)
  m.phase = .queued ∧ m.err = none ∧ m.cursor = 0 ∧ m.part = t.part ∧ m.lid = t.lid ∧ m.gang = t.gang ∧ m.sid = t.sid ∧ m.ctx = s.ctx ∧
  m.kp = e.kp.toNat ∧ m.cls = e.cls.toNat ∧ m.sc = e.sc ∧ m.fmt = t.ctl.fmt ∧ m.rseed = t.ctl.rseed ∧
  m.waits = ks.filter (fun k => t.tok k == .armed) ∧ (m.failed = true ↔ ∃ k ∈ ks, ∃ c, t.tok k = .error c)

/-- A command has entered a queue of its core, and kp is ARMED: no register, no other token, no memory and no other strand has
changed. -/
def Queued (s u : State) (q : Core → List Cmd) (m : Cmd) (e : EAttr) : Prop :=
  Commanded s m e ∧ q (u.core s.cur) = q (s.core s.cur) ++ [m] ∧ (e.kp ≠ 0 → u.me.tok e.kp.toNat = .armed) ∧
  (∀ k, k ≠ e.kp.toNat → u.me.tok k = s.me.tok k) ∧ u.me.regs = s.me.regs ∧ u.me.plat = s.me.plat ∧ u.me.ctl = s.me.ctl ∧
  u.me.frames = s.me.frames ∧ u.me.stores = s.me.stores ∧ (u.core s.cur).sp = (s.core s.cur).sp ∧
  (u.core s.cur).tiles = (s.core s.cur).tiles ∧ SameMemory s u ∧ SamePackage s u ∧ OtherStrands s u

/-- Main memory in its canonical form: the invariant that every step keeps. -/
abbrev MemoryCanonical (s : State) : Prop := Memory.wf s.hbm = true

/-- The slot operations whose only effect is one result, or two, of a fixed latency in a register file. -/
def registerOnly : Instr → Bool
  | .mfc _ _ _ | .add _ _ _ _ | .sub _ _ _ _ | .addi _ _ _ _ | .mul _ _ _ _ | .mulh _ _ _ _ _ | .div _ _ _ _ _ | .rem _ _ _ _ _
  | .madd _ _ _ _ _ | .and _ _ _ _ | .or _ _ _ _ | .xor _ _ _ _ | .andn _ _ _ _ | .shl _ _ _ _ | .shr _ _ _ _ | .sar _ _ _ _
  | .rot _ _ _ _ | .clz _ _ _ | .popc _ _ _ | .min _ _ _ _ _ | .max _ _ _ _ _ | .sel _ _ _ _ _ | .cmpCc _ _ _ _ _ | .li _ _ _
  | .lih _ _ _ _ | .bfx _ _ _ _ _ | .bfi _ _ _ _ _ | .qset _ _ _ | .qclr _ | .symix _ _ _ _ => true
  | .fadd _ _ _ _ _ _ _ | .fsub _ _ _ _ _ _ _ | .fmul _ _ _ _ _ _ _ | .fma _ _ _ _ _ _ _ _ | .fmin _ _ _ _ _ _
  | .fmax _ _ _ _ _ _ | .fabs _ _ _ _ _ | .fneg _ _ _ _ _ | .frcp _ _ _ _ _ _ | .frsq _ _ _ _ _ _ | .fexp2 _ _ _ _ _ _
  | .flog2 _ _ _ _ _ _ | .fcmp _ _ _ _ _ _ _ | .cvt _ _ _ _ _ _ _ _ | .cvtQ _ _ _ _ _ _ _ _ _ | .cvtDq _ _ _ _ _ _ _ _ _
  | .iadd _ _ _ _ _ _ | .isub _ _ _ _ _ _ | .imul _ _ _ _ _ _ | .imad _ _ _ _ _ _ _ | .iaddSat _ _ _ _ _ _ | .isubSat _ _ _ _ _ _
  | .vmacI8 _ _ _ _ _ _ _ _ | .vdot4I8 _ _ _ _ _ _ _ | .vrshr _ _ _ _ _ _ _ _ | .vand _ _ _ _ _ _ | .vor _ _ _ _ _ _
  | .vxor _ _ _ _ _ _ | .vandn _ _ _ _ _ _ | .vshl _ _ _ _ _ _ | .vshr _ _ _ _ _ _ | .vsar _ _ _ _ _ _ | .vperm _ _ _ _ _ _ _ _
  | .vbcast _ _ _ _ _ | .vsel _ _ _ _ _ _ | .vred _ _ _ _ _ _ _ | .vscan _ _ _ _ _ _ _ _ | .vcmp _ _ _ _ _ _ _ | .mand _ _ _ _
  | .mor _ _ _ _ | .mnot _ _ _ | .mpopc _ _ _ _ | .vmovS _ _ _ _ _ | .vmovV _ _ _ _ _ | .vrand _ _ _ _ _ | .accRd _ _ _ _ _ _
  | .accWr _ _ _ _ _ _ => true
  | _ => false

end Sys2Proof.Safety
end

