-- ==== Sys2Proof/Certificates/Slice0/Obligations.lean ====
section
/-! DEFINITION. The statements about the machine for the provers. -/

open Sys2Proof Sys2Proof.Machine Sys2Proof.Safety

/-! Encodings, and what a step runs. -/

/-- R36 to R54: the word of every well-formed slot operation decodes, in its slot, to that operation with every operand. -/
def Obligations.EncodeDecode : Prop :=
  ∀ (i : Instr) (sl : Slot) (w : Word), wellFormed i = true → encode i = some (sl, w) → decodeSlot true sl w = .ok i

/-- R48, R61, R62: a word that decodes in a slot is the one word of a well-formed operation of that slot, so a reserved bit or
value never falls through to a neighbour. -/
def Obligations.DecodeEncode : Prop :=
  ∀ (sys : Bool) (i : Instr) (sl : Slot) (w : Word), decodeSlot sys sl w = .ok i →
    encode i = some (sl, w) ∧ wellFormed i = true

/-- Words of each family: those that R49, R137 and R178 work out to the bit, and three written out from R43, R45, R46 and R47. -/
def Obligations.DecodeWords : Prop :=
  decodeSlot false .C 0x0080_0000_0000_0000 = .ok (.nop .C true) ∧
  decodeSlot false .C 0x0802_0000_0000_0000 = .ok (.wait false 1 0 0 0) ∧
  decodeSlot false .C 0x300E_1A40_0000_0000 = .ok (.add (.inC false) 0x07 0x03 0x12) ∧
  decodeSlot false .X 0x4504_1880_1000_0000 = .ok (.cmpCc .inX .lt 2 3 4) ∧
  decodeSlot false .C 0x3C06_0811_8000_0000 = .ok (.shl (.inC false) 3 1 (.imm 6)) ∧
  decodeSlot false .X 0x601C_0000_0000_0004 = .ok (.qset 7 .none 4) ∧
  decodeSlot false .C 0x1881_A200_2800_0123 = .ok (.rgnBegin true 3 2 1 5 0x123) ∧
  decodeSlot false .M 0x7024_3000_8603_FFF8 = .ok (.ld .sp .b8 false 9 3 0x3FFF8 ⟨0, .core⟩) ∧
  decodeSlot false .M 0x8010_5180_02C0_0000 = .ok (.stashMap 3 4 5 6 ⟨0, .core⟩) ∧
  decodeSlot false .V1 0x9008_3100_2100_0000 = .ok (.fadd .v1 .f32 .fmt 2 3 4 1) ∧
  decodeSlot false .E 0xDE80_0040_0000_0000 = .ok (.accZero 4 ⟨2, 0, 0, 0, 0, .strand⟩) ∧
  decodeSlot false .E 0xE900_C180_0000_4000 = .ok (.chRecv 0 6 ⟨3, 0, 0, 0, 0, .core⟩)

/-- R61 and R62: which slots a major opcode may stand in, checked before anything else of the word; a major shown as a dash in
its own slot class (R50 to R54) and 0xFF in any slot are no opcodes; ERET and DICT.LOAD need the system bit, checked last,
and no other word looks at it.
R62: the slots are decoded in the order C, X, M, V0, V1, E, and the first that is refused decides. -/
def Obligations.Rejections : Prop :=
  (∀ (sys : Bool) (sl : Slot) (w : Word), let maj := (w.extractLsb' 56 8).toNat
      ((1 ≤ maj ∧ maj < 0x30 ∧ sl ≠ .C) ∨ (0x30 ≤ maj ∧ maj < 0x60 ∧ sl ≠ .C ∧ sl ≠ .X) ∨ (0x60 ≤ maj ∧ maj < 0x70 ∧ sl ≠ .X) ∨
       (0x70 ≤ maj ∧ maj < 0x90 ∧ sl ≠ .M) ∨ (0x90 ≤ maj ∧ maj < 0xD0 ∧ sl ≠ .V0 ∧ sl ≠ .V1) ∨
       (0xD0 ≤ maj ∧ maj < 0xFF ∧ sl ≠ .E) → decodeSlot sys sl w = .error .illegalSlot) ∧
      (maj = 0xFF ∨ (sl = .C ∧ (maj ∈ [0x0E, 0x0F, 0x1E, 0x1F] ∨ (0x13 ≤ maj ∧ maj < 0x18) ∨ (0x23 ≤ maj ∧ maj < 0x30))) ∨
        ((sl = .C ∨ sl = .X) ∧ 0x4A ≤ maj ∧ maj < 0x60) ∨ (sl = .X ∧ 0x63 ≤ maj ∧ maj < 0x70) ∨
        (sl = .M ∧ (maj ∈ [0x75, 0x76, 0x77, 0x7F, 0x83] ∨ (0x86 ≤ maj ∧ maj < 0x90))) ∨
        ((sl = .V0 ∨ sl = .V1) ∧ (maj ∈ [0x9D, 0x9E, 0x9F, 0xA1, 0xA2, 0xA3, 0xAD, 0xAE, 0xAF, 0xB7, 0xBB, 0xBF, 0xC7] ∨
          (0xCA ≤ maj ∧ maj < 0xD0))) ∨
        (sl = .E ∧ (maj ∈ [0xD5, 0xD6, 0xD7, 0xDF] ∨ (0xE2 ≤ maj ∧ maj < 0xE8) ∨ (0xED ≤ maj ∧ maj < 0xFF))) →
        decodeSlot sys sl w = .error .reservedOpcode) ∧
      (∀ i, decodeSlot true .C w = .ok i → maj = 0x21 ∨ maj = 0x22 → decodeSlot false .C w = .error .privOpcode) ∧
      (maj ≠ 0x21 → maj ≠ 0x22 → decodeSlot false sl w = decodeSlot true sl w)) ∧
  (∀ (sys : Bool) (b : Bundle) (e : Reject) (sl : Slot),
      decodeBundle sys b = .error (e, sl) ↔
        decodeSlot sys sl (slotWord b sl) = .error e ∧
        ∀ sl', sl'.num < sl.num → ∃ i, decodeSlot sys sl' (slotWord b sl') = .ok i)

/-- The turn of a core whose active strand is to issue fetches its next bundle and runs it: with one operation beside NOPs
(R49), `exec` of that operation; otherwise the slots together. The strand has then moved past the bundle's halfwords (log 1
says whose turn it is). fdb has no breakpoint there (log 101). Only a bundle that cannot issue may give the turn away, to another ready context (R268).
A step takes the agenda's first turn: an event of agents that exist is executed, time passes, and anything else that is no
event leaves the machine as it is (log 1, log 2). A register write of a function whose posted writes wait at its device window waits behind
them (R376, log 59). The other turns are parts of accesses that other agents may see apart (R304), pairs of accesses that mix
(R316), what waits at the host windows, what fdb asks, and a session message that fails at the DOE mailbox (logs 101, 102). -/
def Obligations.StepRunsDecoded : Prop :=
  (∀ (s u : State) (r : List Turn) (c x len : Nat) (b : Bundle) (l : List Instr), c < 256 → s.agenda = .issue c :: r →
      Issuing s c x → let s₁ := readied s r c x
      let t := s₁.strand c x
      s₁.atBreak t = false → s₁.enterCause t true = none → s₁.fetch c x = .bundle u b len → u.enterCause t (bundleLand b) = none →
      decodeBundle (u.sysBit t) b = .ok l → let at_ := u.modStrand c x (fun t' => { t' with bpos := t.pc, pc := t.pc + len, tries := 0 })
      let g := gateOf (l.map slotOp) u
      step s = if g ≠ .go ∧ (t.holds (g == .block) u.cy).leaves u.cy = true ∧ (u.nextReady c x).isSome = true then .next (u.rest c x (g == .block))
        else match soloOf l with
          | some i => exec i at_
          | none => .next (issueBundle (l.map slotOp) at_)) ∧
  (∀ (s : State) (r : List Turn) (i : Instr) (c k n x m p sess : Nat) (b : Bool) (a a' : Mix) (f : FnRef) (op : FdbOp),
      let s₀ : State := { s with agenda := r }
      (s.agenda = .event i :: r → isEvent i = true → wellFormed i = true → s.behind i = none → step s = exec i s₀) ∧
      (s.agenda = .event i :: r → isEvent i = true → wellFormed i = true → s.behind i = some f →
        step s = .next { s with agenda := r, win := s.win ++ [{ fn := f, off := 0, op := .reg i }] }) ∧
      (s.agenda = .event i :: r → isEvent i = false → step s = .next s₀) ∧
      (s.agenda = .tick n :: r → step s = .next { s with agenda := r, cy := s.cy + n }) ∧
      (s.agenda = .part c k n :: r → step s = .next (s₀.enginePart c k n)) ∧
      (s.agenda = .stage k n :: r → step s = .next (s₀.stageTurn k n)) ∧
      (s.agenda = .piece c x k n b :: r → step s = .next (s₀.pieceTurn c x k n b)) ∧
      (s.agenda = .mixed a m a' :: r → step s = .next (s₀.mixedTurn a m a')) ∧
      (s.agenda = .fdb p op :: r → step s = .next (s₀.fdb p op)) ∧
      (s.agenda = .doe f sess :: r → step s = .next (s₀.doeFail f sess)) ∧
      (s.agenda = .window :: r → let t := s₀.winAgain
        (t.dueReg = none → step s = .next t) ∧ ∀ j i', t.dueReg = some (j, i') → step s = exec i' { t with win := ldel t.win j }))

/-- R8 and R345: whatever the state and the turn, the package goes on; no step of it is a stop. -/
def Obligations.PackageNeverStops : Prop :=
  ∀ s : State, ∃ t, step s = .next t

/-- The Reset columns of R97, R104, R287, R297 and R341, and R25: what the registers hold right after reset; no strand is
resident and no page is mapped. The registers whose reset the spec leaves open are not spoken of (log 3). -/
def Obligations.ResetValues : Prop :=
  ∀ (p q i c x : Nat), let s := State.reset
    let f := (s.part p).fu
    f.base = 0 ∧ f.head = 0 ∧ f.tail = 0 ∧ f.fstat = 0 ∧ f.floor = 100000 ∧ f.migres = 0 ∧ f.tlbDone = true ∧ f.ptbase = 0 ∧
    (s.part p).placeCtl = 0x000F424000100001 ∧ (let k : Queue := tget {} (s.part p).queues q; k.base = 0 ∧ k.ctl = 0 ∧ k.tail = 0 ∧ k.head = 0) ∧
    (let w : Watch := tget {} (s.part p).watches i; w.base = 0 ∧ w.ctl = 0 ∧ w.hit = 0 ∧ w.haddr = 0) ∧ (let r : Scrub := tget {} s.scrub i; r.period = 24 ∧ r.ce = 0 ∧ r.ue = 0 ∧ r.tagf = 0 ∧ r.last = 0) ∧
    (s.cluster c).slice = 2000000 ∧ (s.strand c x).resident = false ∧ (s.strand c x).ctl.fmt = 1 ∧ (s.strand c x).ctl.cf = false ∧
    s.hk.ready = 0 ∧ (s.part p).created = false

/-- The empty memory of the reset state is in canonical form. -/
def Obligations.MemoryCanonicalAtReset : Prop :=
  MemoryCanonical State.reset

/-- Every step keeps main memory in canonical form, whatever agent moves: rising addresses, and no byte listed that reads as an
unwritten one. -/
def Obligations.MemoryCanonicalKept : Prop :=
  ∀ s t : State, MemoryCanonical s → step s = .next t → MemoryCanonical t

/-! Issue and landing. -/

/-- R55, R62, R89: a bundle that has issued moves the schedule clock by one, and changes no register, no memory and no other
strand; FMT alone may take a pending SETFMT, and RCTR counts the bundle's draws (R80). -/
def Obligations.IssueFrame : Prop :=
  ∀ s : State, Plain s → let t := s.finish
    t.me.sclk = s.me.sclk + 1 ∧ t.me.regs = s.me.regs ∧ t.me.plat.results = s.me.plat.results ∧
    t.me.plat.redirects = s.me.plat.redirects ∧ t.me.ctl.rctr = s.me.ctl.rctr + BitVec.ofNat 64 s.me.drawn ∧
    SameCtl s.me.ctl t.me.ctl ∧ SameWork s.me t.me ∧ t.me.pc = s.me.pc ∧ SameMemory s t ∧ SamePackage s t ∧ OtherStrands s t ∧
    (∀ c, SameCore (s.core c) (t.core c)) ∧ s.cy < t.cy ∧
    ((∀ e ∈ s.me.plat.fmts, s.me.sclk + 1 < e.1) → t.me.ctl.fmt = s.me.ctl.fmt)

/-- R55, R57, R62: the frame of the operations that only put results under way: every register keeps its value until a landing, and the
strand's other results, its transfers, its accesses, its regions, memory, the engines and the other strands are unchanged. Of a QSET whose
pool entry has met a soft error (R126), PatternOps speaks. -/
def Obligations.RegisterOnlyFrame : Prop :=
  ∀ (i : Instr) (s t : State), registerOnly i = true → (∀ q bm pool, i = .qset q bm pool → tget 0 (s.core s.cur).soft (poolKey pool.toNat) = 0) →
    Plain s → gateOf [slotOp i] s = .go →
    (∃ u, (slotOp i).run s = .ok u) → exec i s = .next t →
    t.me.regs = s.me.regs ∧ (∃ rs, t.me.plat.results = s.me.plat.results ++ rs ∧ rs.length ≤ 2) ∧
    t.me.plat.redirects = s.me.plat.redirects ∧ SameCtl s.me.ctl t.me.ctl ∧ SameWork s.me t.me ∧ SameMemory s t ∧
    SamePackage s t ∧ OtherStrands s t ∧ (∀ c, SameCore (s.core c) (t.core c))

/-- R38, R102, R114, R268: a bundle that cannot issue has no effect in any slot: its strand stays at its position, its clock
stands, and every register, access and other agent is as before. That one cy of the machine passes is the model's choice (log 5).
R57: a bundle whose results would raise the count of results under way above 32 does not issue.
R38 and R62: each slot checks its causes in the state before the bundle, and the first slot that raises one decides: the bundle has no
effect in any slot, and what follows is what the cause does, in the state before the bundle. -/
def Obligations.BundleRefusals : Prop :=
  (∀ (ops : List SlotOp) (s : State), gateOf ops s ≠ .go → s.me.idle = 0 → let t := issueBundle ops s
      t.me.pc = s.me.bpos ∧ t.me.sclk = s.me.sclk ∧ t.me.regs = s.me.regs ∧ t.me.plat = s.me.plat ∧ t.me.ctl = s.me.ctl ∧
      SameWork s.me t.me ∧ SameMemory s t ∧ SamePackage s t ∧ OtherStrands s t ∧ (∀ c, SameCore (s.core c) (t.core c)) ∧
      t.cy = s.cy + 1 ∧ t.me.hold ≠ .run) ∧
  (∀ (ops : List SlotOp) (s : State), 32 < (ops.map (·.puts s)).sum + s.me.underWay s.cy → gateOf ops s ≠ .go) ∧
  (∀ (ops : List SlotOp) (o : SlotOp) (rest : List SlotOp) (s : State) (e : Exc), gateOf (ops ++ o :: rest) s = .go →
      (∀ p ∈ ops, ∃ u, p.run s = .ok u) → o.run s = .error e →
      issueBundle (ops ++ o :: rest) s = s.raiseAt s.cur s.ctx e s.me.bpos s.me.bpos)

/-- R58: results due at the strand's schedule cy land, and those not due stay; two that name one register set STATUS.CF, and of two
due together that write one register the one of the later (issue, slot) is kept. A landing of one write changes its register and no other
register of any file; without a write none changes. Stated of results that bear no cause, with no transfer due and without strict policy.
R56: while a result that is due has not arrived, nothing lands: the strand is frozen. -/
def Obligations.Landing : Prop :=
  (∀ (c x : Nat) (s : State), let t := s.strand c x
      let due := t.plat.results.filter (fun r => decide (r.due ≤ t.sclk))
      let ws := due.flatMap (fun r => r.writes)
      (∀ r ∈ due, r.arrived = true ∧ r.exc = none) → (∀ r ∈ t.plat.redirects, t.sclk < r.due) → t.dbg.strict = false →
      ∃ u, exec (.resultLanding c x) s = .next u ∧
        u.hbm = s.hbm ∧ u.l2 = s.l2 ∧ u.cy = s.cy ∧
        (u.strand c x).plat.results = t.plat.results.filter (fun r => !decide (r.due ≤ t.sclk)) ∧
        (u.strand c x).ctl.cf = (t.ctl.cf || (twice ((sortResults due).flatMap (fun r => r.writes))).isSome) ∧
        (ws = [] → (u.strand c x).regs = t.regs) ∧
        (∀ w, ws = [w] → (u.strand c x).regs = match w with
          | .g f v => { t.regs with g := tput 0 t.regs.g f v }
          | .s _ e v => if t.regs.low ≤ e ∧ e ≤ t.regs.low + 191 then { t.regs with s := tput 0 t.regs.s e v } else t.regs
          | .v f v m => { t.regs with v := tput 0 t.regs.v f ((tget 0 t.regs.v f &&& ~~~m) ||| (v &&& m)) }
          | .m f v m => if f = 0 then t.regs else { t.regs with m := tput 0 t.regs.m f ((tget 0 t.regs.m f &&& ~~~m) ||| (v &&& m)) }
          | .q f img => { t.regs with q := tput 0 t.regs.q f img }
          | .t _ _ _ _ => t.regs) ∧
        (∀ a b f v w, due = [a, b] ∨ due = [b, a] → a.due = b.due → a.issue < b.issue ∨ (a.issue = b.issue ∧ a.slot < b.slot) →
          a.writes = [.g f v] → b.writes = [.g f w] → tget 0 (u.strand c x).regs.g f = w)) ∧
  (∀ (c x : Nat) (s : State),
      (∃ r ∈ (s.strand c x).plat.results, r.due ≤ (s.strand c x).sclk ∧ r.arrived = false) →
      exec (.resultLanding c x) s = .next s)

/-- R167: a write to m0 is discarded, and m0 reads as all ones whatever the register file holds.
R185: a landing write of lanes gives each active lane of each width its value, and leaves every other lane as it was.
R169: a landing in an entry below LOW goes to its spill slot, one in a resident entry to the register file, and one above
the resident entries nowhere. -/
def Obligations.RegisterLanding : Prop :=
  (∀ (c x : Nat) (v m : MWord) (s : State), landWrite c x (.m 0 v m) s = s ∧ (s.strand c x).mreg 0 = BitVec.allOnes 256) ∧
  (∀ (c x e : Nat) (ty : Ty) (d : VReg) (act : Nat → Bool) (f : Nat → Nat) (s : State), e < ty.lanes →
      laneOf ((landWrite c x (wLanes d ty.bits ty.lanes act f) s).strand c x |>.vreg d) ty.bits e =
        if act e then f e % 2 ^ ty.bits else laneOf ((s.strand c x).vreg d) ty.bits e) ∧
  (∀ (c x f e : Nat) (v : Word) (s : State), let r := (s.strand c x).regs
      (e < r.low → landWrite c x (.s f e v) s =
        s.modCore c (fun k => k.devWrite ((s.strand c x).ctl.spillBase + 8 * e) (natBytes 8 v.toNat))) ∧
      (r.low ≤ e → e ≤ r.low + 191 → ∀ e', tget 0 ((landWrite c x (.s f e v) s).strand c x).regs.s e' =
        if e' = e then v else tget 0 r.s e') ∧
      (r.low + 191 < e → landWrite c x (.s f e v) s = s))

/-! The scalar slots. -/

/-- R175, R174: the format-XR operations. The product of MULH is formed at 128 bits; CLZ and POPC count bits. -/
def Obligations.ScalarArithmetic : Prop :=
  ∀ (u : CxUnit) (d a b c : SReg) (k : MulhKind) (cc : CC) (s : State), Room s 1 →
    let A := s.me.sreg a; let B := s.me.sreg b; let C := s.me.sreg c
    exec (.add u d a b) s = scalar s u 1 d (A + B) ∧ exec (.sub u d a b) s = scalar s u 1 d (A - B) ∧
    exec (.mul u d a b) s = scalar s u 3 d (A * B) ∧ exec (.madd u d a b c) s = scalar s u 3 d (A * B + C) ∧
    exec (.mulh u k d a b) s = scalar s u 3 d (match k with
      | .signed => (A.signExtend 128 * B.signExtend 128).extractLsb' 64 64
      | .natural => (A.zeroExtend 128 * B.zeroExtend 128).extractLsb' 64 64
      | .signedNatural => (A.signExtend 128 * B.zeroExtend 128).extractLsb' 64 64) ∧
    exec (.and u d a b) s = scalar s u 1 d (A &&& B) ∧ exec (.or u d a b) s = scalar s u 1 d (A ||| B) ∧
    exec (.xor u d a b) s = scalar s u 1 d (A ^^^ B) ∧ exec (.andn u d a b) s = scalar s u 1 d (A &&& ~~~B) ∧
    (∃ n : Nat, exec (.clz u d a) s = scalar s u 1 d (BitVec.ofNat 64 n) ∧ n ≤ 64 ∧ (∀ i < n, A.getMsbD i = false) ∧
      (n < 64 → A.getMsbD n = true)) ∧
    exec (.popc u d a) s = scalar s u 1 d (BitVec.ofNat 64 ((List.range 64).countP (fun i => A.getLsbD i))) ∧
    exec (.min u false d a b) s = scalar s u 1 d (if A.toInt ≤ B.toInt then A else B) ∧
    exec (.min u true d a b) s = scalar s u 1 d (if A.toNat ≤ B.toNat then A else B) ∧
    exec (.max u false d a b) s = scalar s u 1 d (if B.toInt ≤ A.toInt then A else B) ∧
    exec (.max u true d a b) s = scalar s u 1 d (if B.toNat ≤ A.toNat then A else B) ∧
    exec (.sel u d a b c) s = scalar s u 1 d (if C ≠ 0 then A else B) ∧
    (holds cc A B → exec (.cmpCc u cc d a b) s = scalar s u 1 d 1) ∧ (¬ holds cc A B → exec (.cmpCc u cc d a b) s = scalar s u 1 d 0)

/-- R176: DIV and REM round their quotient towards zero, with the corners of a zero divisor and of the one overflow. -/
def Obligations.ScalarDivision : Prop :=
  ∀ (u : CxUnit) (d a b : SReg) (s : State), Room s 1 →
    let A := s.me.sreg a; let B := s.me.sreg b
    (B = 0 → ∀ nat, exec (.div u nat d a b) s = scalar s u 18 d (BitVec.allOnes 64) ∧ exec (.rem u nat d a b) s = scalar s u 18 d A) ∧
    (A.toInt = -2 ^ 63 → B.toInt = -1 → exec (.div u false d a b) s = scalar s u 18 d A ∧ exec (.rem u false d a b) s = scalar s u 18 d 0) ∧
    (B ≠ 0 → exec (.div u false d a b) s = scalar s u 18 d (BitVec.ofInt 64 (A.toInt.tdiv B.toInt)) ∧
      exec (.rem u false d a b) s = scalar s u 18 d (BitVec.ofInt 64 (A.toInt - B.toInt * A.toInt.tdiv B.toInt)) ∧
      exec (.div u true d a b) s = scalar s u 18 d (BitVec.ofNat 64 (A.toNat / B.toNat)) ∧
      exec (.rem u true d a b) s = scalar s u 18 d (BitVec.ofNat 64 (A.toNat - B.toNat * (A.toNat / B.toNat))))

/-- R177: the format-XS operations, bit by bit. A field that would pass bit 63 ends there.
R178: the format-XI operations. -/
def Obligations.ScalarShiftsAndImmediates : Prop :=
  (∀ (u : CxUnit) (d a : SReg) (n : RegOrSh) (w : BitVec 6) (s : State), Room s 1 →
      let A := s.me.sreg a; let p := position s n; let wd := w.toNat + 1
      (∃ v, exec (.shl u d a n) s = scalar s u 1 d v ∧ ∀ i < 64, v.getLsbD i = (decide (p ≤ i) && A.getLsbD (i - p))) ∧
      (∃ v, exec (.shr u d a n) s = scalar s u 1 d v ∧ ∀ i < 64, v.getLsbD i = (decide (i + p < 64) && A.getLsbD (i + p))) ∧
      (∃ v, exec (.sar u d a n) s = scalar s u 1 d v ∧ ∀ i < 64, v.getLsbD i = A.getLsbD (min (i + p) 63)) ∧
      (∃ v, exec (.rot u d a n) s = scalar s u 1 d v ∧ ∀ i < 64, v.getLsbD i = A.getLsbD ((i + p) % 64)) ∧
      (∃ v, exec (.bfx u d a n w) s = scalar s u 1 d v ∧ ∀ i < 64, v.getLsbD i = (decide (i < wd ∧ p + i < 64) && A.getLsbD (p + i))) ∧
      (∃ v, exec (.bfi u d a n w) s = scalar s u 1 d v ∧ ∀ i < 64, v.getLsbD i =
        if p ≤ i ∧ i < p + wd then A.getLsbD (i - p) else (s.me.sreg d).getLsbD i)) ∧
  (∀ (u : CxUnit) (d a : SReg) (imm : BitVec 32) (s : State), Room s 1 →
      let A := s.me.sreg a
      exec (.addi u d a imm) s = scalar s u 1 d (A + imm.signExtend 64) ∧ exec (.li u d imm) s = scalar s u 1 d (imm.signExtend 64) ∧
      exec (.lih u d a imm) s = scalar s u 1 d (BitVec.ofNat 64 (imm.toNat * 2 ^ 32 + A.toNat % 2 ^ 32)))

/-- R126, R129, R132: QSET makes the pool entry's image, with the base or origin of its register, and clears HREG; an entry with
single-bit errors is corrected and they are counted, and one with a double-bit error whose copy in memory is bad too raises UNCORRECTABLE;
QCLR empties a register; SYMIX gives the stored offset with its sign and zero, or the multiplicity, of consecutive coordinates. -/
def Obligations.PatternOps : Prop :=
  ∀ (q : QReg) (pool : BitVec 12) (d a b r : SReg) (D : Nat) (bs : List Byte) (ts : List Touch) (s v : State), Room s 1 →
    let key := poolKey pool.toNat; let n := tget 0 (s.core s.cur).soft key; let k := s.core s.cur; let P := (tget 0 k.pool pool.toNat).toNat; let R := (s.me.sreg r).toNat
    let image (v : Nat) : Out := result s 1 2 [.q q.toNat (BitVec.ofNat 512 (qPut v 360 360 0))]
    let h := (s.me.sreg a).toNat % 4096
    exec (.qclr q) s = result s 1 2 [.q q.toNat 0] ∧
    (pool.toNat < k.poolN → qAs P ≠ 3 → 1 ≤ n → n ≤ 8 →
      exec (.qset q .none pool) s =
        result (s.modCore s.cur (fun k => k.mend key)) 1 2 [.q q.toNat (BitVec.ofNat 512 (qPut P 360 360 0))]) ∧
    (pool.toNat < k.poolN → 9 ≤ n → let va := k.poolSrc + 64 * pool.toNat
      s.glRead { part := s.me.part, slot := s.me.part, core := s.cur, agent := 1, node := s.node, own := false } va 64 s.me.bpos = .ok v bs true ts →
      exec (.qset q .none pool) s = raised s { cause := .uncorrectable, aux := va, slot := 1 }) ∧
    (pool.toNat < k.poolN → n = 0 → qAs P ≠ 3 →
      exec (.qset q .none pool) s = image P ∧
      (qKind P = 1 → exec (.qset q (.base r) pool) s = image (qPut P 511 448 (qBase P + R))) ∧
      (qKind P = 2 → qHreg P = false → qHandle P < s.me.ctl.ttcount →
        exec (.qset q (.origin r) pool) s = image (qPut P 511 448 (qBase P + R))) ∧
      (qKind P = 2 → qHreg P = true → R / 2 ^ 52 < s.me.ctl.ttcount →
        exec (.qset q (.origin r) pool) s = image (qPut (qPut P 372 361 (R / 2 ^ 52)) 511 448 (qBase P + R % 2 ^ 52)))) ∧
    (pool.toNat < k.poolN → n = 0 → qAs P = 3 → s.me.ctl.dbase ≠ 0 →
      exec (.qset q .none pool) s = image (qPut (qPut P 381 379 1) 511 448 (s.me.ctl.dbase + qBase P))) ∧
    (h < s.me.ctl.ttcount → s.myDesc 0 h = some D → descOk D = true → b.toNat + dRank D ≤ 0x40 →
      let c := (List.range (dRank D)).map (fun i => (s.me.sreg (b + BitVec.ofNat 6 i)).toNat)
      ((∃ i < dRank D, dExt D i ≤ c.getD i 0) → ∀ mult, exec (.symix mult d a b) s = result s 1 3 [s.me.wS d (BitVec.allOnes 64)]) ∧
      ((∀ i < dRank D, c.getD i 0 < dExt D i) →
        exec (.symix true d a b) s = result s 1 3 [s.me.wS d (BitVec.ofNat 64 (orbitMult D c))] ∧
        exec (.symix false d a b) s = result s 1 3 [s.me.wS d (BitVec.ofNat 64
          ((if (canon D c).2.2 then 2 ^ 63 else 0) + (if (canon D c).2.1 then 2 ^ 62 else 0) + (canon D c).1))]))

/-! Control. -/

/-- R88, R171, R286: MFC reads the value a register has for its own bundle; an MTC is seen by the bundles after its own, unless
it breaks a rule of R170; SETFMT governs the bundles issued from t + 4 on. -/
def Obligations.ControlRegisters : Prop :=
  ∀ (land : Bool) (a : SReg) (cr : BitVec 12) (src : RegOrImm) (s : State),
    let v := s.me.regOrImm src; let n := v.toNat % 2 ^ 32
    (Room s 1 → exec (.mfc land a cr) s = result s 0 1 [s.me.wS a (s.readCr cr.toNat)]) ∧
    (Room s 0 → mtcOk s.me cr.toNat v.toNat = true →
      exec (.mtc land cr src) s = issued (s.modMe (fun t => { t with pend := some (cr.toNat, v) })) ∧
      ∀ u, exec (.mtc land cr src) s = .next u → s.me.post = 0 → 
        (cr = 0x012 → u.me.ctl.rseed = v) ∧ (cr = 0x013 → u.me.ctl.rctr = v) ∧ (cr = 0x010 → u.me.ctl.cf = v.getLsbD 0) ∧
        (cr = 0x009 → u.me.ctl.spillBase = v.toNat) ∧ (cr = 0x00A → u.me.ctl.spillSize = v.toNat) ∧
        (cr = 0x00B → u.me.ctl.regionBase = v.toNat) ∧ (cr = 0x00C → u.me.ctl.regionSize = v.toNat) ∧
        (cr = 0x014 → u.me.ctl.sherr = fld v.toNat 63 50 * 2 ^ 50 + fld v.toNat 31 0) ∧ (cr = 0x021 → (u.core s.cur).stall = v) ∧ (cr = 0x022 → (u.core s.cur).l2loc = v) ∧
        (cr = 0x023 → (u.core s.cur).l2rem = v) ∧ (cr = 0x024 → (u.core s.cur).l2dom = v)) ∧
    (Room s 0 → mtcOk s.me cr.toNat v.toNat = false → exec (.mtc land cr src) s = raised s { cause := .reservedField }) ∧
    (Room s 0 → fmtOk n = true → exec (.setfmt land src) s =
      issued (s.modMe (fun t => { t with plat := { t.plat with fmts := t.plat.fmts ++ [(t.sclk + 4, n)] } }))) ∧
    (Room s 0 → fmtOk n = false → exec (.setfmt land src) s = raised s { cause := .reservedField })

/-- R27, R49, R271, R272, R284: NOP and an idle bundle take a schedule cy; BR, BR.cc, BRI and LOOP redirect the fetch of the
bundle at t + 3; LOOP counts its register down to 0; YIELD lets the core switch.
R285: EXIT ends its strand: nothing in flight is left of it, and the core has no active context. -/
def Obligations.Transfers : Prop :=
  (∀ (land : Bool) (slot : Slot) (cc : CC) (a b : SReg) (tgt : BitVec 24) (s : State),
      let A := s.me.sreg a
      let goes (s : State) := redirected s tgt.toNat false false none none
      (Room s 0 → exec (.nop slot land) s = issued s ∧
        exec .idleBundle s = issued (s.modMe (fun t => { t with idle := t.idle - 1 })) ∧
        exec (.br land tgt) s = issued (goes s) ∧
        (holds cc A (s.me.sreg b) → exec (.brCc land cc a b tgt) s = issued (goes s)) ∧
        (¬ holds cc A (s.me.sreg b) → exec (.brCc land cc a b tgt) s = issued s) ∧
        exec (.bri land a) s = issued (redirected s (A.toNat % 2 ^ 24) (decide (2 ^ 24 ≤ A.toNat)) true none none) ∧
        exec (.yield land) s = issued (s.modMe (fun t => { t with post := 2 }))) ∧
      (Room s 1 →
        (A = 0 → exec (.loop land a tgt) s = issued s) ∧
        (A = 1 → exec (.loop land a tgt) s = issued (s.fixed 0 1 [s.me.wS a 0])) ∧
        (1 < A.toNat → exec (.loop land a tgt) s = issued (goes (s.fixed 0 1 [s.me.wS a (A - 1)]))))) ∧
  (∀ (land : Bool) (s : State), Room s 0 → StoresClear s → s.me.frames = [] → s.me.pend = none →
      ∃ u, exec (.exit land) s = .next u ∧ (u.strand s.cur s.ctx).exited = true ∧ (u.strand s.cur s.ctx).plat = {} ∧
        (u.strand s.cur s.ctx).stores = s.me.stores ∧ (u.core s.cur).active = none ∧ SameMemory s u)

/-- R170, R273, R274: a call whose window fits the spill area records a redirect that carries the callee's frame and the link for the entry below
it; one that does not fit raises ACCESS; RET's redirect carries the frame and the position that the link gives. A spilled link is read as
scratchpad is (R96, R160): corrected, or UNCORRECTABLE where its row is poisoned. That ACCESS of a call or a return has AUX 0 is the model's
choice (log 25).
R59, R169, R273: what a redirect that is due does, with no result due: the fetch goes to the target, an idle run ends, and no register
changes but by the frame. A frame moves FB to it, with the 192 resident entries around it: an entry resident before and after is kept, one that
comes in is read from the spill area and one that goes out is written there. A call's link word then stands in the entry below the frame, where it is
resident or spilled, with the return position of the fetch as it then stands.
R60, R271: the first bundle of a new path. A target that is no start position, or a register target of more than 24 bits, raises
BRANCH_TARGET; an idle escape or a bundle without LAND at the target of an indirect transfer raises LANDING_MISS; TPC is the target
position and EPC the transfer's. -/
def Obligations.Calls : Prop :=
  (∀ (land : Bool) (w : BitVec 6) (tgt : BitVec 24) (a : SReg) (s : State), Room s 0 →
      let A := (s.me.sreg a).toNat; let fb := s.me.regs.fb; let f := fb + w.toNat; let l := s.entryAt (fb - 1)
      let at_ := s.me.ctl.spillBase + 8 * (fb - 1); let spilled := fb ≠ 0 ∧ fb - 1 < s.me.regs.low
      let s' := if spilled then (s.correct s.cur at_ 8).modCore s.cur (fun k => k.noteBanks true at_ 8) else s
      let bad := spilled ∧ (s.core s.cur).spPoison at_ 8 = true
      (8 * (f + 48) ≤ s.me.ctl.spillSize →
        exec (.call land w tgt) s = issued (redirected s tgt.toNat false false (some f) (some (f - 1, w.toNat))) ∧
        exec (.calli land a w) s =
          issued (redirected s (A % 2 ^ 24) (decide (2 ^ 24 ≤ A)) true (some f) (some (f - 1, w.toNat)))) ∧
      (s.me.ctl.spillSize < 8 * (f + 48) →
        exec (.call land w tgt) s = raised s { cause := .access } ∧ exec (.calli land a w) s = raised s { cause := .access }) ∧
      (¬ bad → fb ≠ 0 → l / 2 ^ 63 = 1 → fld l 61 30 = 0 → 1 ≤ fld l 29 24 → fld l 29 24 ≤ fb →
        exec (.ret land) s = issued (redirected s' (l % 2 ^ 24) false (bit l 62) (some (fb - fld l 29 24)) none)) ∧
      (¬ bad → fb = 0 ∨ bit l 63 = false ∨ fld l 61 30 ≠ 0 ∨ fld l 29 24 = 0 ∨ fb < fld l 29 24 →
        exec (.ret land) s = raised s { cause := .access }) ∧
      (bad → exec (.ret land) s = raised s { cause := .uncorrectable, aux := at_ })) ∧
  (∀ (c x : Nat) (r : Redirect) (s : State), let t := s.strand c x
      (∀ q ∈ t.plat.results, t.sclk < q.due) → t.plat.redirects.filter (fun q => decide (q.due ≤ t.sclk)) = [r] →
      ∃ u, exec (.resultLanding c x) s = .next u ∧ u.hbm = s.hbm ∧ u.l2 = s.l2 ∧ u.cy = s.cy ∧
        let v := u.strand c x; let at_ := fun e => t.ctl.spillBase + 8 * e
        v.pc = r.target ∧ v.bpos = r.target ∧ v.idle = 0 ∧ v.enter = some r ∧ v.sclk = t.sclk ∧ v.ctl = t.ctl ∧
        v.plat.results = t.plat.results ∧ v.plat.redirects = t.plat.redirects.filter (fun q => !decide (q.due ≤ t.sclk)) ∧
        v.regs.g = t.regs.g ∧ v.regs.v = t.regs.v ∧ v.regs.m = t.regs.m ∧ v.regs.q = t.regs.q ∧ v.regs.k = t.regs.k ∧
        (r.frame = none → r.link = none → v.regs = t.regs) ∧
        (∀ f, r.frame = some f → v.regs.fb = f ∧ v.regs.low ≤ f ∧ f + 48 ≤ v.regs.low + 192 ∧
          (t.regs.low ≤ f → f + 48 ≤ t.regs.low + 192 → v.regs.low = t.regs.low) ∧
          (∀ e, r.link.map (·.1) ≠ some e → v.regs.low ≤ e → e ≤ v.regs.low + 191 →
            (t.regs.low ≤ e → e ≤ t.regs.low + 191 → tget 0 v.regs.s e = tget 0 t.regs.s e) ∧
            (e < t.regs.low → tget 0 v.regs.s e = BitVec.ofNat 64 (s.spRead64 c (at_ e)))) ∧
          (∀ e, t.regs.low ≤ e → e < v.regs.low → u.spRead64 c (at_ e) = (tget 0 t.regs.s e).toNat) ∧
          (∀ w, r.link = some (f - 1, w) → let word : Word := BitVec.ofNat 64 (2 ^ 63 + w * 2 ^ 24 + t.pc % 2 ^ 24)
            (v.regs.low ≤ f - 1 → tget 0 v.regs.s (f - 1) = word) ∧ (f - 1 < v.regs.low → u.spRead64 c (at_ (f - 1)) = word.toNat)))) ∧
  (∀ (s u : State) (r : List Turn) (c x n len : Nat) (b : Bundle) (rd : Redirect), c < 256 → s.agenda = .issue c :: r → Issuing s c x →
      let s₁ := readied s r c x; let t := s₁.strand c x
      s₁.atBreak t = false → t.enter = some rd →
      (rd.wide = true ∨ s₁.startPos t rd.target = false →
        step s = .next (s₁.raiseAt c x { cause := .branchTarget, slot := rd.slot } t.pc rd.from_)) ∧
      (rd.wide = false → s₁.startPos t rd.target = true → rd.land = true → u.startPos t rd.target = true →
        s₁.fetch c x = .idle u n len ∨ (s₁.fetch c x = .bundle u b len ∧ bundleLand b = false) →
        step s = .next (u.raiseAt c x { cause := .landingMiss, slot := rd.slot } t.pc rd.from_)))

/-- R278, R158: WAIT blocks while a named token is ARMED, raises TOKEN_ERROR on the first in ERROR, and changes no token;
TOK.CLR empties the named tokens, unless one is ARMED. -/
def Obligations.Tokens : Prop :=
  ∀ (land : Bool) (k0 k1 k2 k3 : KReg) (s : State), Room s 0 →
    let ks := [k0.toNat, k1.toNat, k2.toNat, k3.toNat]
    ((∀ k ∈ ks, k ≠ 0 → s.me.tok k = .empty ∨ s.me.tok k = .done) →
      ∃ u, exec (.wait land k0 k1 k2 k3) s = issued u ∧ u.me.regs = s.me.regs ∧ u.me.plat = s.me.plat ∧
        (∀ k ∈ ks, k ≠ 0 → k ∈ u.me.waited)) ∧
    ((∃ k ∈ ks, k ≠ 0 ∧ s.me.tok k = .armed) → exec (.wait land k0 k1 k2 k3) s = .next (s.stay .block)) ∧
    (∀ (k : Nat) (c : Cause) (i : Nat), (∀ j ∈ ks, j ≠ 0 → s.me.tok j ≠ .armed) → ks[i]? = some k → k ≠ 0 → s.me.tok k = .error c →
      (∀ j < i, ∀ k' : Nat, ks[j]? = some k' → k' ≠ 0 → ∀ c', s.me.tok k' ≠ .error c') →
      exec (.wait land k0 k1 k2 k3) s =
        raised s { cause := .tokenError, aux := k + c.code * 2 ^ 8, code := some c.code, inner := some c }) ∧
    ((∀ k ∈ ks, s.me.tok k ≠ .armed) → ∃ u, exec (.tokClr k0 k1 k2 k3) s = issued u ∧
      ∀ k, u.me.tok k = if k ≠ 0 ∧ k ∈ ks then .empty else s.me.tok k)

/-- R280, R281: an arrival is counted in its generation, and the last one releases it; BAR.SS waits before the strand's next
bundle, and its generation may be held (R282); BAR.WAIT completes once nothing of this generation is to be waited for.
R282: a held generation is released once no command of R282 is left, and not before. -/
def Obligations.Barriers : Prop :=
  (∀ (land : Bool) (b : BReg) (s : State), Room s 0 → s.me.frames = [] → s.bound s.me b.toNat = true → s.outNow b.toNat = false →
      let cl := clusterOf s.cur; let k := s.bar cl b.toNat
      let free : Barrier := { k with count := 0, gen := (k.gen + 1) % 2 ^ 32, anySS := false, held := false }
      (∃ u, exec (.barArrive land b) s = issued u ∧ tget none u.me.out b.toNat = some k.gen ∧ u.me.ssWait = s.me.ssWait ∧
        (k.count + 1 ≠ k.expect → u.bar cl b.toNat = { k with count := k.count + 1 }) ∧
        (k.count + 1 = k.expect → k.anySS = false → u.bar cl b.toNat = free)) ∧
      (∃ u, exec (.barSs land b) s = issued u ∧ tget none u.me.out b.toNat = some k.gen ∧ u.me.ssWait = some b.toNat ∧
        (k.count + 1 ≠ k.expect → u.bar cl b.toNat = { k with count := k.count + 1, anySS := true }) ∧
        (k.count + 1 = k.expect → u.bar cl b.toNat = free ∨
          u.bar cl b.toNat = { k with count := k.count + 1, anySS := true, held := true })) ∧
      (∃ u, exec (.barWait land b) s = issued u ∧ tget none u.me.out b.toNat = none ∧ u.me.ssWait = s.me.ssWait ∧
        (∀ j, j ≠ b.toNat → tget none u.me.out j = tget none s.me.out j) ∧ u.clusters = s.clusters)) ∧
  (∀ (cl b : Nat) (s : State), let k := s.bar cl b
      k.held = true →
        (s.superBusy cl b = true → exec (.superstepRelease cl b) s = .next s) ∧
        (s.superBusy cl b = false → ∃ u, exec (.superstepRelease cl b) s = .next u ∧
          u.bar cl b = { k with count := 0, gen := (k.gen + 1) % 2 ^ 32, anySS := false, held := false }))

/-- R328: what raises REGION_EFFECT at issue while a region is open, with no effect. -/
def Obligations.RegionEffects : Prop :=
  ∀ (land : Bool) (b : BReg) (n : NReg) (q qs : QReg) (op : ROp) (ty : Ty) (count : BitVec 4) (e : EAttr) (a t c : SReg) (e0 k : BitVec 12)
    (clr : Bool) (sz : Size) (aop : AOp) (ord : Ord) (sgn : Bool) (off : BitVec 18) (at_ : MAttr) (loc : Loc) (s : State),
    Room s 1 → s.me.frames ≠ [] →
    let re (slot : Nat) : Out := raised s { cause := .regionEffect, slot := slot }
    (s.outNow b.toNat = false → exec (.barArrive land b) s = re 0 ∧ exec (.barWait land b) s = re 0 ∧ exec (.barSs land b) s = re 0) ∧
    (StoresClear s → exec (.exit land) s = re 0) ∧ exec (.dictLoad land a e0 k clr) s = re 0 ∧
    (StoresClear s → s.mAddr 2 1 (s.me.addr a off) (sizeNat sz) = .ok loc →
      exec (.atom .gl sz aop ord sgn t a c off at_) s = re 2) ∧
    ((slotOp (.trig n count q qs e)).gate s = .go → exec (.trig n count q qs e) s = re 5) ∧
    ((slotOp (.chSend n q e)).gate s = .go → exec (.chSend n q e) s = re 5) ∧
    ((slotOp (.chRed op ty n q e)).gate s = .go → exec (.chRed op ty n q e) s = re 5) ∧
    ((slotOp (.chFwd n q e)).gate s = .go → exec (.chFwd n q e) s = re 5)

/-! Recovery regions, checks and traps. -/

/-- R324: RGN.BEGIN issues where no handler runs, a depth is left, its fallback target is a start position and its frame fits; its
region's frame then stands at the undo area's next free byte and holds FMT, RSEED, RCTR, FB and LOW. Each of its refusals, in order.
R327: RGN.END and RGN.END.C issue where no handler runs and the innermost region has their rid. RGN.END passes what an inner
region holds to its parent; the outermost, and RGN.END.C, release it; a wrong rid, or none open, raises REGION_DEPTH. -/
def Obligations.RegionBeginAndEnd : Prop :=
  (∀ (land : Bool) (rid : BitVec 8) (retry abm : BitVec 3) (fs : BitVec 14) (tgt : BitVec 24) (s : State), Room s 0 →
      let t := s.me; let i : Instr := .rgnBegin land rid retry abm fs tgt
      let base := (t.frames.head?.map (fun f => f.end_)).getD t.ctl.regionBase
      let no (c : Cause) (aux : Nat) : Out := raised s { cause := c, aux := aux }
      (t.handler = none → t.frames.length < 8 → s.startPos t tgt.toNat = true → base + 64 * fs.toNat ≤ t.ctl.regionBase + t.ctl.regionSize →
        let f : Frame := { rid := rid.toNat, budget := retry.toNat, abm := abm.toNat, tgt := tgt.toNat, start := base,
                           end_ := base + 64 * fs.toNat, fill := 64, fmt := t.ctl.fmt, rseed := t.ctl.rseed,
                           rctr := t.ctl.rctr, fb := t.regs.fb, low := t.regs.low, seq := t.seq }
        exec i s = .next ((s.modMe (fun t => { t with frames := f :: t.frames })).undoWrite base 64).finish) ∧
      (t.handler.isSome = true → exec i s = no .fatal 0) ∧
      (t.handler = none → (8 ≤ t.frames.length → exec i s = no .regionDepth 0) ∧
        (t.frames.length < 8 → (s.startPos t tgt.toNat = false → exec i s = no .branchTarget 0) ∧
          (s.startPos t tgt.toNat = true → t.ctl.regionBase + t.ctl.regionSize < base + 64 * fs.toNat → exec i s = no .regionFull 1)))) ∧
  (∀ (land : Bool) (rid : BitVec 8) (f : Frame) (rest : List Frame) (s : State), Room s 0 →
      let t := s.me; let d := t.frames.length
      let both (o : Out) : Prop := exec (.rgnEnd land rid) s = o ∧ exec (.rgnEndC land rid) s = o
      let released (u : State) : Prop :=
        u.me.frames = rest ∧ u.me.regs = t.regs ∧ (∀ r ∈ u.me.stores, r.depth < d) ∧ (∀ r ∈ t.stores, r.depth < d → r ∈ u.me.stores) ∧
        (∀ r ∈ t.stores, d ≤ r.depth → ∃ r' ∈ u.me.stores, r'.depth = 0 ∧ r'.pieces = r.pieces ∧ r'.cls = r.cls ∧ r'.sc = r.sc) ∧
        (u.core s.cur).copies = (s.core s.cur).copies.map (fun m => if m.ctx = s.ctx ∧ d ≤ m.depth then { m with depth := 0, held := false } else m)
      let passed (u : State) : Prop :=
        u.me.frames = rest ∧ u.me.regs = t.regs ∧ u.me.stores = t.stores.map (fun r => if r.depth = d then { r with depth := d - 1 } else r) ∧
        (u.core s.cur).copies = (s.core s.cur).copies.map (fun m => if m.ctx = s.ctx ∧ m.depth = d then { m with depth := d - 1 } else m)
      (t.handler = none → t.frames = f :: rest → f.rid = rid.toNat →
        (∃ u, exec (.rgnEndC land rid) s = .next u.finish ∧ released u) ∧
        (rest = [] → ∃ u, exec (.rgnEnd land rid) s = .next u.finish ∧ released u) ∧
        (rest ≠ [] → ∃ u, exec (.rgnEnd land rid) s = .next u.finish ∧ passed u)) ∧
      (t.handler.isSome = true → both (raised s { cause := .fatal })) ∧
      (t.handler = none → t.frames = [] → both (raised s { cause := .regionDepth })) ∧
      (t.handler = none → t.frames = f :: rest → f.rid ≠ rid.toNat → both (raised s { cause := .regionDepth })))

/-- R325: RGN.KEEP appends its entry to the innermost frame: registers as they are at issue, tiles and scratchpad bytes by a
command of the matrix engine and of the Shunter, class 15 at scope CORE; an entry that does not fit raises REGION_FULL. -/
def Obligations.RegionKeep : Prop :=
  ∀ (land : Bool) (f : Frame) (rest : List Frame) (gm : BitVec 16) (sm : BitVec 48) (vm : BitVec 32) (ym : BitVec 8) (q : QReg)
    (kp ka : KReg) (s : State), Room s 0 → s.me.handler = none → s.me.frames = f :: rest →
    let t := s.me
    let kept (keep : Keep) (n : Nat) (es : List KeepEntry) : Prop :=
      exec (.rgnKeep land keep) s = if f.end_ - f.start < f.fill + n then raised s { cause := .regionFull, aux := 1 }
        else issued ((s.setMe { t with frames := { f with fill := f.fill + n, keeps := f.keeps ++ es } :: rest }).undoWrite (f.start + f.fill) n)
    let set (k m : Nat) : List Nat := (List.range k).filter (fun i => m.testBit i)
    (gm ≠ 0 → kept (.g gm) (16 + 16 * ((8 * (set 16 gm.toNat).length + 15) / 16)) ((set 16 gm.toNat).map (fun r => .g r (tget 0 t.regs.g r)))) ∧
    (sm ≠ 0 → kept (.s sm) (16 + 16 * ((8 * (set 48 sm.toNat).length + 15) / 16))
      ((set 48 sm.toNat).map (fun i => .s (t.regs.fb + i) (tget 0 t.regs.s (t.regs.fb + i))))) ∧
    (vm ≠ 0 → kept (.vlo vm) (16 + 256 * (set 32 vm.toNat).length) ((set 32 vm.toNat).map (fun r => .v r (tget 0 t.regs.v r))) ∧
      kept (.vhi vm) (16 + 256 * (set 32 vm.toNat).length) ((set 32 vm.toNat).map (fun r => .v (32 + r) (tget 0 t.regs.v (32 + r))))) ∧
    (let n := 16 + 65536 * (set 8 ym.toNat).length
     ym ≠ 0 → (s.core s.cur).kiln.length < 8 →
      (f.end_ - f.start < f.fill + n → exec (.rgnKeep land (.y ym)) s = raised s { cause := .regionFull, aux := 1 }) ∧
      (f.fill + n ≤ f.end_ - f.start → ∃ u m, exec (.rgnKeep land (.y ym)) s = issued u ∧ (u.core s.cur).kiln = (s.core s.cur).kiln ++ [m] ∧ m.kind = .keepY t.seq ym.toNat ∧
        m.kp = 0 ∧ m.cls = 15 ∧ m.sc = .core ∧ m.ctx = s.ctx ∧
        u.me.frames = { f with fill := f.fill + n, keeps := f.keeps ++ [.pending t.seq] } :: rest)) ∧
    (let i := (t.qreg q).toNat; let n := 80 + 16 * ((qCount i * qSize i + 15) / 16); let sp := State.span s.cur i none
     qKind i = 1 → qAs i = 0 → (kp = 0 ∨ kp ≠ ka) → (s.core s.cur).copies.length < 16 → 0 ≤ patLeast i →
      (if qEs i = 0 then patGreatest i / 2 + 1 else patGreatest i + qSize i) ≤ qLim i → sp.2.2 ≤ Config.spBytes →
      (s.core s.cur).guarded sp.2.1 (sp.2.2 - sp.2.1) = false →
      (f.end_ - f.start < f.fill + n → exec (.rgnKeep land (.p q kp ka)) s = raised s { cause := .regionFull, aux := 1 }) ∧
      (f.fill + n ≤ f.end_ - f.start → (kp = 0 ∨ t.tok kp.toNat ≠ .armed) →
      ∃ u m, exec (.rgnKeep land (.p q kp ka)) s = issued u ∧ (u.core s.cur).copies = (s.core s.cur).copies ++ [m] ∧ m.kind = .keepP t.seq ∧
        m.kp = kp.toNat ∧ m.pd = t.qreg q ∧ m.cls = 15 ∧ m.sc = .core ∧ m.ctx = s.ctx ∧
        (kp ≠ 0 → u.me.tok kp.toNat = .armed) ∧
        u.me.frames = { f with fill := f.fill + n, keeps := f.keeps ++ [.pending t.seq] } :: rest))

/-- R329, R330, R332: RGN.ABORT rolls the innermost region back with cause SOFTWARE. A rollback with budget left, whose keep
commands are done and for which no DRAIN or ACC.ZERO of the region runs on (R239, R240), goes on at the fallback target with the region open, one retry less, and FMT, RSEED, RCTR and the frame of
the RGN.BEGIN; RGN.CAUSE says why. What the frame keeps stands again in its registers, tile or scratchpad, the last entry of a place having it,
what it does not keep stays; the tokens of the region's commands are EMPTY, and its copies are cancelled. With no retry left the parent
rolls back instead (R331); the outermost region closes, and the strand traps with RETRY_EXHAUSTED at the fallback target. -/
def Obligations.Rollback : Prop :=
  ∀ (land : Bool) (code : BitVec 8) (e : Exc) (epc c x : Nat) (f : Frame) (rest : List Frame) (s : State),
    (Room s 0 → s.me.handler = none → s.me.frames ≠ [] →
      exec (.rgnAbort land code) s = .next (s.rollback s.cur s.ctx { cause := .software, code := some code.toNat } s.me.bpos)) ∧
    (Room s 0 → s.me.handler = none → s.me.frames = [] → exec (.rgnAbort land code) s = raised s { cause := .regionDepth }) ∧
    ((s.strand c x).frames = f :: rest → f.budget ≠ 0 → s.rollHeld c x (rest.length + 1) = false →
      let t := (s.rollback c x e epc).strand c x
      t.pc = f.tgt ∧ t.frames = { f with budget := f.budget - 1 } :: rest ∧ t.plat = {} ∧ t.rolling = none ∧ t.sclk = (s.strand c x).sclk + 1 ∧
      (∀ r ∈ t.stores, r.depth < rest.length + 1) ∧ (∀ r ∈ (s.strand c x).plat.results, r.owesWrite = true → r ∈ t.atoms) ∧ t.ctl.fmt = f.fmt ∧ t.ctl.rseed = f.rseed ∧ t.ctl.rctr = f.rctr ∧
      t.regs.fb = f.fb ∧
      t.ctl.rgnCause = e.cause.code * 2 ^ 56 + (e.code.getD e.slot) * 2 ^ 48 + f.rid * 2 ^ 40 + (rest.length + 1) * 2 ^ 36 +
        (f.budget - 1) * 2 ^ 32 + epc % 2 ^ 24) ∧
    ((s.strand c x).frames = f :: rest → f.budget ≠ 0 → s.rollHeld c x (rest.length + 1) = false →
      let b := s.strand c x; let w := s.rollback c x e epc; let t := w.strand c x; let d := rest.length + 1
      (∀ ks r v, f.keeps = ks ++ [.g r v] → tget 0 t.regs.g r = v) ∧ (∀ ks r v, f.keeps = ks ++ [.v r v] → tget 0 t.regs.v r = v) ∧
      (∀ ks i v, f.keeps = ks ++ [.s i v] → f.fb ≤ i → i < f.fb + 48 → f.fb + 48 ≤ b.regs.low + 192 → tget 0 t.regs.s i = v) ∧
      (∀ ks r tile po ov, f.keeps = ks ++ [.y r tile po ov] → tsorted tile = true → tget false (w.core c).tPoison r = po ∧
        tget false (w.core c).tOver r = ov ∧ ∀ i < 16384, tget 0 (w.core c).tiles (r * 16384 + i) = tget 0 tile i) ∧
      (∀ ks at_ cs, f.keeps = ks ++ [.p at_ cs] → (∀ b ∈ cs, b.2.1 = 255) → f.fb + 48 ≤ b.regs.low + 192 →
        ∀ i < cs.length, (w.core c).spByte (at_ + i) = BitVec.ofNat 8 (lget (0, 0, false) cs i).1) ∧
      (∀ r, (∀ v, .g r v ∉ f.keeps) → tget 0 t.regs.g r = tget 0 b.regs.g r) ∧ (∀ r, (∀ v, .v r v ∉ f.keeps) → tget 0 t.regs.v r = tget 0 b.regs.v r) ∧
      (∀ k, k ≠ 0 → d ≤ tget 0 b.kdep k → t.tok k = .empty) ∧ (∀ k, (∀ i, (k, i) ∈ b.kdep → i < d) → t.tok k = b.tok k) ∧
      (∀ m ∈ (w.core c).copies, ∀ l, m.kind = .copy l → m.ctx = x → d ≤ m.depth → m.ended = true)) ∧
    (∀ g r, (s.strand c x).frames = f :: g :: r → f.budget = 0 → g.budget ≠ 0 → s.rollHeld c x (r.length + 1) = false →
      let t := (s.rollback c x e epc).strand c x
      t.pc = g.tgt ∧ t.frames = { g with budget := g.budget - 1 } :: r ∧ t.regs.fb = g.fb ∧
      t.ctl.rgnCause = e.cause.code * 2 ^ 56 + (e.code.getD e.slot) * 2 ^ 48 + g.rid * 2 ^ 40 + (r.length + 1) * 2 ^ 36 +
        (g.budget - 1) * 2 ^ 32 + 2 ^ 24 + epc % 2 ^ 24) ∧
    ((s.strand c x).frames = [f] → f.budget = 0 → s.rollHeld c x 1 = false →
      ∃ v : State, s.rollback c x e epc = v.trap c x { cause := .retryExhausted, aux := e.cause.code, slot := e.slot } f.tgt epc ∧
        (v.strand c x).frames = [] ∧ (v.strand c x).pc = f.tgt ∧ (v.strand c x).plat = {})

/-- R337: CHK and CHK.V compare bit for bit, CHK.V in its active lanes; a difference raises CHECK_FAIL. -/
def Obligations.Checks : Prop :=
  ∀ (land : Bool) (a b : SReg) (v w : VReg) (m : MReg) (ty : Ty) (s : State), Room s 0 →
    let no : Out := raised s { cause := .checkFail }
    let same : Prop := ∀ e < ty.lanes, maskBit (s.me.mreg m) ty.bits e = true → laneOf (s.me.vreg v) ty.bits e = laneOf (s.me.vreg w) ty.bits e
    (s.me.sreg a = s.me.sreg b → exec (.chk land a b) s = issued s) ∧ (s.me.sreg a ≠ s.me.sreg b → exec (.chk land a b) s = no) ∧
    (same → exec (.chkV land v w m ty) s = issued s) ∧ (¬ same → exec (.chkV land v w m ty) s = no)

/-- R334, R336, R339: TRAP traps with cause SOFTWARE: the record stands in the strand's slot, the trapped program's platform and
clock are set aside, and the handler starts at position 0 with s0 the record's address and s1 the cause, 48 entries up. The record, a store
of class 15, waits for the strand's earlier accesses (R307). With no
TRAP.BASE the launch ends ABORTED, as it does for a trap in handler state (R335).
R307, R339: ERET waits, with no effect, until the handler's results have arrived and the strand's accesses are performed, then issues, reads
its record with class 15 and returns; outside a handler it raises ACCESS. ACT 0 with RPC at TPC takes the trapped program up where it stood, its
platform and clock as they were set aside. That it waits for every earlier access, as one of class 15 (log 73, DEDUCED), that an idle run under way
goes on with the bundles it had left (log 23) and that ERET's ACCESS has AUX 0 (log 35) are the model's readings and choices. -/
def Obligations.Traps : Prop :=
  (∀ (land : Bool) (imm : BitVec 16) (s u : State) (bs : List Byte) (bad : Bool) (ts : List Touch), Room s 0 →
      let c := s.cur; let x := s.ctx; let t := s.me; let p := t.part; let e : Exc := { cause := .software, aux := imm.toNat }
      let a := trapSlot (s.part p).trapBase c x
      (t.handler.isSome = true → exec (.trap land imm) s = .next (s.abortLaunch p t.lid 0x3F)) ∧
      (t.handler = none → (s.part p).trapBase = 0 → exec (.trap land imm) s = .next (s.abortLaunch p t.lid 0x30)) ∧
      (t.handler = none → (s.part p).trapBase ≠ 0 → s.busy15 c x = true →
        exec (.trap land imm) s = .next (s.setStrand c x { t with trapping := some (e, t.bpos, t.bpos, false) })) ∧
      (let s₁ := (s.mixSpan c x a 128).1
       t.handler = none → (s.part p).trapBase ≠ 0 → s.busy15 c x = false → (s.mixSpan c x a 128).2 = false →
        s₁.glWrite (s₁.whoOf c x 0) a t.bpos (trapRecord t e t.bpos t.bpos s₁.time) = .ok u bs bad ts →
        let q := u.part (u.strand c x).part; let o := u.strand c x
        q.segStat = 2 → q.trapSeg ≠ 0 → 8 * (o.regs.fb + 96) ≤ o.ctl.spillSize →
        ∃ v h, exec (.trap land imm) s = .next v ∧ let z := v.strand c x
          z.handler = some h ∧ h.plat = o.plat ∧ h.sclk = o.sclk ∧ h.tpc = t.bpos ∧ h.epc = t.bpos ∧ h.cause = .software ∧
          z.plat = {} ∧ z.pc = 0 ∧ z.sclk = 0 ∧ z.regs.fb = o.regs.fb + 48 ∧
          tget 0 z.regs.s (o.regs.fb + 48) = BitVec.ofNat 64 (trapSlot q.trapBase c x) ∧
          tget 0 z.regs.s (o.regs.fb + 49) = 0x30 ∧ v.hbm = u.hbm)) ∧
  (∀ (land : Bool) (s v : State) (h : Shadow) (c x at_ : Nat), 
      (Room s 0 → s.me.handler = none → exec (.eret land) s = raised s { cause := .access }) ∧
      (s.me.handler = some h → (∃ r ∈ s.me.plat.results, r.arrived = false) ∨ s.busy15 s.cur s.ctx = true →
        exec (.eret land) s = .next (s.stay .freeze)) ∧
      (Room s 0 → s.me.handler = some h → (∀ r ∈ s.me.plat.results, r.arrived = true) →
        s.busy15 s.cur s.ctx = false → exec (.eret land) s = issued (s.modMe (fun t => { t with post := 3 }))) ∧
      ((v.strand c x).handler = some h → let t := v.strand c x; let u := (v.eretAct c x 0 h.tpc at_).strand c x
        u.handler = none ∧ u.plat = h.plat ∧ u.sclk = h.sclk ∧ u.pc = h.tpc ∧ u.idle = h.idle ∧ u.enter = none ∧
        u.regs.fb = t.regs.fb - 48 ∧ u.frames = t.frames ∧ u.ctl = t.ctl))

/-- R34: DICT.LOAD holds its strand until its entries are written; one of its entries that can be read, with no access that comes first still
to be performed (R307, R310, R313), is written with its word and becomes valid. A misaligned address raises ALIGN and then a range beyond the
dictionary RESERVED_FIELD; that a non-canonical address raises ACCESS after both is the model's choice (log 117). -/
def Obligations.DictionaryLoad : Prop :=
  ∀ (land clr : Bool) (a : SReg) (e0 n : BitVec 12) (s : State), Room s 0 → s.me.frames = [] →
    let va := (s.me.sreg a).toNat
    (canonical va = true → va % 16 = 0 → e0.toNat + (n.toNat + 1) ≤ 4096 →
      ∃ u, exec (.dictLoad land a e0 n clr) s = issued u ∧ u.me.dict = some (e0.toNat, e0.toNat + (n.toNat + 1), va) ∧
        (clr = true → ∀ i, (tget {} (u.core s.cur).dict i).valid = false)) ∧
    (va % 16 ≠ 0 → exec (.dictLoad land a e0 n clr) s = raised s { cause := .align, aux := va }) ∧
    (va % 16 = 0 → 4096 < e0.toNat + (n.toNat + 1) → exec (.dictLoad land a e0 n clr) s = raised s { cause := .reservedField }) ∧
    (va % 16 = 0 → e0.toNat + (n.toNat + 1) ≤ 4096 → canonical va = false →
      exec (.dictLoad land a e0 n clr) s = raised s { cause := .access, aux := va }) ∧
    (∀ c x e u bs ts, (s.strand c x).fault = none → (s.strand c x).dict = some (e, e + 1, va) → s.owes c x va 48 = false →
      s.mayPerform c x (s.strand c x) ((s.strand c x).dictEvent va) = true →
      let s₁ := (s.mixSpan c x va 48).1
      (s.mixSpan c x va 48).2 = false → s₁.glRead (s₁.whoOf c x 7) va 48 (s.strand c x).bpos = .ok u bs false ts →
      ∃ w, exec (.dictLoadComplete c x) s = .next w ∧ (w.strand c x).dict = none ∧
        tget {} (w.core c).dict e = { valid := true, word := BitVec.ofNat 384 (bytesNat bs), source := va } ∧
        tget 0 (w.core c).soft (dictKey e) = 0)

/-! The M slot. -/

/-- R131, R179 to R182, R133, R211, R138: a load that passes its checks is under way with the latency of its space, and its
register waits for it: scalar, pair, pattern, lanes, the tensor and the packed forms, atomics, and a lease. That an LDV.T all of
whose pieces hit a stash window is due after 8 schedule cy, and that VLD.EXPAND takes its latency from the values that its bitmask
selects at issue, are the model's choices (logs 29, 28). -/
def Obligations.Loads : Prop :=
  ∀ (as_ : Space) (sz : Size) (sgn : Bool) (aop : AOp) (ord : Ord) (t a b c : SReg) (q : QReg) (v : VReg) (m : MReg) (ty : Ty)
    (off : BitVec 18) (fill : Bool) (at_ : MAttr) (s : State), Room s 1 → StoresClear s → s.me.dbg.early = false →
    let n := sizeNat sz; let x := s.me.addr a off; let e := s.me.entry t; let i := (s.me.qreg q).toNat
    let es := (List.range (min (qCount i) ty.lanes)).filter (fun e => maskBit (s.me.mreg m) ty.bits e)
    let keep := BitVec.ofNat 2048 (lanesMask ty.bits ty.lanes (fun e => es.contains e))
    (∀ loc, Reach s as_ x n loc → let ps := rpieces loc n
      exec (.ld as_ sz sgn t a off at_) s = loading s (latency s as_ 6 14 72 ps) (if sz = .b16 then .pair t e else .scalar t e sgn) ps at_ as_ ∧
      ((as_ = .gl → s.me.frames = []) →
        exec (.atom as_ sz aop ord sgn t a c off at_) s = issued (s.variable 2 (latency s as_ 8 16 96 ps)
          { kind := .atom t e aop sgn (s.me.sreg c) (s.me.sreg t), pieces := ps, cls := at_.cls.toNat, sc := at_.sc,
            acq := ord == .acq, rel := ord == .rel, cl := as_ == .cl }))) ∧
    (∀ loc, Reach s as_ x 64 loc → let ps := rpieces loc 64
      exec (.qld as_ q a off at_) s = loading s (latency s as_ 8 14 72 ps) (.image q) ps at_ as_) ∧
    (∀ ls, qKind i = 1 → qEs i = tyEs ty → bytePlaces s i es = .ok ls →
      let ps := ls.flatMap (fun el => repieces el.2 (qSize i) el.1 false)
      qAs i < 3 → exec (.ldv v q m ty at_) s = loading s (latency s (spaceOf (qAs i)) 8 14 72 ps) (.lanes v ty keep) ps at_ (spaceOf (qAs i))) ∧
    (∀ d ls, qKind i = 2 → qHandle i < s.me.ctl.ttcount → s.myDesc 0 (qHandle i) = some d → descOk d = true → ty = dTy d → qEs i = tyEs ty →
      tensorPlaces d i (fun _ => false) es = .ok ls →
      let ps := ls.flatMap (fun el => if el.2.2.2 then [] else repieces (.gl (dAddr d el.2.1).1) (ty.bits / 8) el.1 el.2.2.1)
      exec (.ldvT v q m ty at_) s = issued (s.variable 2 (if s.stashHit ps then 8 else 80)
        { kind := .lanes v ty keep, pieces := ps, cls := at_.cls.toNat, sc := at_.sc, handle := qHandle i })) ∧
    (∀ k ls vs, cursorOf i ty = .ok k → qAs i < 3 → let wp := min ty.lanes (k.n - k.p)
      let rs := [(qBase i, 16), (qBase i + 16 + k.p / 8, (wp + 7) / 8)].filter (fun r => r.2 != 0)
      let zs := ls.zip rs; let ps := zs.flatMap (fun lr => rpieces lr.1 lr.2.2)
      let vals := s.valuesAt i k wp (zs.flatMap (fun lr => if lr.2.1 = qBase i then [] else rpieces lr.1 lr.2.2))
      blockPlaces s (qAs i) rs = .ok ls → (if vals.2 = 0 then .ok [] else blockPlaces s (qAs i) [vals]) = .ok vs →
      let lat := latency s (spaceOf (qAs i)) 8 14 72 (ps ++ vs.flatMap (fun l => rpieces l vals.2))
      let most : Loc := if qAs i = 0 then .sp s.cur vals.1 else if qAs i = 2 then .sp (clCore s.cur vals.1) (vals.1 % 2 ^ 21) else .gl (vals.1 % 2 ^ 64)
      exec (.vldExpand v q m ty at_) s =
        issued (s.variable 2 lat
          { kind := .expand v q ty (s.me.mreg m) (s.me.qreg q), pieces := ps, cls := at_.cls.toNat, sc := at_.sc,
            cl := qAs i == 2, more := if wp = 0 then [] else [(most, wp * k.w)] })) ∧
    exec (.leaseGet t a b c fill at_) s =
      loading s 72 (.lease t e (s.me.sreg a).toNat (s.me.sreg b).toNat (s.me.sreg c).toNat fill) [] at_ .gl

/-- R166, R180, R182, R133, R128, R209, R210, R326: a store that passes its checks takes its entry, in the gate inside a region;
its bytes are those of its register, its active lanes, or the packed block, whose cursor advances. One whose blocks the gate has no entries for
raises REGION_FULL with AUX 0, with no effect. That PACK_OVERRUN comes before the space of the block's bytes is checked (log 70, DEDUCED), and what
NZ of VPACK.END's header is where V is no multiple of the element or the quotient has more than 32 bits (log 105, DESIGN CHOICE), are the model's. -/
def Obligations.Stores : Prop :=
  ∀ (as_ : Space) (sz : Size) (t a : SReg) (q : QReg) (v : VReg) (m : MReg) (ty : Ty) (off : BitVec 18) (at_ : MAttr) (s : State),
    StoreRoom s →
    let n := sizeNat sz; let i := (s.me.qreg q).toNat; let lane (e : Nat) : Nat := laneOf (s.me.vreg v) ty.bits e
    let es := (List.range (min (qCount i) ty.lanes)).filter (fun e => maskBit (s.me.mreg m) ty.bits e)
    let gate (ps : List SPiece) (j : Instr) (o : Out) : Prop :=
      (GateRoom s ps → exec j s = o) ∧ (¬ GateRoom s ps → exec j s = raised s { cause := .regionFull, aux := 0, slot := 2 })
    (∀ loc, Room s 0 → Reach s as_ (s.me.addr a off) n loc →
      let bs := if n = 16 then natBytes 8 (s.me.sreg t).toNat ++ natBytes 8 (s.me.sreg (t + 1)).toNat else natBytes n (s.me.sreg t).toNat
      gate (spieces loc bs) (.st as_ sz t a off at_) (issued (entered s (spieces loc bs) at_ (as_ == .cl)))) ∧
    (∀ ls, Room s 0 → qKind i = 1 → qEs i = tyEs ty → zeroStride i = false → bytePlaces s i es = .ok ls →
      let ps := ls.flatMap (fun el => epieces el.2 el.1 (natBytes (qSize i) (lane el.1)))
      gate ps (.stv v q m ty at_) (issued (entered s ps at_ (qAs i == 2)))) ∧
    (∀ d ls, Room s 0 → qKind i = 2 → qHandle i < s.me.ctl.ttcount → s.myDesc 0 (qHandle i) = some d → descOk d = true → ty = dTy d →
      qEs i = tyEs ty → zeroStride i = false →
      ((∃ e ∈ es, patZero d i e = true ∧ isZeroElem ty (lane e) = false) → (∀ e ∈ es, patZero d i e = true ∨ (patTensor d i e).isSome = true) →
        exec (.stvT v q m ty at_) s = raised s { cause := .symViolation, slot := 2 }) ∧
      (tensorPlaces d i (fun e => !isZeroElem ty (lane e)) es = .ok ls →
        let ws := ls.filter (fun el => !el.2.2.2)
        let last := ws.filter (fun el => !ws.any (fun o => decide (el.1 < o.1) && o.2.1 == el.2.1))
        let ps := last.flatMap (fun el => epieces (.gl (dAddr d el.2.1).1) el.1
          (natBytes (ty.bits / 8) (if el.2.2.1 then applySign ty (lane el.1) else lane el.1)))
        gate ps (.stvT v q m ty at_) (issued (entered s ps at_ false (qHandle i))))) ∧
    (∀ k, Room s 1 → cursorOf i ty = .ok k →
      (let wp := min ty.lanes (k.n - k.p)
       let kept := (List.range wp).filter (fun e => maskBit (s.me.mreg m) ty.bits e && nonZero ty (lane e))
       let parts := [(qBase i + 16 + k.p / 8, 0, bitBytes wp (fun e => kept.contains e)),
         (qBase i + 16 + k.mb + k.v, k.w, kept.flatMap (fun e => natBytes k.w (lane e)))].filter (fun p => p.2.2 != [])
       (qLim i < 16 + k.mb + k.v + kept.length * k.w → exec (.vstPack v q m ty at_) s = raised s { cause := .packOverrun, slot := 2 }) ∧
       (16 + k.mb + k.v + kept.length * k.w ≤ qLim i → ∀ ls, blockPlaces s (qAs i) (parts.map (fun p => (p.1, p.2.2.length))) = .ok ls →
         let ps := (ls.zip parts).flatMap (fun lp => if lp.2.2.1 = 0 then spieces lp.1 lp.2.2.2
           else (List.range (lp.2.2.2.length / k.w)).flatMap (fun e => epieces (lp.1.plus (e * k.w)) (e + 1) ((lp.2.2.2.drop (e * k.w)).take k.w)))
         gate ps (.vstPack v q m ty at_) (result (entered s ps at_ (qAs i == 2)) 2 2
           [.q q.toNat (BitVec.ofNat 512 (cursorPut i (k.v + kept.length * k.w) (k.p + wp)))]))) ∧
      (let e := 16 + k.mb + 16 * ((k.v + 15) / 16); let b := qBase i
       let parts := [(b, natBytes 16 (k.n + k.v / k.w * 2 ^ 32 + (tyCode ty).toNat * 2 ^ 64)),
         (b + 16 + (k.p + 7) / 8, List.replicate (k.mb - (k.p + 7) / 8) 0),
         (b + 16 + k.mb + k.v, List.replicate (e - 16 - k.mb - k.v) 0)].filter (fun p => p.2 != [])
       (qLim i < e → exec (.vpackEnd q ty at_) s = raised s { cause := .packOverrun, slot := 2 }) ∧
       (e ≤ qLim i → ∀ ls, blockPlaces s (qAs i) (parts.map (fun p => (p.1, p.2.length))) = .ok ls →
         let ps := (ls.zip parts).flatMap (fun lp => spieces lp.1 lp.2.2)
         gate ps (.vpackEnd q ty at_) (result (entered s ps at_ (qAs i == 2)) 2 2
           [.q q.toNat (BitVec.ofNat 512 (qPut (qPut (cursorPut i 0 0) 511 448 (b + e)) 447 384 (qLim i - e)))]))))

/-- R139, R140, R142, R183: a FENCE stands between the strand's accesses; STASH.MAP maps its window once it is flushed and
unmapped; STASH.FLUSH takes its place after the strand's accesses; STASH.INV unmaps; LEASE.FREE ends a live lease of the
partition, and any other number has no effect. That STASH.INV unmaps when it issues, before its write-backs are performed, is the
model's choice (log 30). -/
def Obligations.FencesStashesLeases : Prop :=
  ∀ (mask : BitVec 16) (sc : Scope) (w : BitVec 3) (a b c : SReg) (at_ : MAttr) (s : State), Room s 0 → StoresClear s →
    let t := s.me; let base := (t.sreg a).toNat; let va := (t.sreg b).toNat; let len := (t.sreg c).toNat
    let key := dieOf s.cur * 256 + base
    (∃ u, exec (.fence mask sc) s = issued u ∧ u.me.seq = t.seq + 1 ∧ u.me.stores = t.stores ∧
      u.me.fences.getLast? = some { seq := t.seq, mask := mask.toNat, sc := sc }) ∧
    (base % 128 = 0 → va % 128 = 0 → len % 128 = 0 → 1 ≤ len → len ≤ 2 ^ 20 → base + len ≤ Config.spBytes →
      (∀ e ∈ (s.core s.cur).stash, e.1 ≠ w.toNat → e.2.mapped = true →
        meets base len (e.2.base, e.2.len) = false ∧ meets va len (e.2.va, e.2.len) = false) →
      ∃ u, exec (.stashMap w a b c at_) s = issued u ∧
        tget {} (u.core s.cur).stash w.toNat = { mapped := true, part := t.part, base := base, va := va, len := len, cls := at_.cls.toNat, sc := at_.sc,
                                                 lid := t.lid, gang := t.gang }) ∧
    (∃ u, exec (.stashFlush w at_) s = issued u ∧ u.me.seq = t.seq + 1 ∧ SameMemory s u ∧
      u.me.stores = t.stores ++ [{ seq := t.seq, pos := t.seq, pieces := [], cls := at_.cls.toNat, sc := at_.sc, pc := t.bpos,
                                   act := some (w.toNat + 1, []) }]) ∧
    (∃ u, exec (.stashInv w at_) s = issued u ∧ ((tget {} (s.core s.cur).stash w.toNat).mapped = true → tget {} (u.core s.cur).stash w.toNat = {})) ∧
    ((1 ≤ base ∧ base ≤ 255 ∧ (∃ l, tget none s.leases key = some l ∧ l.part = t.part) →
      ∃ u, exec (.leaseFree a at_) s = issued u ∧ tget none u.leases key = none) ∧
     ((base = 0 ∨ 255 < base ∨ (∀ l, tget none s.leases key = some l → l.part ≠ t.part)) → (∀ e ∈ s.leases, ∀ l, e.2 = some l → s.time < l.expiry) →
       exec (.leaseFree a at_) s = issued s))

/-- R56, R166, R180, R181: the arrival of a scalar load, of an ATOM in scratchpad and of a load served by main memory: what they read,
and that nothing lands yet. Stated of a strand with no store and no earlier access to be performed, of an access of which no piece has been read. That the access
is performed at this event is the model's choice (log 12). -/
def Obligations.ResultArrival : Prop :=
  ∀ (c x i c' o n : Nat) (r : Result) (l : LoadOp) (f : SReg) (e : Nat) (sgn : Bool) (va : Nat) (u : State) (bs : List Byte) (ts : List Touch)
    (aop : AOp) (cv old : Word) (s : State),
    let t := s.strand c x
    t.plat.results[i]? = some r → r.load = some l → r.arrived = false → r.faults = [] → r.got = [] → s.mayPerform c x t (r.event l) = true → t.stores = [] → r.gotT = [] →
    (∀ b ∈ t.open_, r.seq ≤ b.seq) →
    let bytes := (s.core c').spBytes o n; let m := bytesNat bytes
    let word (v : Nat) : RegWrite := if f.toNat < 16 then .g f.toNat (BitVec.ofNat 64 v) else .s f.toNat e (BitVec.ofNat 64 v)
    (l.kind = .scalar f e sgn → l.pieces = [{ loc := .sp c' o, n := n }] → l.cl = false → o + n ≤ Config.spBytes → (s.core c').spPoison o n = false →
      ∃ w, exec (.resultArrival c x i) s = .next w ∧
        (w.strand c x).plat.results[i]? = some { r with arrived := true, writes := [word (if sgn then wrap 64 (sext (8 * n) m) else m)] } ∧
        (w.strand c x).regs = t.regs ∧ SameMemory s w) ∧
    (l.kind = .atom f e aop sgn cv old → l.pieces = [{ loc := .sp c' o, n := n }] → l.cl = false → o + n ≤ Config.spBytes →
      (s.core c').spPoison o n = false →
      ∃ w, exec (.resultArrival c x i) s = .next w ∧
        (w.strand c x).plat.results[i]? = some { r with arrived := true, writes := [word (if sgn ∧ n = 4 then wrap 64 (sext 32 m) else m)] } ∧
        ∀ k a, (w.core k).spByte a = if k = c' ∧ o ≤ a ∧ a < o + n then
          (natBytes n (atomNew aop sgn (8 * n) m cv.toNat old.toNat)).getD (a - o) 0 else (s.core k).spByte a) ∧
    (l.kind = .scalar f e sgn → l.pieces = [{ loc := .gl va, n := n }] → t.dbg.mixchk = false → s.mixing = false →
      s.glRead (s.mWho c x) va n r.epc .r = .ok u bs false ts → u.strand c x = t →
      ∃ w, exec (.resultArrival c x i) s = .next w ∧ w.hbm = u.hbm ∧ w.l2 = u.l2 ∧
        (w.strand c x).plat.results[i]? = some { r with arrived := true, writes := [word (if sgn then wrap 64 (sext (8 * bs.length) (bytesNat bs)) else bytesNat bs)] })

/-- R166, R96: a store with no earlier access still to be performed is performed whole, and nothing else of any scratchpad or of main memory changes. In scratchpad its bytes
stand at its offset; through the L2 they stand at the physical address of its page, where the line's set has a way and no window
owns the line, and no map change or save has made the region undefined (R92, R301). -/
def Obligations.StoresPerformed : Prop :=
  ∀ (c x i : Nat) (r : Store) (bs : List Byte) (s : State),
    let t := s.strand c x
    t.stores[i]? = some r → r.depth = 0 → r.act = none → r.done = [] → s.mayPerform c x t r.event = true →
    (∀ b ∈ t.open_, r.seq ≤ b.seq) →
    (∀ c' o, r.pieces = [{ loc := .sp c' o, bytes := bs }] → r.cl = false →
      ∃ u, exec (.storePerformed c x i) s = .next u ∧ (u.strand c x).stores = t.stores.eraseIdx i ∧ (u.strand c x).regs = t.regs ∧ SameMemory s u ∧
        ∀ k a, (u.core k).spByte a = if k = c' ∧ o ≤ a ∧ a < o + bs.length then bs.getD (a - o) 0 else (s.core k).spByte a) ∧
    (∀ va pa slot pl pln ce, r.pieces = [{ loc := .gl va, bytes := bs }] → t.dbg.mixchk = false → s.mixing = false → 0 < bs.length →
      pa % 128 + bs.length ≤ 128 → va % 128 = pa % 128 → (s.core c).window t.part va = none →
      s.translate t.part t.part va .w true = (s, .ok (.hbm pa slot pl pln ce)) →
      (∀ l, tget none s.l2 (pa / 128) = some l → l.slot = slot ∧ ∀ a b d, l.owner ≠ .stash a b d) → s.lapse (pa / 128) = s → (s.remap pa).maps = [] →
      (∀ l, (({ s with l2 := tput none s.l2 (pa / 128) (some l) } : State).blocks l.at_).length ≤ 16) →
      ∃ u, exec (.storePerformed c x i) s = .next u ∧ (u.strand c x).stores = t.stores.eraseIdx i ∧ (u.strand c x).regs = t.regs ∧ u.hbm = s.hbm ∧
        ∀ a, u.peek a = if pa ≤ a ∧ a < pa + bs.length then bs.getD (a - pa) 0 else s.peek a)

/-! The V slots. -/

/-- R188, R189, R190, R75, R77: the float operations: each active lane is computed exactly and rounded once, or chosen without
rounding; a comparison writes a mask.
R189: the special values of FRCP, FRSQ, FEXP2 and FLOG2 in every rounding mode. -/
def Obligations.VectorFloat : Prop :=
  (∀ (u : VUnit) (ty : Ty) (rnd : Rnd) (cc : VCC) (d a b c : VReg) (m md : MReg) (s : State), Room s 1 →
      let A (e : Nat) : Sys2Proof.Machine.Num := decodeF (fmtFtz s.me.ctl.fmt) ty (laneOf (s.me.vreg a) ty.bits e)
      let B (e : Nat) : Sys2Proof.Machine.Num := decodeF (fmtFtz s.me.ctl.fmt) ty (laneOf (s.me.vreg b) ty.bits e)
      let C (e : Nat) : Sys2Proof.Machine.Num := decodeF (fmtFtz s.me.ctl.fmt) ty (laneOf (s.me.vreg c) ty.bits e)
      let rd := rndMode rnd s.me.ctl.fmt == 4
      let sum (f : Nat → Sys2Proof.Machine.Num) : Out := rounded s u 4 rnd d m ty (fun rc e => roundTo rc ty (f e))
      let pick (f : Nat → Sys2Proof.Machine.Num) : Out := laneResult s u 4 d m ty (fun e => roundTo {} ty (f e))
      let un (e : Nat) : Bool := isNan (A e) || isNan (B e)
      exec (.fadd u ty rnd d a b m) s = sum (fun e => addN rd (A e) (B e)) ∧
      exec (.fsub u ty rnd d a b m) s = sum (fun e => addN rd (A e) (negN (B e))) ∧
      exec (.fmul u ty rnd d a b m) s = sum (fun e => mulN (A e) (B e)) ∧
      exec (.fma u ty rnd d a b c m) s = sum (fun e => addN rd (mulN (A e) (B e)) (C e)) ∧
      exec (.fmin u ty d a b m) s = pick (fun e => if un e then .nan else if below (B e) (A e) then B e else A e) ∧
      exec (.fmax u ty d a b m) s = pick (fun e => if un e then .nan else if below (B e) (A e) then A e else B e) ∧
      exec (.fabs u ty d a m) s = pick (fun e => absN (A e)) ∧ exec (.fneg u ty d a m) s = pick (fun e => negN (A e)) ∧
      exec (.frcp u ty rnd d a m) s = rounded s u 12 rnd d m ty (fun rc e => rcpOut rc ty (A e)) ∧
      exec (.frsq u ty rnd d a m) s = rounded s u 12 rnd d m ty (fun rc e => rsqOut rc ty (A e)) ∧
      exec (.fexp2 u ty rnd d a m) s = rounded s u 12 rnd d m ty (fun rc e => exp2Out rc ty (A e)) ∧
      exec (.flog2 u ty rnd d a m) s = rounded s u 12 rnd d m ty (fun rc e => log2Out rc ty (A e)) ∧
      exec (.fcmp u cc ty md a b m) s = maskResult s u 4 md m ty (fun e => match cc with
        | .eq => eqN (A e) (B e) | .ne => un e || !eqN (A e) (B e) | .lt => ltN (A e) (B e) | .gt => ltN (B e) (A e)
        | .ge => !un e && !ltN (A e) (B e) | .le => !un e && !ltN (B e) (A e) | .un => un e | .ord => !un e)) ∧
  (∀ (rc : Rc) (ty : Ty) (m : Nat) (e : Int), 0 < m →
      let inf := infOut ty; let nan := nanOut ty; let zero (neg : Bool) := roundTo rc ty (.fin neg 0 0); let one := roundTo rc ty (.fin false 1 0)
      (∀ neg z, rcpOut rc ty (.fin neg 0 z) = inf neg ∧ rsqOut rc ty (.fin neg 0 z) = inf neg ∧ exp2Out rc ty (.fin neg 0 z) = one ∧
        log2Out rc ty (.fin neg 0 z) = inf true) ∧
      rcpOut rc ty (.inf false) = zero false ∧ rsqOut rc ty (.inf false) = zero false ∧ exp2Out rc ty (.inf false) = inf false ∧
      log2Out rc ty (.inf false) = inf false ∧
      rcpOut rc ty (.inf true) = zero true ∧ rsqOut rc ty (.inf true) = nan ∧ exp2Out rc ty (.inf true) = zero false ∧ log2Out rc ty (.inf true) = nan ∧
      rsqOut rc ty (.fin true m e) = nan ∧ log2Out rc ty (.fin true m e) = nan ∧
      rcpOut rc ty .nan = nan ∧ rsqOut rc ty .nan = nan ∧ exp2Out rc ty .nan = nan ∧ log2Out rc ty .nan = nan)

/-- R191, R192, R71, R72, R70: CVT converts the lanes its part names; CVT.q quantises blocks of 32, and puts a block's scale into c
where any of its lanes is active; CVT.dq decodes under the scale of element L div 32; an unlisted pair raises TYPE_COMBO. -/
def Obligations.VectorConvert : Prop :=
  ∀ (u : VUnit) (tyd tys : Ty) (rnd : Rnd) (d c a b : VReg) (m : MReg) (part : BitVec 4) (s : State),
    let t := s.me; let p := part.toNat; let mode := rndMode rnd t.ctl.fmt; let n := u.slot.num
    let from_ (l : Nat) : Option Nat := if tys.lanes ≤ tyd.lanes then
        (if p * tys.lanes ≤ l ∧ l < (p + 1) * tys.lanes then some (l - p * tys.lanes) else none)
      else some (p * tyd.lanes + l)
    let write (f : Nat → Nat → Nat) : RegWrite := wLanes d tyd.bits tyd.lanes (fun l => (from_ l).isSome && maskBit (t.mreg m) tyd.bits l)
      (fun l => ((from_ l).map (f l)).getD 0)
    (Room s 1 → tyd.isInt = true → tys.isInt = true → exec (.cvt u tyd tys rnd d a m part) s =
      result s n 4 [write (fun _ e => wrap tyd.bits (satI (decodeI tys (laneOf (t.vreg a) tys.bits e)) tyd))]) ∧
    (Room s 1 → (tyd.isInt = false ∨ tys.isInt = false) → exec (.cvt u tyd tys rnd d a m part) s = issued (drew (mode == 5) (s.fixed n 4
      [write (fun l e => roundTo (t.rc mode l) tyd (decodeNum (fmtFtz t.ctl.fmt) tys (laneOf (t.vreg a) tys.bits e)))]))) ∧
    (Room s 2 → (tyd.isNarrow && tys.isF3) = false → exec (.cvtQ u tyd tys rnd d c a m part) s = raised s { cause := .typeCombo, slot := n }) ∧
    (Room s 2 → (tyd.isNarrow && tys.isF3) = true →
      let block (B : Nat) : Nat × List Nat := quantBlock t.ctl.fmt tyd
        ((List.range 32).map (fun i => ((from_ (32 * B + i)).map (t.fl tys a)).getD (.fin false 0 0))) (fun i => t.rc mode (32 * B + i))
      ∃ w w', exec (.cvtQ u tyd tys rnd d c a m part) s = issued (drew (mode == 5) ((s.fixed n 4 [w]).fixed n 4 [w'])) ∧
        w = write (fun l _ => ((if (from_ (32 * (l / 32))).isSome then block (l / 32) else (0, [])).2.getD (l % 32) 0)) ∧
        w' = wLanes c (scaleBits tyd) (tyd.lanes / 32)
          (fun B => (from_ (32 * B)).isSome && (List.range 32).any (fun i => maskBit (t.mreg m) tyd.bits (32 * B + i)))
          (fun B => (if (from_ (32 * B)).isSome then block B else (0, [])).1)) ∧
    (Room s 1 → (tys.isNarrow && tyd.isF3) = false → exec (.cvtDq u tyd tys rnd d a b m part) s = raised s { cause := .typeCombo, slot := n }) ∧
    (Room s 1 → (tys.isNarrow && tyd.isF3) = true → exec (.cvtDq u tyd tys rnd d a b m part) s = issued (drew (mode == 5) (s.fixed n 4
      [write (fun l e => roundTo (t.rc mode l) tyd
        (decodeScaled (fmtFtz t.ctl.fmt) t.ctl.fmt tys (laneOf (t.vreg b) (scaleBits tys) (e / 32)) (laneOf (t.vreg a) tys.bits e)))])))

/-- R193, R194, R195, R190: the integer operations wrap modulo 2^w, those with .SAT clamp, VMAC.I8 and VDOT4.I8 accumulate bytes into
INT32 lanes, VRSHR requantises, and VCMP writes a mask. -/
def Obligations.VectorInteger : Prop :=
  ∀ (u : VUnit) (ty tya tyb : Ty) (cc : VCC) (d a b c : VReg) (m md : MReg) (part : BitVec 2) (sh : BitVec 5) (s : State), Room s 1 →
    let v (ty : Ty) (r : VReg) (e : Nat) : Int := decodeI ty (laneOf (s.me.vreg r) ty.bits e)
    let put (lat : Nat) (f : Nat → Int) : Out := laneResult s u lat d m ty (fun e => (f e % 2 ^ ty.bits).toNat)
    let acc (f : Nat → Int) : Out := laneResult s u 4 d m .s32 (fun e => ((v .s32 d e + f e) % 2 ^ 32).toNat)
    let clamp (x : Int) : Int := if x < minInt ty then minInt ty else if maxInt ty < x then maxInt ty else x
    let p := part.toNat * 64
    exec (.iadd u ty d a b m) s = put 2 (fun e => v ty a e + v ty b e) ∧ exec (.isub u ty d a b m) s = put 2 (fun e => v ty a e - v ty b e) ∧
    exec (.imul u ty d a b m) s = put 4 (fun e => v ty a e * v ty b e) ∧
    exec (.imad u ty d a b c m) s = put 4 (fun e => v ty a e * v ty b e + v ty c e) ∧
    exec (.iaddSat u ty d a b m) s = put 2 (fun e => clamp (v ty a e + v ty b e)) ∧
    exec (.isubSat u ty d a b m) s = put 2 (fun e => clamp (v ty a e - v ty b e)) ∧
    exec (.vmacI8 u tya tyb d a b m part) s = acc (fun e => v tya a (p + e) * v tyb b (p + e)) ∧
    exec (.vdot4I8 u tya tyb d a b m) s = acc (fun e => v tya a (4 * e) * v tyb b (4 * e) + v tya a (4 * e + 1) * v tyb b (4 * e + 1) +
      v tya a (4 * e + 2) * v tyb b (4 * e + 2) + v tya a (4 * e + 3) * v tyb b (4 * e + 3)) ∧
    exec (.vrshr u ty d a b m sh part) s = result s u.slot.num 4 [wLanes d ty.bits ty.lanes
      (fun l => decide (p ≤ l) && decide (l < p + 64) && maskBit (s.me.mreg m) ty.bits l)
      (fun l => (clamp ((if 0 < sh.toNat then (v .s32 a (l - p) + 2 ^ (sh.toNat - 1)) / 2 ^ sh.toNat else v .s32 a (l - p)) + v .s32 b (l - p)) %
        2 ^ ty.bits).toNat)] ∧
    (cc ≠ .un → cc ≠ .ord → exec (.vcmp u cc ty md a b m) s = maskResult s u 2 md m ty (fun e => match cc with
      | .eq => decide (v ty a e = v ty b e) | .ne => decide (v ty a e ≠ v ty b e) | .lt => decide (v ty a e < v ty b e)
      | .ge => decide (v ty b e ≤ v ty a e) | .le => decide (v ty a e ≤ v ty b e) | _ => decide (v ty b e < v ty a e)))

/-- R196, R197, R198: logic, shifts and permutations of lanes. -/
def Obligations.VectorBits : Prop :=
  ∀ (u : VUnit) (ty : Ty) (z : Bool) (d a b c : VReg) (n : VCount) (src : BcastSrc) (m : MReg) (s : State), Room s 1 →
    let w := ty.bits; let A := laneOf (s.me.vreg a) w; let B := laneOf (s.me.vreg b) w; let C := laneOf (s.me.vreg c) w
    let put (lat : Nat) (f : Nat → Nat) : Out := laneResult s u lat d m ty f
    let k (e : Nat) : Nat := match n with | .reg b => laneOf (s.me.vreg b) w e | .imm i => i.toNat
    let size := if ty = .b8 then ty.lanes else 2 * ty.lanes
    exec (.vand u ty d a b m) s = put 2 (fun e => A e &&& B e) ∧ exec (.vor u ty d a b m) s = put 2 (fun e => A e ||| B e) ∧
    exec (.vxor u ty d a b m) s = put 2 (fun e => A e ^^^ B e) ∧ exec (.vandn u ty d a b m) s = put 2 (fun e => A e &&& ((2 ^ w - 1) ^^^ B e)) ∧
    exec (.vshl u ty d a n m) s = put 2 (fun e => if w ≤ k e then 0 else A e * 2 ^ k e) ∧
    exec (.vshr u ty d a n m) s = put 2 (fun e => if w ≤ k e then 0 else A e / 2 ^ k e) ∧
    exec (.vsar u ty d a n m) s = put 2 (fun e => ((sext w (A e)).fdiv (2 ^ min (k e) w) % 2 ^ w).toNat) ∧
    exec (.vperm u z ty d a b c m) s = put 4 (fun e => let i := B e % size
      if z = true ∧ size ≤ B e then 0 else if i < ty.lanes then A i else C (i - ty.lanes)) ∧
    exec (.vbcast u ty d src m) s = put 4 (fun _ => match src with | .lane a i => laneOf (s.me.vreg a) w i.toNat | .scalar r => (s.me.sreg r).toNat) ∧
    exec (.vsel u ty d a b m) s =
      result s u.slot.num 2 [wLanes d w ty.lanes (fun _ => true) (fun e => if maskBit (s.me.mreg m) w e then A e else B e)]

/-- R199 to R206: reductions through the one tree, masks, moves between lanes and scalars, random bits, and half-rows of a tile; ACC.RD
of a poisoned tile raises UNCORRECTABLE when it is due. That the tile's values and its poison are those of the issue is the model's
choice (log 31). -/
def Obligations.VectorMoves : Prop :=
  ∀ (u : VUnit) (o : RedOp) (ex : Bool) (ty : Ty) (rnd : Rnd) (d a : VReg) (r : SReg) (m ma mb md : MReg) (lane : LaneSel) (y : YReg) (hr : HalfRow)
    (seq : BitVec 12) (s : State), Room s 1 →
    let t := s.me; let n := u.slot.num; let w := ty.bits; let W := ty.lanes; let mode := rndMode rnd t.ctl.fmt
    let draws := o.rounds ty && (mode == 5); let x := scanCodes t o ty mode a m; let id := redIdentity o ty
    let mask (v : MWord) : Out := result s n 2 [.m md.toNat v (BitVec.allOnes 256)]
    let i := match lane with | .imm i => i.toNat | .reg b => (t.sreg b).toNat % W
    let h := match hr with | .imm r h => r.toNat + 128 * h.toNat | .reg b => (t.sreg b).toNat % 256
    exec (.vred u o ty rnd d a m) s =
      issued (drew draws (s.fixed n 8 [wLanes d w W (fun e => e == 0) (fun _ => (x.getD (W - 1) none).getD id)])) ∧
    exec (.vscan u o ex ty rnd d a m) s = issued (drew draws (s.fixed n 8 [wLanes d w W (maskBit (t.mreg m) w)
      (fun e => if ex then (if e = 0 then id else (x.getD (e - 1) none).getD id) else (x.getD e none).getD 0)])) ∧
    exec (.mand u md ma mb) s = mask (t.mreg ma &&& t.mreg mb) ∧ exec (.mor u md ma mb) s = mask (t.mreg ma ||| t.mreg mb) ∧
    exec (.mnot u md ma) s = mask (~~~t.mreg ma) ∧
    exec (.mpopc u ty r ma) s = result s n 4 [t.wS r (BitVec.ofNat 64 ((List.range W).countP (fun e => maskBit (t.mreg ma) w e)))] ∧
    exec (.vmovS u ty r a lane) s = result s n 4 [t.wS r (if ty.isSigned then BitVec.ofInt 64 (sext w (laneOf (t.vreg a) w i))
      else BitVec.ofNat 64 (laneOf (t.vreg a) w i))] ∧
    exec (.vmovV u ty d r lane) s = result s n 4 [wLanes d w W (fun e => e == i) (fun _ => (t.sreg r).toNat)] ∧
    exec (.vrand u ty d m seq) s = issued (drew true (s.fixed n 4 [wLanes d w W (maskBit (t.mreg m) w) (fun e =>
      (rand t.ctl.rseed seq.toNat (t.ctl.rctr + BitVec.ofNat 64 t.drawn) e 0).toNat / 2 ^ (64 - w))])) ∧
    (tget false (s.core s.cur).tPoison y.toNat = false ∨ t.handler.isSome = true → exec (.accRd u ty d y hr m) s =
      result s n 6 [wLanes d w W (maskBit (t.mreg m) w)
        (laneOf (BitVec.ofNat 2048 (lanesBuild 32 64 (fun e => ((s.core s.cur).tile y.toNat (h % 128) (64 * (h / 128) + e)).toNat))) 32)]) ∧
    (tget false (s.core s.cur).tPoison y.toNat = true → t.handler = none → ∃ v q, exec (.accRd u ty d y hr m) s = issued v ∧
      v.me.plat.results = t.plat.results ++ [q] ∧ q.due = t.sclk + 6 ∧
      q.exc = some { cause := .uncorrectable, aux := 2 ^ 63 + y.toNat, slot := n }) ∧
    exec (.accWr u ty y a hr m) s =
      result s n 6 [.t y.toNat h (t.vreg a) (BitVec.ofNat 2048 (lanesMask w W (maskBit (t.mreg m) w)))]

/-! Engines. -/

/-- R143 to R145, R148, R150, R156, R157, R237: a copy, a trigger, a gather or a scatter whose checks pass enters its queue with
the snapshots of its patterns and the descriptors read at issue; one that writes global memory in an open region is held. The
first check that fails raises its cause, and an ARMED kp raises TOKEN_REUSE after them.
R145, R149, R237: which check of a copy, a gather or a scatter raises which cause, in order: RESERVED_FIELD of the patterns and tokens, then of the
descriptors' widths, ACCESS of a window or a protected range, PATTERN_DEGENERATE, COPY_OVERLAP. -/
def Obligations.ShunterIssue : Prop :=
  (∀ (o : CRedOp) (ty : Ty) (add f : Bool) (n : NReg) (count : BitVec 4) (qd qs qx : QReg) (e : EAttr) (s : State), Room s 0 →
      let t := s.me; let D := (t.qreg qd).toNat; let S := (t.qreg qs).toNat; let X := (t.qreg qx).toNat
      let word (d : Option Nat) : Option QWord := d.map (BitVec.ofNat 512)
      let takes (i : Instr) (kind : CmdKind) (q : Core → List Cmd) (more : Cmd → Prop) : Prop :=
        (s.reused e = true → exec i s = raised s { cause := .tokenReuse, aux := e.kp.toNat, slot := 5 }) ∧
        (s.reused e = false → ∃ u m, exec i s = issued u ∧ Queued s u q m e ∧ m.kind = kind ∧ m.pd = t.qreg qd ∧ m.ps = t.qreg qs ∧
          m.held = (t.inRegion && toGlobal D) ∧ more m)
      let copy (i : Instr) (kind : CmdKind) (q : Core → List Cmd) (l : Bool) (red : Option (CRedOp × Ty)) : Prop := (slotOp i).gate s = .go →
        (∀ x, copyPlan s D S e l red = .error x → exec i s = raised s x) ∧
        (∀ p, copyPlan s D S e l red = .ok p → takes i kind q (fun m => m.dd = word p.dd ∧ m.ds = word p.ds ∧ m.down = p.down))
      let rows (i : Instr) (kind : CmdKind) (scat : Bool) : Prop := (slotOp i).gate s = .go →
        (∀ x, gatherPlan s ty D S X scat = .error x → exec i s = raised s x) ∧
        (∀ p, gatherPlan s ty D S X scat = .ok p →
          takes i kind (·.gath) (fun m => m.ps1 = t.qreg qx ∧ m.dd = word p.dd ∧ m.ds = word p.ds ∧ m.down = p.move))
      copy (.cpy qd qs e) (.copy false) (·.copies) false none ∧ copy (.cpyL qd qs e) (.copy true) (·.copies) true none ∧
      copy (.cpyRed o ty qd qs e) (.copyRed o ty) (·.copies) false (some (o, ty)) ∧
      (t.frames = [] → copy (.trig n count qd qs e)
        (.trig n.toNat ((s.cnt t.part t.lid t.gang n.toNat + count.toNat + 1) % 2 ^ 32)) (·.trigs) false none) ∧
      rows (.gath f ty qd qs qx e) (.gath f ty) false ∧ rows (.scat add f ty qd qs qx e) (.scat add f ty) true) ∧
  (∀ (o : CRedOp) (ty : Ty) (add f : Bool) (n : NReg) (count : BitVec 4) (qd qs qx : QReg) (e : EAttr) (s : State), Room s 0 →
      let t := s.me; let D := (t.qreg qd).toNat; let S := (t.qreg qs).toNat; let X := (t.qreg qx).toNat
      let no (i : Instr) (c : Cause) : Prop := exec i s = raised s { cause := c, slot := 5 }
      let noAt (i : Instr) : Prop := ∃ a, exec i s = raised s { cause := .access, aux := a, slot := 5 }
      let out (q : Nat) (d : Option Nat) : Prop := s.patAccess q d ≠ none ∨ patLeast q < 0 ∨ (match d with
        | none => (qLim q : Int) < if qEs q = 0 then patGreatest q / 2 + 1 else patGreatest q + qSize q
        | some d => (qLim q : Int) ≤ patGreatest q ∨ (dSize d : Int) ≤ (qBase q : Int) + patGreatest q)
      let width (d : Option Nat) (es : Nat) : Prop := ∃ d', d = some d' ∧ tyEs (dTy d') ≠ es
      let rest (i : Instr) (dd ds : Option Nat) (w a still : Prop) : Prop := (w → no i .reservedField) ∧ (¬ w → a → noAt i) ∧
        (¬ w → ¬ a → still → no i .patternDegenerate) ∧ (¬ w → ¬ a → ¬ still → overlap s.cur D S dd ds = .refused → no i .copyOverlap)
      let copy (i : Instr) (l : Bool) (red : Option (CRedOp × Ty)) : Prop := (slotOp i).gate s = .go →
        let shape : Prop := qKind D = 0 ∨ qKind D = 3 ∨ qKind S = 0 ∨ qKind S = 3 ∨ qEs D ≠ qEs S ∨ qCount D ≠ qCount S ∨ 2 ^ 32 < qCount S ∨
          (e.kp ≠ 0 ∧ (e.kp = e.ka ∨ e.kp = e.kb ∨ e.kp = e.kc))
        (shape → no i .reservedField) ∧
        (¬ shape → (qKind D = 2 → t.ctl.ttcount ≤ qHandle D →
          exec i s = raised s { cause := .access, aux := t.ctl.ttbase + 64 * qHandle D, slot := 5 })) ∧
        (¬ shape → ∀ dd ds, s.patDesc 1 D = .ok dd → s.patDesc 1 S = .ok ds → rest i dd ds
          (width dd (qEs D) ∨ width ds (qEs S) ∨ (∃ r, red = some r ∧ tyEs r.2 ≠ qEs S) ∨ (l = true ∧ qKind D = 1 ∧ qAs D ≠ 1))
          (out D dd ∨ out S ds) (zeroStride D = true ∧ ∀ r, red = some r → r.1 = .adds))
      let rows (i : Instr) (scat : Bool) : Prop := (slotOp i).gate s = .go →
        let tab := if scat then D else S; let row := if scat then S else D
        let form (q : Nat) : Prop := (qKind q = 1 ∨ qKind q = 2) ∧ qNdim q ≤ 2 ∧ qEs q = tyEs ty
        let bad : Prop := ¬ form D ∨ ¬ form S ∨ qKind X ≠ 1 ∨ qAs X ≠ 0 ∨ qEs X ≠ 3 ∨ 2 ^ 20 < qCount X ∨ qDim row 1 ≠ qCount X ∨ qDim row 0 ≠ qDim tab 0
        (bad → no i .reservedField) ∧
        (¬ bad → ∀ dd ds, s.patDesc 1 D = .ok dd → s.patDesc 1 S = .ok ds → rest i dd ds
          (width dd (tyEs ty) ∨ width ds (tyEs ty)) (out D dd ∨ out S ds ∨ out X none) (zeroStride D = true ∨ qStr D 0 = 0))
      copy (.cpy qd qs e) false none ∧ copy (.cpyL qd qs e) true none ∧ copy (.cpyRed o ty qd qs e) false (some (o, ty)) ∧
      (t.frames = [] → copy (.trig n count qd qs e) false none) ∧
      rows (.gath f ty qd qs qx e) false ∧ rows (.scat add f ty qd qs qx e) true)

/-- R213 to R215, R217 to R224, R227, R233 to R235, R240: a command of the matrix engine whose checks pass enters its queue with its
four snapshots; the first check that fails raises its cause.
R215: which check of a command of the matrix engine raises which cause, in its order: RESERVED_FIELD, TYPE_COMBO, BANK_GROUP, ACCESS,
PATTERN_DEGENERATE, each where one of its conditions holds (R47, R71, R217 to R224, R233 to R235). -/
def Obligations.KilnIssue : Prop :=
  (∀ (i f z bs : Bool) (tya tyb : BitVec 5) (y : YReg) (qa qb : QReg) (e : EAttr) (s : State), Room s 0 →
      let t := s.me; let A := tya.toNat; let B := tyb.toNat; let Y := y.toNat
      let word (d : Option Nat) : Option QWord := d.map (BitVec.ofNat 512)
      let takes (ins : Instr) (kind : CmdKind) (more : Cmd → Prop) : Prop :=
        (s.reused e = true → exec ins s = raised s { cause := .tokenReuse, aux := e.kp.toNat, slot := 5 }) ∧
        (s.reused e = false → ∃ u m, exec ins s = issued u ∧ Queued s u (·.kiln) m e ∧ m.kind = kind ∧ more m)
      let operands (m : Cmd) : Prop := m.ps = t.qreg qa ∧ m.ps1 = t.qreg (qa + 1) ∧ m.pd = t.qreg qb ∧ m.pd1 = t.qreg (qb + 1)
      let mma (ins : Instr) (kind : CmdKind) (form : MmaForm) : Prop := (slotOp ins).gate s = .go →
        (∀ x, mmaCheck s form A B qa qb = some x → exec ins s = raised s x) ∧
        (mmaCheck s form A B qa qb = none → takes ins kind (fun m => operands m ∧ m.held = false))
      let tg : Instr := .tgemm tya tyb y qa qb e; let dr : Instr := .drain z bs tya tyb qa y qb e; let tc : Instr := .tcon i tya tyb y qa qb e
      let az : Instr := .accZero y e
      mma (.mma i tya tyb y qa qb e) (.mma i A B Y) .plain ∧ mma (.mmaG f i tya tyb y qa qb e) (.mmaG f i A B Y) .gathered ∧
      mma (.mmaW i tya tyb y qa qb e) (.mmaW i A B Y) .window ∧
      ((slotOp tg).gate s = .go → (∀ x, tgemmCheck s A B qa qb = .error x → exec tg s = raised s x) ∧
        (∀ d, tgemmCheck s A B qa qb = .ok d →
          takes tg (.tgemm A B Y) (fun m => operands m ∧ m.ds1 = word d ∧ m.held = t.inRegion))) ∧
      ((slotOp dr).gate s = .go → (∀ x, drainCheck s bs A B qa qb = .error x → exec dr s = raised s x) ∧
        (∀ d, drainCheck s bs A B qa qb = .ok d → takes dr (.drain z bs A B Y) (fun m =>
          m.pd = t.qreg qa ∧ m.pd1 = t.qreg (qa + 1) ∧ m.ps = t.qreg qb ∧ m.ps1 = t.qreg (qb + 1) ∧ m.dd = word d ∧
          m.held = (t.inRegion && qKind (t.qreg qa).toNat == 2)))) ∧
      ((slotOp tc).gate s = .go → (∀ x, tconCheck s A B qa qb = .error x → exec tc s = raised s x) ∧
        (∀ da db, tconCheck s A B qa qb = .ok (da, db) →
          takes tc (.tcon i A B Y) (fun m => operands m ∧ m.ds = word da ∧ m.dd = word db))) ∧
      ((slotOp az).gate s = .go → takes az (.accZero Y) (fun _ => True))) ∧
  (∀ (i f z bs : Bool) (tya tyb : BitVec 5) (y : YReg) (qa qb : QReg) (e : EAttr) (s : State), Room s 0 →
      let t := s.me; let A := tya.toNat; let B := tyb.toNat; let bsa := fmtBsa t.ctl.fmt = true; let bsb := fmtBsb t.ctl.fmt = true
      let a := (t.qreg qa).toNat; let a1 := (t.qreg (qa + 1)).toNat; let b := (t.qreg qb).toNat; let b1 := (t.qreg (qb + 1)).toNat
      let no (ins : Instr) (c : Cause) : Prop := exec ins s = raised s { cause := c, slot := 5 }
      let first (ins : Instr) (r c g w p : Prop) : Prop := (slotOp ins).gate s = .go → (r → no ins .reservedField) ∧ (¬ r → c → no ins .typeCombo) ∧
        (¬ r → ¬ c → g → no ins .bankGroup) ∧ (¬ r → ¬ c → ¬ g → w → ∃ x, exec ins s = raised s { cause := .access, aux := x, slot := 5 }) ∧
        (¬ r → ¬ c → ¬ g → ¬ w → p → no ins .patternDegenerate)
      let is4 (ty : Nat) : Prop := isTy ty = true ∧ (codeTy ty).bits = 4
      let wrongEs (q ty : Nat) : Prop := isTy ty = true ∧ qEs q ≠ tyEs (codeTy ty)
      let noSp (q : Nat) : Prop := qKind q ≠ 1 ∨ qAs q ≠ 0
      let wrong (q ty : Nat) : Prop := noSp q ∨ 2 < qNdim q ∨ wrongEs q ty ∨ (is4 ty ∧ qStr q 0 ≠ 1)
      let block (q n : Nat) : Prop := noSp q ∨ blockAddr q % n ≠ 0
      let narrow (ty : Nat) : Prop := narrowCode ty = true
      let scale (q m k : Nat) : Prop := noSp q ∨ m % qDim q 1 ≠ 0 ∨ qDim q 0 * qDim q 3 * qDim q 4 < m / qDim q 1 * (k / qDim q 2)
      let scaleTy (q ty : Nat) : Prop := qDim q 1 * qDim q 2 ≠ 32 ∨ (1 < qNdim q ∧ qStr q 1 ≠ 0) ∨ (2 < qNdim q ∧ qStr q 2 ≠ 0) ∨
        qEs q ≠ if codeTy ty = .e2m1 then 2 else 1
      let share (q q' : Nat) : Prop := ∃ g ∈ groupsOf q, g ∈ groupsOf q'
      let at_ (q : Nat) (d : Option Nat) : Prop := s.patAccess q d ≠ none
      let ks := ((pairRow A A).map (·.1)).getD 1; let k := qDim b 0; let n := qDim b 1
      let mma (ins : Instr) (form aBad auxBad aux : Prop) (m : Nat) : Prop := first ins
        (((qa = 31 ∨ qb = 31) ∧ (form ∨ bsa ∨ bsb)) ∨ aBad ∨ wrong b B ∨ auxBad ∨ m = 0 ∨ 128 < m ∨
          (if isTy A = true ∧ codeTy A = .f64 then 64 else 128) < n ∨ k % ks ≠ 0 ∨ 2 ^ 20 < k ∨
          (¬ form ∧ bsa ∧ narrow A ∧ scale a1 m k) ∨ (bsb ∧ narrow B ∧ scale b1 n k))
        ((form ∧ bsa) ∨ pairRow A B = none ∨ (bsa ∧ ¬ narrow A) ∨ (bsb ∧ ¬ narrow B) ∨ (¬ form ∧ bsa ∧ scaleTy a1 A) ∨ (bsb ∧ scaleTy b1 B))
        (share a b ∧ ¬ (¬ form ∧ a = b))
        (at_ a none ∨ at_ b none ∨ aux ∨ (bsa ∧ at_ a1 none) ∨ (bsb ∧ at_ b1 none)) False
      mma (.mma i tya tyb y qa qb e) False (wrong a A ∨ qDim a 0 ≠ k) False False (qDim a 1) ∧
      mma (.mmaG f i tya tyb y qa qb e) True (wrong a A ∨ qDim a 0 ≠ k) (noSp a1 ∨ qEs a1 ≠ 3) (at_ a1 none) (qCount a1) ∧
      mma (.mmaW i tya tyb y qa qb e) True (noSp a ∨ qNdim a ≠ 4 ∨ wrongEs a A ∨ (is4 A ∧ qStr a 0 ≠ 1)) (block a1 32) (s.blockAccess a1 32 ≠ none) 1 ∧
      (∀ d, s.patDesc 2 a1 = .ok d → let m := qDim a 1; let has (P : Nat → Prop) : Prop := ∃ d', d = some d' ∧ P d'
        first (.tgemm tya tyb y qa qb e)
          (qa = 31 ∨ qb = 31 ∨ wrong a A ∨ wrong b B ∨ qDim a 0 ≠ k ∨ qKind a1 ≠ 2 ∨ qBase a1 ≠ 0 ∨ qCount a1 ≠ m * n ∨
            has (fun d => dRank d ≠ 2 ∨ qEs a1 ≠ tyEs (dTy d)) ∨ 65536 < m ∨ 65536 < n ∨ k % ks ≠ 0 ∨ 2 ^ 20 < k ∨ block b1 64 ∨
            has (fun d => (outClasses d).1 ∈ [1, 2, 3] ∧ m ≠ n))
          (bsa ∨ bsb ∨ pairRow A B = none ∨ has (fun d => drainPair (tyCode (((pairRow A B).map (·.2)).getD .f32)).toNat (dEfmt d) = false))
          (share a b ∧ a ≠ b) (at_ a none ∨ at_ b none ∨ at_ a1 d ∨ s.blockAccess b1 64 ≠ none) (zeroStride a1 = true)) ∧
      (∀ d, s.patDesc 2 a = .ok d → let m := qDim a 1; let n := qDim a 0
        first (.drain z bs tya tyb qa y qb e)
          (qb = 31 ∨ (bs = true ∧ qa = 31) ∨ (noSp a ∧ qKind a ≠ 2) ∨ 2 < qNdim a ∨ wrongEs a B ∨ (∃ d', d = some d' ∧ dEfmt d' ≠ B) ∨
            (is4 B ∧ qKind a = 1 ∧ qStr a 0 ≠ 1) ∨ 128 < m ∨ (if A = 0 then 64 else 128) < n ∨ block b 64 ∨
            (bs = true ∧ (scale a1 m n ∨ n % qDim a1 2 ≠ 0)))
          (drainPair A B = false ∨ (bs = true ∧ ¬ narrow B) ∨ (bs = true ∧ scaleTy a1 B)) False
          (at_ a d ∨ s.blockAccess b 64 ≠ none ∨ (bs = true ∧ at_ a1 none))
          (zeroStride a = true ∨ (bs = true ∧ ∃ j ∈ [0, 3, 4], j < qNdim a1 ∧ 1 < qExt a1 j ∧ qStr a1 j = 0))) ∧
      (∀ da db, s.patDesc 2 a = .ok da → s.patDesc 2 b = .ok db →
        let form (q : Nat) : Prop := qKind q = 2 ∧ qBase q = 0 ∧ qNdim q = 1 ∧ qStr q 0 = 1
        let fits (d : Option Nat) (q ty : Nat) : Prop := ∀ d', d = some d' → qExt q 0 = dSize d' ∧ dEfmt d' = ty ∧ qEs q = tyEs (dTy d')
        first (.tcon i tya tyb y qa qb e)
          (¬ form a ∨ ¬ form b ∨ ¬ fits da a A ∨ ¬ fits db b B ∨
            (∃ x z, da = some x ∧ db = some z ∧ (dRank x ≠ dRank z ∨ ∃ j < 6, dExt x j ≠ dExt z j)))
          (A ≠ B ∨ A ∉ [0, 1, 3, 4] ∨ bsa ∨ bsb) False (at_ a da ∨ at_ b db) False))

/-- R249, R250, R252 to R254, R260, R261, R264: a channel command whose checks pass enters the channel queue; the first that fails
raises its cause, TOKEN_REUSE last.
R250: which check of a channel command raises which cause, in its order: REGION_EFFECT of a send, a contribution and a forwarding in an open region;
RESERVED_FIELD of the entry, its MODE, the scope, the tokens and the patterns' form; ACCESS; PATTERN_DEGENERATE of a destination;
TOKEN_REUSE. -/
def Obligations.ChannelIssue : Prop :=
  (∀ (o : ROp) (ty : Ty) (n : NReg) (q : QReg) (e : EAttr) (s : State), Room s 0 →
      let t := s.me; let N := n.toNat
      let chan (i : Instr) (k : CmdKind) (q : QReg) (more : List (Option Nat) → Cmd → Prop) : Prop := (slotOp i).gate s = .go →
        (∀ x, chPlan s k q e = .error x → exec i s = raised s x) ∧
        (∀ ds, chPlan s k q e = .ok ds → ∃ u m, exec i s = issued u ∧ Queued s u (·.chans) m e ∧ m.kind = k ∧ more ds m)
      let src (ds : List (Option Nat)) (m : Cmd) : Prop := m.ps = t.qreg q ∧ m.ds = (lget none ds 0).map (BitVec.ofNat 512)
      let dst (ds : List (Option Nat)) (m : Cmd) : Prop := m.pd = t.qreg q ∧ m.dd = (lget none ds 0).map (BitVec.ofNat 512)
      chan (.chSend n q e) (.chSend N) q src ∧ chan (.chRed o ty n q e) (.chRed o ty N) q src ∧ chan (.chFwd n q e) (.chFwd N) q src ∧
      chan (.chRecv n q e) (.chRecv N false) q dst ∧ chan (.chStat n q e) (.chStat N) q dst ∧
      chan (.chRecvRel n e) (.chRecv N true) 0 (fun _ _ => True)) ∧
  (∀ (o : ROp) (ty : Ty) (n : NReg) (q : QReg) (e : EAttr) (s : State), Room s 0 →
      let t := s.me; let N := n.toNat; let en := s.chan t.part t.lid N; let Q := (t.qreg q).toNat; let Q' := (t.qreg (q + 1)).toNat
      let no (i : Instr) (c : Cause) : Prop := exec i s = raised s { cause := c, slot := 5 }
      let span : Nat := if chPkind en = 0 then (if (s.launch t.part t.lid).c ≤ 1 then 1 else 2) else if chPkind en = 1 then 4 else 5
      let some_ (p : Nat) : Prop := qKind p = 1 ∨ qKind p = 2
      let pay : Prop := some_ Q ∧ qCount Q * qSize Q = chShape en
      let chan (i : Instr) (sends fits form dest : Prop) (pats : List Nat) : Prop := (slotOp i).gate s = .go →
        let r : Prop := chValid en = false ∨ ¬ fits ∨ (scopeCode e.sc).toNat < span ∨ (e.kp ≠ 0 ∧ (e.kp = e.ka ∨ e.kp = e.kb ∨ e.kp = e.kc)) ∨ ¬ form
        (sends → t.frames ≠ [] → no i .regionEffect) ∧ (¬ (sends ∧ t.frames ≠ []) →
          (r → no i .reservedField) ∧
          (¬ r → ∀ ds : List (Option Nat), ds.length = pats.length → (∀ j < pats.length, ∀ p d, pats[j]? = some p → ds[j]? = some d → s.patDesc 1 p = .ok d) →
            let width : Prop := ∃ j d : Nat, ds[j]? = some (some d) ∧ ∀ p, pats[j]? = some p → tyEs (dTy d) ≠ qEs p
            let out : Prop := ∃ (j p : Nat) (d : Option Nat), pats[j]? = some p ∧ ds[j]? = some d ∧ s.patAccess p d ≠ none
            (width → no i .reservedField) ∧ (¬ width → out → ∃ a, exec i s = raised s { cause := .access, aux := a, slot := 5 }) ∧
            (¬ width → ¬ out → dest → (∃ p ∈ pats, zeroStride p = true) → no i .patternDegenerate) ∧
            (¬ width → ¬ out → ¬ (dest ∧ ∃ p ∈ pats, zeroStride p = true) → s.reused e = true →
              exec i s = raised s { cause := .tokenReuse, aux := e.kp.toNat, slot := 5 })))
      let takes : Prop := chMode en ≠ 1 ∨ ∃ g r, s.group t.part t.lid N = some g ∧ g.rank s.node t.gang = some r ∧ (g.member r).2.2 = true
      chan (.chSend n q e) True (chMode en = 0) pay False [Q] ∧
      chan (.chRed o ty n q e) True (chMode en = 1 ∧ chRop en = (ropCode o).toNat ∧ chRty en = (tyCode ty).toNat) pay False [Q] ∧
      chan (.chFwd n q e) True (chMode en = 2) pay False [Q] ∧
      (chNsk en = 0 → chan (.chRecv n q e) False takes pay True [Q]) ∧
      (chNsk en ≠ 0 → chan (.chRecv n q e) False takes (q ≠ 31 ∧ pay ∧ some_ Q' ∧ qEs Q' = 2 ∧ qCount Q' = chNc en) True [Q, Q']) ∧
      chan (.chRecvRel n e) False takes True True [] ∧
      chan (.chStat n q e) False True (qKind Q = 1 ∧ qEs Q = 4 ∧ qCount Q = 4) True [Q])

/-- R85, R143, R144, R147, R152, R153, R157, R213, R214, R219, R221, R222, R224, R226, R227, R230, R231, R233, R237, R238: what the engines'
events do. The oldest ready copy starts where fewer than four run; a sector of one byte is read and written; a copy that has ended
leaves its queue and completes its token, with SHERR on an error; a trigger starts at its count; ACC.ZERO zeroes its tile; a row a
scatter's index does not name writes nothing. A K step of MMA, MMA.G or MMA.W adds to each element of its tile the exact sum of the
step's products, rounded once or wrapped; a DRAIN of one element of a float tile, with neither bias, activation, residual nor dropout,
writes it times SCALE, rounded once; a row of one element that GATH or SCAT moves has its source's bytes, or zeros where GATH's index
lies outside. That an error of a command without a produced token writes SHERR too is the model's choice (log 107). -/
def Obligations.EngineEvents : Prop :=
  ∀ (c i n : Nat) (m : Cmd) (s : State), let k := s.core c
    (4 ≤ (k.copies.filter (fun a => a.phase == .active && a.parked.isNone)).length → exec (.copyStart c) s = .next s) ∧
    ((k.copies.filter (fun a => a.phase == .active && a.parked.isNone)).length < 4 →
      k.copies.find? (fun a => s.cmdReady c a && (a.busy || !(s.segHeld a.part a.dd || s.segHeld a.part a.ds))) = some m →
      ∃ u, exec (.copyStart c) s = .next u ∧ SameMemory s u ∧
        (u.core c).copies = k.copies.map (fun a => if a.same m then { m with phase := .active, busy := true } else a)) ∧
    (k.stopped = false → k.shunter[i]? = some m → m.phase = .active → m.parked = none → m.left = [] → m.taken = 0 → m.got = [] → (∃ l, m.kind = .copy l) → m.dd = none → m.ds = none →
      let src := m.ps.toNat; let dst := m.pd.toNat
      qCount src = 1 → qCount dst = 1 → qSize src = 1 → qEs src ≠ 0 → qEs dst = qEs src → qAs src = 0 → qAs dst = 0 → m.cursor = 0 →
      ∀ a b na nb, patByte src 0 = some (a, na) → patByte dst 0 = some (b, nb) → k.spPoison a 1 = false →
        ∃ u, exec (.copySector c i) s = .next u ∧ SameMemory s u ∧
          (∀ x, (u.core c).spByte x = if x = b then k.spByte a else k.spByte x) ∧
          (u.core c).copies = k.copies.map (fun a => if a.same m then { m with cursor := 1, phase := .ended, leftT := [], clean := [], rmw := 0 } else a)) ∧
    (k.shunter[i]? = some m → (∃ l, m.kind = .copy l) → m.phase = .ended → m.ended = false → (∀ a ∈ k.shunter, a.same m = true → a.wrote = false) → ∃ u, exec (.copyComplete c i) s = .next u ∧ SameMemory s u ∧
      (∀ a ∈ (u.core c).shunter, a.same m = false) ∧
      (u.strand c m.ctx).ctl.sherr = (match m.err with | some x => sherrWord x m.kp (m.sectorAt m.errAt) | none => (s.strand c m.ctx).ctl.sherr) ∧
      (m.kp ≠ 0 → (s.strand c m.ctx).tok m.kp = .armed → tget 0 (s.strand c m.ctx).kseq m.kp = m.seq →
        (u.strand c m.ctx).tok m.kp = (match m.err with | some x => .error x | none => .done))) ∧
    (∀ ch target, k.trigs[i]? = some m → m.kind = .trig ch target →
      (s.cnt m.part m.lid m.gang ch + 2 ^ 32 - target) % 2 ^ 32 < 2 ^ 31 → s.cmdReady c m = true →
      (∀ o ∈ s.trigsOn m.part m.lid m.gang ch, m.born ≤ o.born) → (m.busy || !(s.segHeld m.part m.dd || s.segHeld m.part m.ds)) = true →
      ∃ u, exec (.triggerFire c i) s = .next u ∧ SameMemory s u ∧
        (u.core c).trigs = k.trigs.map (fun a => if a.same m then { m with phase := .active, busy := true } else a)) ∧
    (∀ y rest, k.stopped = false → k.kiln = m :: rest → m.kind = .accZero y → m.left = [] → s.cmdReady c m = true →
      ∃ u, exec (.engineCommandStart c false (n + 1)) s = .next u ∧ SameMemory s u ∧ (∀ i j, i < 128 → j < 128 → (u.core c).tile y i j = 0) ∧
        (∀ y' i j, y' ≠ y → i < 128 → j < 128 → (u.core c).tile y' i j = k.tile y' i j) ∧
        ((u.core c).kiln.head?).map (·.phase) = some .ended) ∧
    (∀ y rest, k.kiln = m :: rest → m.kind = .accZero y → m.phase = .ended → m.left = [] → (∀ a ∈ rest, a.phase = .queued → a.failed = false) →
      (∀ a ∈ k.kiln, a.same m = true → a.wrote = false) → ∃ u, exec (.engineCommandComplete c false) s = .next u ∧
      (∀ a ∈ (u.core c).kiln, a.same m = false) ∧ (u.core c).tiles = k.tiles ∧
      (m.kp ≠ 0 → (s.strand c m.ctx).tok m.kp = .armed → tget 0 (s.strand c m.ctx).kseq m.kp = m.seq →
        (u.strand c m.ctx).tok m.kp = (match m.err with | some x => .error x | none => .done))) ∧
    (∀ add f ty rest, k.stopped = false → k.gath = m :: rest → m.kind = .scat add f ty → m.phase = .active → m.parked = none → m.left = [] →
      m.ended = false → lget 0 m.rows m.cursor = 0 → ∃ u, exec (.gatherRow c) s = .next u ∧ SameMemory s u ∧ (u.core c).sp = k.sp ∧
        ((u.core c).gath.head?).map (fun a => (a.cursor, a.err, a.phase)) =
          some (m.cursor + 1, m.err, if m.gR ≤ m.cursor + 1 then .ended else .active)) ∧
    (let qa := m.ps.toNat; let qb := m.pd.toNat; let kk := qDim qb 0; let N := qDim qb 1; let win := winOf m.aux
      let elem (A : Nat) (sc : Option Nat) (r j : Nat) : KVal := k.operand c qa (codeTy A) m.fmt sc kk r j
      let mmaStep (kind : CmdKind) (A B y M : Nat) (a : Nat → Nat → KVal) : Prop :=
        ∀ rest ks acc, k.stopped = false → k.kiln = m :: rest → m.kind = kind → m.phase = .active → m.parked = none → m.left = [] →
          pairRow A B = some (ks, acc) → let w := if acc = .f64 then 2 else 1
          let b (l j : Nat) : KVal := k.operand c qb (codeTy B) m.fmt (if fmtBsb m.fmt then some m.pd1.toNat else none) kk l j
          let at_ (e : Nat) : Nat := m.cursor * ks + e
          M ≤ 128 → w * N ≤ 128 → (∀ r e, r < M → e < ks → (a r (at_ e)).isBad = false) → (∀ l e, l < N → e < ks → (b l (at_ e)).isBad = false) →
          let sum (r l : Nat) : Sys2Proof.Machine.Num := kSum ((List.range ks).map (fun e => match a r (at_ e), b l (at_ e) with
            | .val x, .val z => mulN x z
            | _, _ => .fin false 0 0))
          let new (r l : Nat) : Nat := let old := k.tileGet y r l acc
            if acc = .s32 then wrap 32 (sext 32 old + numInt (sum r l))
            else roundTo { mode := 1, ftz := fmtFtz m.fmt } acc (addN false (decodeF (fmtFtz m.fmt) acc old) (sum r l))
          ∃ u, exec (.engineCommandStart c false 1) s = .next u ∧ SameMemory s u ∧
            (∀ r l, r < M → l < N → if acc = .f64
              then (u.core c).tile y r (2 * l) = BitVec.ofNat 32 (new r l) ∧ (u.core c).tile y r (2 * l + 1) = BitVec.ofNat 32 (new r l / 2 ^ 32)
              else (u.core c).tile y r l = BitVec.ofNat 32 (new r l)) ∧
            (∀ y' r l, r < 128 → l < 128 → (y' ≠ y ∨ M ≤ r ∨ w * N ≤ l) → (u.core c).tile y' r l = k.tile y' r l) ∧
            ((u.core c).kiln.head?).map (fun a => (a.cursor, a.phase)) = some (m.cursor + 1, if kk ≤ (m.cursor + 1) * ks then .ended else .active)
      (∀ f A B y, mmaStep (.mma f A B y) A B y (qDim qa 1) (elem A (if fmtBsa m.fmt then some m.ps1.toNat else none))) ∧
      (∀ f g A B y, mmaStep (.mmaG f g A B y) A B y m.rows.length
        (fun r j => if lget 0 m.rows r = 0 then .zrow else elem A none (lget 0 m.rows r - 1) j)) ∧
      (∀ f A B y, mmaStep (.mmaW f A B y) A B y win.m
        (k.winVal c qa (codeTy A) m.fmt win ((m.ds.map (fun d => dPad d.toNat)).getD 0)))) ∧
    (∀ z A B y rest b nb, k.stopped = false → k.kiln = m :: rest → m.kind = .drain z false A B y → m.phase = .active → m.parked = none →
      m.left = [] → m.dd = none →
      let q := m.pd.toNat; let w := m.aux; let ftz := fmtFtz m.fmt; let g : Glz := { w := w, tyt := codeTy A, tyo := codeTy B, fmt := m.fmt }
      qDim q 0 = 1 → qDim q 1 = 1 → qAs q = 0 → qEs q ≠ 0 → patByte q 0 = some (b, nb) → b + qSize q ≤ Config.spBytes →
      gRes w = false → bit w 341 = false → bit w 343 = false → gAct w = 0 → codeTy A ≠ .s32 → tget false k.tPoison y = false →
      let out := roundTo (g.rc 0 0) (codeTy B) (mulN (decodeF ftz (codeTy A) (k.tileGet y 0 0 (codeTy A))) (decodeF ftz .f32 (fld w 223 192)))
      ∃ u, exec (.engineCommandStart c false 1) s = .next u ∧ SameMemory s u ∧
        (∀ x, (u.core c).spByte x = if b ≤ x ∧ x < b + qSize q then (natBytes (qSize q) out).getD (x - b) 0 else k.spByte x) ∧
        (∀ y' r l, r < 128 → l < 128 → (u.core c).tile y' r l = if z = true ∧ y' = y then 0 else k.tile y' r l) ∧
        ((u.core c).kiln.head?).map (fun a => (a.phase, a.err)) = some (.ended, m.err)) ∧
    (let src := m.ps.toNat; let dst := m.pd.toNat; let n := lget 0 m.rows m.cursor
      let moved (kind : CmdKind) (at_ : Nat) (bs : List Byte) : Prop :=
        ∀ rest b nb, k.stopped = false → k.gath = m :: rest → m.kind = kind → m.phase = .active → m.parked = none → m.left = [] → m.ended = false → m.taken = 0 → m.got = [] → m.dd = none →
          m.ds = none → m.down = false → qDim dst 0 = 1 → qAs src = 0 → qAs dst = 0 → qEs src ≠ 0 → qEs dst = qEs src → qSize dst = qSize src →
          patByte dst at_ = some (b, nb) → b + qSize dst ≤ Config.spBytes →
          ∃ u, exec (.gatherRow c) s = .next u ∧ SameMemory s u ∧
            (∀ x, (u.core c).spByte x = if b ≤ x ∧ x < b + qSize dst then bs.getD (x - b) 0 else k.spByte x) ∧
            ((u.core c).gath.head?).map (fun a => (a.cursor, a.err, a.phase)) =
              some (m.cursor + 1, m.err, if m.gR ≤ m.cursor + 1 then .ended else .active)
      (∀ f ty, n = 0 → moved (.gath f ty) m.cursor (List.replicate (qSize src) 0)) ∧
      (∀ f ty a na, 0 < n → patByte src (n - 1) = some (a, na) → k.spPoison a (qSize src) = false →
        moved (.gath f ty) m.cursor (k.spBytes a (qSize src))) ∧
      (∀ f ty a na, 0 < n → patByte src m.cursor = some (a, na) → k.spPoison a (qSize src) = false →
        moved (.scat false f ty) (n - 1) (k.spBytes a (qSize src))))

/-- R248, R252, R253: a message is placed in its order in an EMPTY slot of scratchpad staging, its slot is then FULL and CNT one more;
while the slot is FULL it waits. CH.RECV takes the next FULL slot; at its end the slot is EMPTY, RSEQ one more and its token DONE. -/
def Obligations.ChannelEvents : Prop :=
  ∀ (i j c core : Nat) (f : Flight) (m : Cmd) (n : Nat) (rel : Bool) (s : State),
    (s.flights[i]? = some f → f.out = false → f.fault = none → f.bad = false → f.counts = [] → f.staged = 0 →
      let e := s.chan f.part f.lid f.ch; let p := s.ep f.part f.lid f.gang f.ch; let slot := f.idx % chDepth e
      (p.full.contains slot = true → exec (.channelArrival i) s = .next s) ∧
      (chMode e = 0 → chSas e = false → f.idx % 2 ^ 32 = p.cnt → p.full.contains slot = false →
        s.gangAt f.part f.lid f.gang = .here core → ∃ u, exec (.channelArrival i) s = .next u ∧
          (u.ep f.part f.lid f.gang f.ch).cnt = (p.cnt + 1) % 2 ^ 32 ∧ (u.ep f.part f.lid f.gang f.ch).full = p.full ++ [slot] ∧
          (∀ x, (u.core core).spByte x = if chSlot e slot ≤ x ∧ x < chSlot e slot + f.bytes.length
            then (f.bytes.getD (x - chSlot e slot) (0, false)).1 else (s.core core).spByte x) ∧ u.hbm = s.hbm)) ∧
    ((s.core c).stopped = false → (s.core c).chans[j]? = some m → m.kind = .chRecv n rel → m.parked = none →
      let e := s.chan m.part m.lid n; let p := s.ep m.part m.lid m.gang n
      (m.phase = .queued → m.failed = false → m.waits = [] → s.afterDone c m = true → s.overtaken c none = false → (s.core c).chBlocked j m = false →
        let slot := p.tseq % chDepth e
        p.tseq ≠ p.cnt → p.full.contains slot = true → p.fwding.contains slot = false → (∀ d, ∀ a ∈ (s.core d).chans, a.sid = m.sid ∨ a.depth = 0) →
        ∃ u, exec (.channelCommandComplete c j) s = .next u ∧ (u.ep m.part m.lid m.gang n).tseq = (p.tseq + 1) % 2 ^ 32 ∧
          (u.core c).chans = (s.core c).chans.map (fun a => if a.same m then { m with phase := .active, slot := some slot, aux := p.tseq } else a)) ∧
      (m.phase = .active → rel = true → ∃ u, exec (.channelCommandComplete c j) s = .next u ∧
        (u.core c).chans = (s.core c).chans.map (fun a => if a.same m then { m with phase := .ended } else a)) ∧
      (∀ slot, m.phase = .ended → m.err = none → m.sub ≠ 9 → m.depth = 0 → m.slot = some slot → m.aux = p.rseq →
        ∃ u, exec (.channelCommandComplete c j) s = .next u ∧ (u.ep m.part m.lid m.gang n).rseq = (p.rseq + 1) % 2 ^ 32 ∧
          (u.ep m.part m.lid m.gang n).full.contains slot = false ∧ (∀ a ∈ (u.core c).chans, a.same m = false) ∧
          (m.kp ≠ 0 → (s.strand c m.ctx).tok m.kp = .armed → tget 0 (s.strand c m.ctx).kseq m.kp = m.seq →
            (u.strand c m.ctx).tok m.kp = .done)))

/-! Events of the port, the fault unit, memory and reductions. -/

/-- R26, R30, R114, R268, R373: where its strand may lose the port, a switch hands it to the next ready context, which issues two cy later; a descriptor miss is
read into the store; a code miss freezes its strand; the debugger halts and resumes strands whose policy opens DBG. -/
def Obligations.PortEvents : Prop :=
  ∀ (c x y un h : Nat) (single bad : Bool) (v : State) (b : Bundle) (len : Nat) (bs : List Byte) (ts : List Touch) (s : State),
    let k := s.core c; let t := s.strand c x; let va := (t.ctl.ttbase + 64 * h) % 2 ^ 64
    (k.active = some x → s.mayLeave c x = true → s.nextReady c x = some y → ∃ u, exec (.strandSwitch c) s = .next u ∧ (u.core c).active = some y ∧
      (u.core c).portAt = s.cy + 2 ∧ SameMemory s u ∧ ∀ z, (u.strand c z).regs = (s.strand c z).regs ∧ (u.strand c z).plat = (s.strand c z).plat) ∧
    (k.active = some x → (s.mayLeave c x = false ∨ s.nextReady c x = none) → exec (.strandSwitch c) s = .next s) ∧
    (s.wants c x = some (un, h) → t.fault = none → t.dbg.mixchk = false → s.mixing = false → s.glRead (s.whoOf c x 0) va 64 t.pc = .ok v bs bad ts → ∃ u, exec (.descriptorLoad c x) s = .next u ∧
      (u.strand c x).want = none ∧
      (bad = false → (u.core c).desc un t.part t.ctl.ttbase h = some (bytesNat bs % 2 ^ 512)) ∧
      (bad = true → (u.strand c x).wantBad = (v.strand c x).wantBad ++ [(h, va)])) ∧
    (t.resident = true → t.exited = false → t.fault = none → t.idle = 0 → s.fetch c x = .bundle v b len →
      ∃ u a, exec (.codeFetchMiss c x) s = .next u ∧ (u.strand c x).hold = .frozen a ∧ (u.strand c x).regs = (v.strand c x).regs) ∧
    (t.resident = true → t.exited = false → s.dbgOpen t.part = true →
      ∃ u, exec (.debugHalt c x) s = .next u ∧ (u.strand c x).stopped = true ∧ (u.strand c x).regs = t.regs ∧ SameMemory s u) ∧
    (t.stopped = true → s.dbgOpen t.part = true → ∃ u, exec (.debugResume c x single) s = .next u ∧
      (u.strand c x).stopped = single ∧ (u.strand c x).step1 = true ∧ SameMemory s u) ∧
    (s.dbgOpen t.part = false → exec (.debugHalt c x) s = .next s ∧ exec (.debugResume c x single) s = .next s)

/-- R103 to R107: a held fault is written, with the TIME of then, once the ring has room and its stack serves accesses, with an interrupt
where the ring was empty; the writes of FBUF.BASE
and FBUF.TAIL; FRESP of a record: RETRY lets the accesses that wait on it go again, FAIL ends them with ACCESS; of no record, nothing. -/
def Obligations.FaultRing : Prop :=
  ∀ (p seq c x : Nat) (v : Word) (r : FaultRec) (s : State), let f := (s.part p).fu; let base := fld v.toNat 49 18 * 2 ^ 18
    let t := s.strand c x; let gone (o : Option Nat) : Bool := o == some seq
    (f.heldQ = [] ∨ f.base = 0 ∨ 4096 ≤ f.head - f.tail → exec (.pageFault p) s = .next s) ∧
    (f.heldQ = [r] → f.base ≠ 0 → f.head - f.tail < 4096 → s.paUp (f.base + 64 * (f.head % 4096)) 64 = true → ∃ u, exec (.pageFault p) s = .next u ∧ let g := (u.part p).fu
      g.head = f.head + 1 ∧ g.heldQ = [] ∧ g.recs = f.recs ++ [{ r with time := s.time, ringAt := some f.head }] ∧
      (f.head = f.tail → (u.part p).irqs = 0 :: (s.part p).irqs)) ∧
    (f.head ≠ f.tail → exec (.fbufBaseWrite p v) s = .next s) ∧
    (f.head = f.tail → f.heldQ = [] → ∃ u, exec (.fbufBaseWrite p v) s = .next u ∧
      (u.part p).fu = let f' : FaultUnit := { f with recs := f.recs.map (fun r => { r with ringAt := none }) }
        if base = 0 then { f' with base := 0 } else { f' with base := base, head := 0, tail := 0 }) ∧
    (f.tail ≤ v.toNat → v.toNat ≤ f.head → f.heldQ = [] → ∃ u, exec (.fbufTailWrite p v) s = .next u ∧ (u.part p).fu = { f with tail := v.toNat }) ∧
    (v.toNat < f.tail ∨ f.head < v.toNat → exec (.fbufTailWrite p v) s = .next s) ∧
    (f.recs.find? (fun r => r.seq == seq) = none → exec (.frespRetry p seq) s = .next s ∧ exec (.frespFail p seq) s = .next s) ∧
    (f.recs.find? (fun r => r.seq == seq) = some r → t.part = p → f.waiting = [] →
      (∃ u, exec (.frespRetry p seq) s = .next u ∧ (u.part p).fu.recs = f.recs.filter (fun q => q.seq != seq) ∧ SameMemory s u ∧
        (u.strand c x).plat.results = t.plat.results.map (fun q => { q with faults := q.faults.filter (fun k => k != seq) }) ∧
        (u.strand c x).stores = t.stores.map (fun q => { q with pieces := q.pieces.map (fun a => if gone a.fault then { a with fault := none } else a) }) ∧
        (u.strand c x).fault = (if gone t.fault then none else t.fault) ∧
        (u.core c).copies = (s.core c).copies.map (fun m => if m.part = p ∧ m.parked = some seq then { m with parked := none, phase := (match m.kind with
          | .copy _ | .copyRed _ _ => if m.phase = .active then .queued else m.phase
          | _ => m.phase) } else m)) ∧
      (∃ u, exec (.frespFail p seq) s = .next u ∧ (u.part p).fu.recs = f.recs.filter (fun q => q.seq != seq) ∧ SameMemory s u ∧
        (u.strand c x).plat.results = t.plat.results.map (fun q => if q.faults.contains seq then { q with
          faults := [], arrived := true, failed := true, exc := some { cause := .access, aux := r.va, slot := q.slot } } else q) ∧
        (∀ q ∈ (u.strand c x).stores, ∀ a ∈ q.pieces, gone a.fault = false) ∧
        (∀ q ∈ t.stores, (∀ a ∈ q.pieces, gone a.fault = false) → q ∈ (u.strand c x).stores) ∧
        (∀ q ∈ t.stores, (∃ a ∈ q.pieces, gone a.fault = true) → (({ cause := .access, aux := r.va, slot := q.slot } : Exc), q.pc) ∈ (u.strand c x).reports) ∧
        (u.core c).copies = (s.core c).copies.map (fun m => if m.part = p ∧ m.parked = some seq then
          { m with parked := none, phase := .ended, err := some .access, errAt := m.cursor } else m)))

/-- R104, R109 to R111: TLBINV is over when its translations are gone everywhere, and ends a granted host move; MIGREQ's results; the
end of a floor; the answers to page requests and the clearing of host translations, which both wait while an engine stands inside a
sector (R147). That a TLBINV frees the host's lock of its pages, that one written before the last is over joins it, that a floor's end waits
for the leaf's stack and leaves a REMOTE leaf, and that LOST answers for a page the host holds and comes before BUSY, are the model's
choices (logs 20, 95, 81, 120). -/
def Obligations.Translations : Prop :=
  ∀ (p i a n page : Nat) (v : Word) (ok : Bool) (s : State), let f := (s.part p).fu; let fu (t : State) : FaultUnit := (t.part p).fu
    let first := pageOf v.toNat; let cnt := fld v.toNat 15 1 + 1; let live (e : Nat × Nat) : Bool := e.1 == first && decide (s.time < e.2)
    let free : Prop := (∀ r ∈ f.recs ++ f.heldQ, r.kind ≠ 4) ∧ f.waiting = []
    let asked : Prop := (∃ r ∈ f.recs ++ f.heldQ, r.kind = 4 ∧ r.served = false ∧ pageOf r.va = first) ∨ ∃ w ∈ f.waiting, ∃ a ∈ w.1, pageOf a = first
    let floorFits : Prop := f.floor = 0 ∨ (f.floors.filter (fun e => decide (s.time < e.2))).length + f.floorDue + 1 ≤ 1024
    (free → v.getLsbD 0 = false → ∃ u, exec (.tlbinv p v) s = .next u ∧ (fu u).tlbDone = false ∧ (fu u).tlbReq = f.tlbReq ++ [(first, cnt)] ∧ (fu u).tlb = f.tlb ∧
      ∀ l, l ∈ (fu u).locks ↔ l ∈ f.locks ∧ (l.2 = true ∨ l.1 < first ∨ first + cnt ≤ l.1)) ∧
    (free → ∀ i ∈ ([.tlbinvWholePartition p] ++ (if v.getLsbD 0 then [.tlbinv p v] else []) : List Instr), ∃ u, exec i s = .next u ∧
      (fu u).tlbDone = false ∧ (fu u).tlbReq = f.tlbReq ++ [(0, 2 ^ 41)] ∧ (fu u).tlb = f.tlb ∧
      ∀ l, l ∈ (fu u).locks ↔ l ∈ f.locks ∧ (l.2 = true ∨ 2 ^ 41 ≤ l.1)) ∧
    (s.midSector p = true ∨ (f.tlbReq = [] ∧ f.atsReq = []) → exec (.tlbinvDone p) s = .next s) ∧
    (f.tlbReq ≠ [] → s.midSector p = false → ∃ u, exec (.tlbinvDone p) s = .next u ∧ (fu u).tlbDone = true ∧ (fu u).tlbReq = [] ∧
      ∀ q, tget none (fu u).tlb q = if ∃ r ∈ f.tlbReq, r.1 ≤ q ∧ q < r.1 + r.2 then none else tget none f.tlb q) ∧
    (f.atsReq ≠ [] → s.midSector p = false → ∃ u, exec (.tlbinvDone p) s = .next u ∧ (fu u).atsReq = [] ∧
      ∀ e, e ∈ (fu u).ats ↔ e ∈ f.ats ∧ ∀ r ∈ f.atsReq, e < r.1 ∨ r.1 + r.2 ≤ e) ∧
    (v.getLsbD 0 = false → exec (.migreq p v) s = .next s) ∧
    (v.getLsbD 0 = true → ∃ u, exec (.migreq p v) s = .next u ∧
      (∀ e, f.floors.find? live = some e → (fu u).migres = 3 * 2 ^ 56 + e.2 ∧ (fu u).locks = f.locks) ∧
      (f.floors.find? live = none →
        (((∃ l ∈ f.locks, l.1 = first) ∨ asked) → (fu u).migres = 2 * 2 ^ 56 ∧ (fu u).locks = f.locks) ∧
        ((∀ l ∈ f.locks, l.1 ≠ first) → ¬ asked → (256 ≤ f.locks.length ∨ ¬ floorFits) → (fu u).migres = 4 * 2 ^ 56 ∧ (fu u).locks = f.locks) ∧
        ((∀ l ∈ f.locks, l.1 ≠ first) → ¬ asked → f.locks.length < 256 → floorFits →
          (fu u).migres = 2 ^ 56 ∧ (fu u).locks = f.locks ++ [(first, false)]))) ∧
    (f.floors[i]? = some (page, n) → s.time < n ∨ s.leafUp p (page * 65536) = false → exec (.floorExpiry p i) s = .next s) ∧
    (f.floors[i]? = some (page, n) → n ≤ s.time → s.leafUp p (page * 65536) = true → ∃ u, exec (.floorExpiry p i) s = .next u ∧ (fu u).floors = ldel f.floors i ∧
      (f.waiting = [] → (∀ at_ e, s.leaf0 p (page * 65536) = some (at_, e) → peMig e ≠ 3 ∨ pePl e = 4) → SameMemory s u)) ∧
    (f.pri[i]? = none → exec (.pageRequestResponse p i ok) s = .next s) ∧
    (f.pri[i]? = some page → ∃ u, exec (.pageRequestResponse p i ok) s = .next u ∧ (fu u).pri = ldel f.pri i ∧
      (fu u).ats = (if ok then page :: f.ats else f.ats) ∧ SameMemory s u) ∧
    (s.midSector p = false → ∃ u, exec (.atsInvalidate p a n) s = .next u ∧ SameMemory s u ∧ (fu u).atsReq = [] ∧
      ∀ e, e ∈ (fu u).ats ↔ e ∈ f.ats ∧ ∀ r ∈ f.atsReq ++ [(pageOf a, n)], e < r.1 ∨ r.1 + r.2 ≤ e) ∧
    (s.midSector p = true → ∃ u, exec (.atsInvalidate p a n) s = .next u ∧ SameMemory s u ∧ (fu u).ats = f.ats ∧
      (fu u).atsReq = f.atsReq ++ [(pageOf a, n)])

/-- R108, R110: a migration starts only with a page it may lock and a pool that holds frames; it copies once the busy count is 0, after
the page's translations are gone and no engine stands inside a unit; its end frees the locks and takes a floor entry. -/
def Obligations.Migrations : Prop :=
  ∀ (p i va pl pln : Nat) (m : Migration) (s : State), let f := (s.part p).fu; let fu (t : State) : FaultUnit := (t.part p).fu
    let q := tget {} s.hk.pools (poolOf pl pln)
    (va % 65536 = 0 → (s.movable p va = false ∨ q.head = q.tail) → exec (.migrationStart p [va] pl pln) s = .next s) ∧
    (va % 65536 = 0 → s.movable p va = true → (∀ w ∈ f.waiting, va ∉ w.1) → s.leafUp p va = true → q.head ≠ q.tail → fld q.base 49 12 ≠ 0 → f.locks.length < 256 →
      (f.floor = 0 ∨ (f.floors.filter (fun e => decide (s.time < e.2))).length + f.floorDue + 1 ≤ 1024) →
      ∃ u h, exec (.migrationStart p [va] pl pln) s = .next u ∧
        (fu u).locks = f.locks.filter (fun l => !(pageOf va == l.1)) ++ [(pageOf va, true)] ∧
        (fu u).migs = f.migs ++ [{ vas := [va], pl := pl, pln := pln, host := h }]) ∧
    (f.migs[i]? = some m → m.stage ≠ 0 ∨ s.busyCount p m.vas ≠ 0 ∨ s.midSector p = true → exec (.migrationCopy p i) s = .next s) ∧
    (f.migs[i]? = some m → m.stage = 0 → s.busyCount p m.vas = 0 → s.midSector p = false → (∀ k < 16, s.stackUp k = true) → ∃ u fr, exec (.migrationCopy p i) s = .next u ∧
      (fu u).migs[i]? = some { m with stage := 1, frames := fr } ∧ ∀ v ∈ m.vas, tget none (fu u).tlb (pageOf v) = none) ∧
    (f.migs[i]? = some m → m.stage ≠ 1 → exec (.migrationComplete p i) s = .next s) ∧
    (f.migs[i]? = some m → m.stage = 1 → m.vas = [va] → (∀ r ∈ f.recs ++ f.heldQ, r.kind ≠ 4) → f.waiting = [] → s.leafUp p va = true →
      f.floors.length < 1024 → ∃ u, exec (.migrationComplete p i) s = .next u ∧ (fu u).migs = ldel f.migs i ∧
      (∀ l, l ∈ (fu u).locks ↔ l ∈ f.locks ∧ l.1 ≠ pageOf va) ∧
      (∀ at_ e fr, s.leaf0 p va = some (at_, e) → m.frameOf va = some fr → f.floor ≠ 0 →
        (fu u).floors = f.floors ++ [(pageOf va, s.time + f.floor)]))

/-- R95 to R97, R139, R141, R142, R242, R288: scrubbing counts and poisons; a lease ends at its expiry; a window's dirty line is written
back and stays; received data go behind the L2 (stated where no change of the map, R92, has touched what they meet); an access from another
package is performed only under a grant, once the link's port and the frame's stack serve it (R387). -/
def Obligations.MemoryEvents : Prop :=
  ∀ (stack line die n c w i ln node gid p pa : Nat) (seen : LineCheck) (l : Lease) (bytes bs : List Byte) (v : State) (bad sgn : Bool) (slot : Nat)
    (op : AOp) (val cmp : Word) (k : RemoteKind) (s : State),
    let m := s.metaOf line; let sc := tget {} s.scrub stack; let poisoned : LineMeta := { m with poison := true, map := s.since line }
    let replied (t : State) (r : Reply) : State := { t with replies := r :: t.replies }
    let up (n : Nat) : Nat := min (n + 1) (2 ^ 32 - 1); let b := tget 0 s.pmap (64 * line / 2 ^ 30)
    let homed : Prop := isHbm (64 * line) = true ∧ (home (64 * line / 128 * 128) (fld b 7 5) (fld b 3 0)).2.1 = stack
    let tagBad : Prop := ∃ k g, m.slot = some (k, g) ∧ g ≠ s.gen k
    (m.poison = true ∨ ¬ homed → exec (.scrubLine stack line seen) s = .next s) ∧
    (m.poison = false → homed →
      (∃ u, exec (.scrubLine stack line .correctable) s = .next u ∧ (tget {} u.scrub stack).ce = up sc.ce ∧ (tget {} u.scrub stack).ue = sc.ue ∧
        u.hbm = s.hbm ∧ (tagBad → (tget {} u.scrub stack).tagf = up sc.tagf ∧ tget {} u.lines line = poisoned) ∧
        (¬ tagBad → (tget {} u.scrub stack).tagf = sc.tagf ∧ u.lines = s.lines)) ∧
      (∃ u, exec (.scrubLine stack line .uncorrectable) s = .next u ∧ (tget {} u.scrub stack).ue = up sc.ue ∧
        tget {} u.lines line = poisoned ∧ u.hbm = s.hbm) ∧
      (¬ tagBad → exec (.scrubLine stack line .clean) s = .next s) ∧
      (tagBad → ∃ u, exec (.scrubLine stack line .clean) s = .next u ∧
        (tget {} u.scrub stack).tagf = up sc.tagf ∧ tget {} u.lines line = poisoned ∧ u.hbm = s.hbm)) ∧
    (tget none s.leases (die * 256 + n) = some l → (s.time < l.expiry → exec (.leaseExpiry die n) s = .next s) ∧
      (l.expiry ≤ s.time → ∃ u, exec (.leaseExpiry die n) s = .next u ∧ tget none u.leases (die * 256 + n) = none)) ∧
    (let st : Stash := tget {} (s.core c).stash w;
      (∀ ln, tget none st.lines i ≠ some (ln, true)) → exec (.stashWriteback c w i) s = .next s) ∧
    (let st : Stash := tget {} (s.core c).stash w;
      ∀ x, tget none st.lines i = some (ln, true) → tget none s.l2 ln = some x → ∃ u, exec (.stashWriteback c w i) s = .next u ∧
        tget none (tget {} (u.core c).stash w : Stash).lines i = some (ln, false) ∧
        ∀ j < 128, tget Memory.blank u.hbm (128 * ln + j) = (s.core c).spByte (st.base + 128 * i + j)) ∧
    (hbmEnd < pa + bytes.length ∨ bit s.hk.ready 24 = false ∨ s.paUp pa bytes.length = false → exec (.receiveDma slot pa bytes) s = .next s) ∧
    (pa + bytes.length ≤ hbmEnd → bit s.hk.ready 24 = true → s.paUp pa bytes.length = true →
      (∀ e ∈ s.remaps, e.2.maps = [] ∧ ∀ x ∈ e.2.saves, x.1 ≤ e.2.n) → ∃ u, exec (.receiveDma slot pa bytes) s = .next u ∧ u.l2 = s.l2 ∧
      ∀ a, u.hbmByte a = if pa ≤ a ∧ a < pa + bytes.length then bytes.getD (a - pa) 0 else s.hbmByte a) ∧
    (s.serves node pa k = false → exec (.remoteAccess node gid p pa k) s = .next s) ∧
    (s.serves node pa k = true → s.granted node gid p pa k = false → exec (.remoteAccess node gid p pa k) s = .next (replied s (.remote [] false false))) ∧
    (∀ win, s.serves node pa (.read n) = true → s.grant node gid p pa (.read n) = some win → (s.remoteMix node pa (.read n)).homeRead (remoteWho node p win.slot) pa n = (v, bs, bad) →
      exec (.remoteAccess node gid p pa (.read n)) s = .next (replied v (.remote bs true bad))) ∧
    (∀ win, s.serves node pa (.write bytes) = true → s.grant node gid p pa (.write bytes) = some win →
      exec (.remoteAccess node gid p pa (.write bytes)) s =
        .next (replied ((s.remoteMix node pa (.write bytes)).homeWrite (remoteWho node p win.slot) pa bytes) (.remote [] true false))) ∧
    (∀ win, s.serves node pa (.atom n op sgn val cmp) = true → s.grant node gid p pa (.atom n op sgn val cmp) = some win →
      (s.remoteMix node pa (.atom n op sgn val cmp)).homeRead (remoteWho node p win.slot) pa n = (v, bs, bad) →
      exec (.remoteAccess node gid p pa (.atom n op sgn val cmp)) s = .next (if bad then replied v (.remote [] true true)
        else replied (v.homeWrite (remoteWho node p win.slot) pa (natBytes n (atomNew op sgn (8 * n) (bytesNat bs) val.toNat cmp.toNat))) (.remote bs true false)))

/-- R243, R254 to R258: the first reducer of a step takes a contribution, and its sender's command has ended; the last one makes the
result, which goes to the receivers; what a change of the tree, F and the resend do; a flit's eight retries. What reaches a switch, and the
steps that other packages report, come with the events; F is 0 where no step is open: the model's choices (log 114). -/
def Obligations.Reductions : Prop :=
  ∀ (g step sw rank recv opened i : Nat) (kids : List Nat) (k : Group) (r : RedStep) (b : Contrib) (f : Flight) (s : State),
    let p := g / 2 ^ 16; let at_ (t : State) : Option Group := (t.part p).groups[g % 2 ^ 16]?
    let e := s.chan p k.lid k.ch; let leaf := redLeaf e rank b.bytes; let n := k.members.length
    -- the receiver's slot is EMPTY, and its Pugmill has a place and nothing older of the step
    let room (r : RedStep) : Prop := sub32 (step % 2 ^ 32) (s.ep p k.lid (k.member recv).2.1 k.ch).rseq < chDepth e ∧
      (∀ x ∈ r.wait, x.2.1 ≠ recv) ∧ s.pugCount (s.stackVa p (chSlot e (step % chDepth e))) < 512
    let done (t : State) (v : RedVal) (path : Nat) : Prop := ∃ fl ∈ t.flights, fl.part = p ∧ fl.lid = k.lid ∧ fl.gang = (k.member recv).2.1 ∧
      fl.ch = k.ch ∧ fl.idx = step ∧ fl.bytes = redFinal e v ∧ fl.counts = v.counts ∧ fl.path = path
    (at_ s = some k →
      (k.step step = some r → (k.member rank).1 = s.node → r.subs.find? (fun c => c.rank == rank) = some b →
        (r.sw = false → (k.member recv).1 = s.node → (k.member recv).2.2 = true → r.done.contains recv = false → room r →
          (∀ x ∈ r.pugs, x.1 ≠ recv) → n ≠ 1 → ∃ u k' r', exec (.pugmillContribution g step recv rank) s = .next u ∧ at_ u = some k' ∧
            k'.step step = some r' ∧ r'.pugs.find? (fun x => x.1 == recv) = some (recv, leaf)) ∧
        (r.sw = false → (k.member recv).1 = s.node → (k.member recv).2.2 = true → r.done.contains recv = false → room r →
          (∀ v, r.pugs.find? (fun x => x.1 == recv) = some (recv, v) → v.ranks.contains rank = false → v.ranks.length + 1 = n →
            ∃ u, exec (.pugmillContribution g step recv rank) s = .next u ∧ done u (redJoin e v leaf) 3)) ∧
        (r.sw = true → k.att.contains sw = true → (k.under sw).contains rank = true → rank < n → r.sws = [] → n ≠ 1 →
          ∃ u k' r', exec (.switchCombine g step sw rank) s = .next u ∧ at_ u = some k' ∧ k'.step step = some r' ∧ r'.sws = [(sw, leaf)])) ∧
      (k.tree.contains sw = true → k.att.contains sw = true → ∃ u k', exec (.switchRemeasure g sw (false, kids)) s = .next u ∧ at_ u = some k' ∧
        k'.att = k.att.filter (fun x => x != sw) ∧ k'.waitF = true ∧ k'.removals = (s.time, none) :: k.removals ∧ SameMemory s u) ∧
      (k.waitF = false → exec (.switchRemoval g sw opened) s = .next s) ∧
      (k.waitF = true → ∃ u k' f, exec (.switchRemoval g sw opened) s = .next u ∧ at_ u = some k' ∧ k'.waitF = false ∧ k'.join = [] ∧
        f = (if k.members.all (fun m => m.1 == s.node) then s.openedHere p k else max opened (s.openedHere p k)) ∧ (∀ r ∈ k.steps, r.step < f) ∧
        k'.trans = (f, k'.att == k.tree && k.tree != []) :: k.trans ∧ (k.f ≠ 0xFFFFFFFF → k'.f = k.f) ∧ k'.removals = k.removals.map (fun x => (x.1, some (x.2.getD f))) ∧
        k'.att = k.tree.filter (fun x => k.att.contains x || k.join.contains x) ∧ SameMemory s u) ∧
      (∃ u k', exec (.resendTimeout g) s = .next u ∧ at_ u = some k' ∧ SameMemory s u ∧
        ((∀ x ∈ k.removals, x.2 = none ∨ s.time < x.1 + 1000000) → k' = k) ∧
        (∀ x ∈ k.removals, ∀ f, x.2 = some f → x.1 + 1000000 ≤ s.time → ∀ r ∈ k.steps, r.sw = true → r.step < f →
          (∃ i < n, (k.member i).2.2 = true ∧ ((k.member i).1 ≠ s.node ∨ r.done.contains i = false)) → { r with resent := true } ∈ k'.steps))) ∧
    (s.flights[i]? = some f → (f.remote = false → exec (.flitTagFail i) s = .next s) ∧
      (f.remote = true → f.tries < 8 → exec (.flitTagFail i) s = .next { s with flights := lput s.flights i { f with tries := f.tries + 1 } }) ∧
      (f.remote = true → 8 ≤ f.tries → f.out = false → ∃ u, exec (.flitTagFail i) s = .next u ∧ u.flights = lput s.flights i { f with bad := true }))

/-! Signal boxes. -/

/-- R288 to R290, R292: a record advances its queue's HEAD: a NOP and an unknown one do nothing else, EXTWR marks its ranges as written
from outside once the earlier records of its queue are final, and a LAUNCH is refused outside RUN, or with the code of its first failed
check, or accepted; a refusal closes its launch and owes a record with the code. That a record refused for the LID of a launch that is not
over adds no launch of its own, that HEAD stays while an EXTWR waits, and that one whose list cannot be read marks nothing, are the model's
choices (logs 48, 47, 122). -/
def Obligations.QueueRecords : Prop :=
  ∀ (p q r : Nat) (v w w' w2 : State) (es deps : List (Nat × Nat × Nat)) (good : Bool) (l : Launch) (g : Seg) (tab : Tbl QWord) (gs : List Group) (code : Nat)
    (s : State),
    let moved (u : State) : Prop := ((u.part p).queue q).head = ((v.part p).queue q).head + 1
    let x := v.part p; let n := x.launches.length; let rec_ := launchOf r q
    let twice : Prop := ∃ o ∈ x.launches, o.lid = rec_.lid ∧ o.final = false
    let owed (c : Nat) (i : Option Nat) : OwedRecord := { lid := rec_.lid, index := i, status := rec_.status, word0 := recWord rec_.lid 2 c, irq := rec_.irq }
    let refused (c : Nat) : Prop :=
      (twice → exec (.launch p q) s = .next ((v.accept_ p q).owe p (owed c none))) ∧
      (¬ twice → exec (.launch p q) s = .next (((v.modPart p (fun x => { x with launches := x.launches ++
        [{ rec_ with phase := .refused, closed := true }] })).accept_ p q).owe p (owed c (some n))))
    let l1 : Launch := { rec_ with codeLen := g.len, starts := g.starts, dictOff := g.dictOff, dictN := g.dictN, poolOff := g.poolOff,
                                   poolN := g.poolN, digest := g.digest, system := g.sys }
    let l2 : Launch := { l1 with chtab := tab, bufs := es, deps := deps, usable := { l1 with chtab := tab, bufs := es, deps := deps }.usableOf }
    let buf (u : State) : Chk (State × List (Nat × Nat × Nat) × Bool) := u.bufRead p (recW r 9) (fld (recW r 10) 10 0)
    let dep := x.depRead ([11, 12, 13, 14].map (recW r))
    (s.queueRec p q = none → exec (.queueNop p q) s = .next s ∧ exec (.unknownRecord p q) s = .next s ∧ exec (.extwr p q) s = .next s ∧
      exec (.launch p q) s = .next s) ∧
    (s.queueRec p q = some (v, r) →
      (recKind r = 0 → ∃ u, exec (.queueNop p q) s = .next u ∧ moved u ∧ (u.part p).launches = (v.part p).launches ∧ (u.part p).bufTable = (v.part p).bufTable) ∧
      (3 ≤ recKind r → ∃ u, exec (.unknownRecord p q) s = .next u ∧ moved u ∧ (u.part p).launches = (v.part p).launches ∧
        (u.part p).bufTable = (v.part p).bufTable) ∧
      (recKind r = 2 → (∃ l ∈ (s.part p).launches, l.queue = q ∧ l.final = false) → exec (.extwr p q) s = .next s) ∧
      (recKind r = 2 → (∀ l ∈ (s.part p).launches, l.queue = q → l.final = true) →
        v.bufRead p (fld r 639 576) (fld r 650 640) = .ok (w, es, good) →
        ∃ u, exec (.extwr p q) s = .next u ∧ ((u.part p).queue q).head = ((w.part p).queue q).head + 1 ∧
          (∀ b len fl, es = [(b, len, fl)] → 0 < len → (w.part p).bufTable = [] →
            (u.part p).bufTable = [{ base := b, len := len, writer := .external }])) ∧
      (recKind r = 2 → (∀ l ∈ (s.part p).launches, l.queue = q → l.final = true) →
        v.bufRead p (fld r 639 576) (fld r 650 640) = .error (some code) → exec (.extwr p q) s = .next (v.accept_ p q)) ∧
      (recKind r = 1 → x.tdisp ≠ .run → refused 9) ∧
      (recKind r = 1 → x.tdisp = .run → v.launchCheck p r q = .error none → exec (.launch p q) s = .next s) ∧
      (recKind r = 1 → x.tdisp = .run →
        (recordOk r = false ∨ twice → refused 1) ∧
        (recordOk r = true → ¬ twice →
          (v.segCheck p rec_.code false 2 = .error (some code) → refused 2) ∧
          (v.segCheck p rec_.code false 2 = .ok (w, g) →
            (w.chtabCheck p l1 (recW r 5) = .error (some code) → refused 3) ∧
            (w.chtabCheck p l1 (recW r 5) = .ok (w', tab, gs) →
              (l1.areasOk l1.checked = false → refused 4) ∧
              (l1.areasOk l1.checked = true →
                (buf w' = .error (some code) ∨ buf w' = .ok (w2, es, false) → refused 5) ∧
                (buf w' = .ok (w2, es, true) →
                  (dep = .error (some code) → refused 6) ∧
                  (dep = .ok deps → (∃ d ∈ deps, x.depLost d = true) → refused 7) ∧
                  (dep = .ok deps → (∀ d ∈ deps, x.depLost d = false) → rec_.cor = true →
                    w2.placeAll p l2 (bit (w2.part p).clusters) [] = none → refused 8))))))) ∧
      (recKind r = 1 → (v.part p).tdisp = .run → v.launchCheck p r q = .ok (w, l, gs) → ∃ u, exec (.launch p q) s = .next u ∧
        ((u.part p).queue q).head = ((w.part p).queue q).head + 1 ∧ (u.part p).groups = (w.part p).groups ++ gs ∧
        (u.part p).bufTable = bufEnter n l.bufs (v.part p).bufTable ∧
        ∃ l', (u.part p).launches = (w.part p).launches ++ [l'] ∧ l' = { l with impl := l'.impl, wide := l'.wide } ∧
          l'.impl = bufImpl l.bufs (v.part p).bufTable))

/-- R266, R267, R285, R290, R293 to R298, R345: a gang of one strand starts on its context with the launch's first registers; a gang that
is over frees its contexts; a launch whose gangs are over is completed and one whose dependence is lost is refused; what ends launches
from outside. That a gang whose end follows an abort is not counted in ENDED is the model's choice (log 51). -/
def Obligations.GangsAndLaunches : Prop :=
  ∀ (p lid g i c x cl j : Nat) (v : State) (fb : Bool) (s : State),
    let q := s.part p; let l := q.at_ i; let k := (s.launch p lid).gang g
    (s.pick p ≠ some (.start i) → q.indexOf lid = some i → exec (.gangStart p lid g) s = .next s) ∧
    (q.indexOf lid = some i → s.pick p = some (.start i) → l.cor = false → g < l.g → (l.gang g).phase = .waiting →
      s.placeUnit p l (s.avail p) s.used g = some (cl, [(g, [(c, x)])], fb) →
      s.startUnits p i [(cl, [(g, [(c, x)])], fb)] = some v → ∃ u, exec (.gangStart p lid g) s = .next u ∧
        u.strand c x = l.strand0 p g x 0 q.debugNow ∧ ((u.part p).at_ i).started = l.started + 1 ∧
        (((u.part p).at_ i).gang g).phase = .running ∧ (((u.part p).at_ i).gang g).place = [(c, x)]) ∧
    (s.gangDone p lid g = false → exec (.gangEnd p lid g) s = .next s) ∧
    (s.gangDone p lid g = true → ∃ u, exec (.gangEnd p lid g) s = .next u ∧ (∀ a ∈ k.place, (u.strand a.1 a.2).resident = false) ∧
      ((u.launch p lid).gang g).phase = .ended ∧
      (u.launch p lid).ended = (s.launch p lid).ended + (if (s.launch p lid).abort = none then 1 else 0)) ∧
    (q.records = [] → q.indexOf lid = some i →
      (l.isOver = true → ∃ u, exec (.launchComplete p lid) s = .next u ∧ ((u.part p).launches[i]?).map (·.closed) = some true) ∧
      (l.isOver = false → l.phase = .accepted → l.closed = false → l.abort = none → l.started = 0 → (∃ d ∈ l.deps, q.depLost d = true) →
        ∃ u, exec (.launchComplete p lid) s = .next u ∧ ((u.part p).launches[i]?).map (fun l => (l.closed, l.phase)) = some (true, .refused))) ∧
    (q.live.contains lid = false → exec (.providerEndLaunch p lid) s = .next s) ∧
    (q.live.contains lid = true → ∃ u, exec (.providerEndLaunch p lid) s = .next u ∧ (u.launch p lid).abort ≠ none) ∧
    (p < 48 → bit q.clusters j = true → q.live.contains lid = true →
      ∃ u, exec (.unattributedFault (.cluster j)) s = .next u ∧ (u.launch p lid).abort ≠ none)

/-- R157, R297, R299, R301 to R303, R387: a set is saved where its cores find save slots on stacks that serve accesses, and its deferral is noted where they do not; the
saved set that is next returns to the cluster it is given; an unclaimed shared cluster goes to a sharer with work; a period is
taken at its time. -/
def Obligations.Sharing : Prop :=
  ∀ (p lid cl i g j new : Nat) (gs : List Nat) (v : SavedSet) (w : State) (fb : Bool) (e : Nat × Nat) (s : State),
    let q := s.part p; let cs := s.setCores cl; let k := s.cluster cl; let ctl := q.placeCtl
    (s.preWaits p = none ∨ (∀ a, s.preWaits p = some a → s.victim p a.1 a.2 ≠ some cl) →
      ∃ u, exec (.preempt p cl) s = .next u ∧ (u.part p).saved = q.saved ∧ u.cores = s.cores ∧ SameMemory s u) ∧
    (s.preWaits p = some (i, g) → s.victim p i g = some cl → s.setOn cl = some (p, lid, gs) → s.canSave cl = true →
      (q.freeSlots.length < cs.length → q.deferred.contains (cl, i * 2 ^ 20 + g) = false → ∃ u, exec (.preempt p cl) s = .next u ∧
        (u.part p).deferred = (cl, i * 2 ^ 20 + g) :: q.deferred.filter (fun e => e.1 != cl) ∧
        (u.part p).saved = q.saved ∧ ∀ c ∈ cs, (u.core c).strands = (s.core c).strands) ∧
      (cs.length ≤ q.freeSlots.length → (∀ i ∈ q.freeSlots.take cs.length, s.unitUp (q.saveBase / 2 ^ 22 + i) = true) → ∃ u v, exec (.preempt p cl) s = .next u ∧ (u.part p).saved = q.saved ++ [v] ∧ v.lid = lid ∧ v.gangs = gs ∧
        v.cluster = cl ∧ v.slots = q.freeSlots.take cs.length ∧ v.bars = k.bars ∧ ∀ c ∈ cs, (u.core c).strands = [] ∧ (u.core c).active = none)) ∧
    (s.pick p ≠ some (.resume j) → exec (.resume p j) s = .next s) ∧
    (s.pick p = some (.resume j) → q.saved[j]? = some v → (∀ i ∈ v.slots, s.unitUp (q.saveBase / 2 ^ 22 + i) = true) → s.placeSaved p (s.launch p v.lid) v = some (new, fb) →
      (v.cores.map (fun k => 4 * new + k.1)).foldl (fun (r : Option State) c => r.bind (fun s => s.prepCore p (s.launch p v.lid) c)) (some s) = some w →
      ∃ u, exec (.resume p j) s = .next u ∧ (u.part p).saved = ldel (w.part p).saved j) ∧
    (k.share.length < 2 → exec (.shareSliceExpiry cl) s = .next s) ∧
    (2 ≤ k.share.length → k.holder = none → k.share.find? (fun e => s.hasWork e.1 cl) = some e → clusterEmpty s.used cl = true →
      ∃ u, exec (.shareSliceExpiry cl) s = .next u ∧ (u.cluster cl).holder = some (e.1, s.cy) ∧ (u.cluster cl).part = some e.1 ∧ SameMemory s u) ∧
    (bit ctl 0 = false ∨ s.time < q.placedAt + fld ctl 63 32 → exec (.placementPeriod p) s = .next s) ∧
    (bit ctl 0 = true → q.placedAt + fld ctl 63 32 ≤ s.time → ∃ u, exec (.placementPeriod p) s = .next u ∧ (u.part p).placedAt = s.time)

/-! Registers, windows, security and housekeeping. -/

/-- R25, R104, R287, R299 to R301, R336, R341, R371, R376, R380, R386, R392, R393: writes of registers; a handler segment is BUSY until its
check is over; the log's tail. -/
def Obligations.RegisterWrites : Prop :=
  ∀ (p i : Nat) (v : Word) (s : State), let q := s.part p; let n := v.toNat; let base := fld n 49 17 * 2 ^ 17
    let va := fld n 56 6 * 64
    let writes (page : PageRef) (off : Nat) (o : State → Prop) : Prop := ∃ u, exec (.registerWrite page off v) s = .next u ∧ SameMemory s u ∧ o u
    writes (.part p) 0x028 (fun u => (u.part p).fu.floor = n) ∧ writes (.part p) 0x050 (fun u => u.regRead p 0x050 = fld n 49 21 * 2 ^ 21) ∧
    writes (.part p) 0x080 (fun u => u.regRead p 0x080 = n - fld n 7 1 * 2) ∧ writes (.part p) 0x098 (fun u => u.regRead p 0x098 = fld n 56 17 * 2 ^ 17) ∧
    writes (.part p) 0x0B0 (fun u => u.regRead p 0x0B0 = fld n 56 36 * 2 ^ 36) ∧ writes (.part p) 0x600 (fun u => u.regRead p 0x600 = fld n 49 6 * 64) ∧
    (i < 16 → writes (.part p) (0x100 + 32 * i) (fun u => ((u.part p).queue i).base = if qEn (q.queue i) then (q.queue i).base else fld n 49 12 * 4096) ∧
      writes (.part p) (0x110 + 32 * i) (fun u => (u.part p).queue i = { q.queue i with tail := n }) ∧
      writes (.part p) (0x118 + 32 * i) (fun u => (u.part p).queue i = q.queue i)) ∧
    (i < 8 → bit q.polOpen 5 = false → exec (.registerWrite (.part p) (0x400 + 32 * i) v) s = .next s) ∧
    (bit q.polOpen 1 = false → ∀ r, s.profRead p r = 0) ∧
    writes .pf 0x810 (fun u => u.hk.arg0 = v) ∧ writes .pf 0x818 (fun u => u.hk.arg1 = v) ∧ writes .pf 0x840 (fun u => u.hk.sigBase = n) ∧
    (∃ u, exec (.plogBaseWrite p v) s = .next u ∧ let r := u.part p
      (q.plogHead ≠ q.plogTail → r = q) ∧
      (q.plogHead = q.plogTail → r = { q with plogBase := base, plogHead := 0, plogTail := 0 })) ∧
    (∃ u, exec (.trapSegWrite p v) s = .next u ∧ (u.part p).trapSeg = va ∧ (u.part p).segStat = (if va = 0 then 0 else 1)) ∧
    (q.segStat ≠ 1 → exec (.trapSegCheckDone p) s = .next s) ∧
    (q.segStat = 1 → match s.segCheck p (canonVa q.trapSeg) true 2 with
      | .ok (_, g) => ∃ u, exec (.trapSegCheckDone p) s = .next u ∧ (u.part p).segStat = 2 ∧ (u.part p).segLen = g.len ∧ (u.part p).segStarts = g.starts
      | .error (some _) => ∃ u, exec (.trapSegCheckDone p) s = .next u ∧ (u.part p).segStat = 3
      | .error none => exec (.trapSegCheckDone p) s = .next s) ∧
    (n < s.hk.logTail ∨ s.hk.logHead < n → exec (.logTailWrite v) s = .next s) ∧
    (s.hk.logTail ≤ n → n ≤ s.hk.logHead → s.hk.dropped = 0 → ∃ u, exec (.logTailWrite v) s = .next u ∧ u.hk = { s.hk with logTail := n })

/-- R341, R344, R371, R372, R374: a watchpoint is enabled under WATCH with a length of whole units, and is armed later; a load of the
policy is BUSY until its check, whose RESULT says what failed; it closes when TIME reaches its expiry. That an enabling write of WP.CTL
whose length is 0 or no multiple of 8 is ignored is the model's choice (log 55). -/
def Obligations.DebugPolicy : Prop :=
  ∀ (p i : Nat) (v : Word) (s : State), let q := s.part p; let n := v.toNat; let wp : Watch := tget {} q.watches i
    let at_ (u : State) : Watch := tget {} (u.part p).watches i
    (bit q.polOpen 5 = false ∨ v.getLsbD 0 = false ∨ fld n 63 32 = 0 ∨ fld n 63 32 % 8 ≠ 0 → exec (.watchpointEnable p i v) s = .next s) ∧
    (bit q.polOpen 5 = true → v.getLsbD 0 = true → fld n 63 32 ≠ 0 → fld n 63 32 % 8 = 0 → ∃ u, exec (.watchpointEnable p i v) s = .next u ∧
      at_ u = { wp with ctl := fld n 63 32 * 2 ^ 32 + fld n 2 0, armed := false }) ∧
    (bit wp.ctl 0 = true → ∃ u, exec (.watchpointArmed p i) s = .next u ∧ at_ u = { wp with armed := true } ∧ SameMemory s u) ∧
    (bit wp.ctl 0 = false → exec (.watchpointArmed p i) s = .next s) ∧
    (q.polBusy = true → exec (.polCmdLoad p) s = .next s) ∧
    (q.polBusy = false → exec (.policyCheckDone p) s = .next s ∧ ∃ u, exec (.polCmdLoad p) s = .next u ∧ (u.part p).polBusy = true ∧
      (u.part p).irqs = 2 :: q.irqs ∧ SameMemory s u) ∧
    (q.polBusy = true → s.paUp q.polAddr 0x1C73 = false → exec (.policyCheckDone p) s = .next s) ∧
    (q.polBusy = true → s.paUp q.polAddr 0x1C73 = true → let (w, r, h) := s.polCheck p
      ∃ u, exec (.policyCheckDone p) s = .next u ∧ (u.part p).polBusy = false ∧ (u.part p).polRes = r ∧ if r = 1
        then (u.part p).polOpen = fld h 197 192 ∧ (u.part p).polCtr = fld h 127 64 ∧ (u.part p).polExp = fld h 191 128
        else (u.part p).polOpen = (w.part p).polOpen) ∧
    (q.tdisp = .run → q.policyKey = none → (s.polCheck p).2.1 = 6) ∧ (q.tdisp ≠ .run → (s.polCheck p).2.1 = 7) ∧
    (q.polBlob = none ∨ s.time < q.polExp → exec (.policyExpiry p) s = .next s) ∧
    (q.polBlob ≠ none → q.polExp ≤ s.time → ∃ u, exec (.policyExpiry p) s = .next u ∧ (u.part p).polOpen = 0 ∧
      (∀ c x, (s.strand c x).part = p → (u.strand c x).stopped = false) ∧ ∀ j, bit (tget {} (u.part p).watches j : Watch).ctl 0 = false)

/-- R96, R288, R375, R376: a window access to a page with no mapping reads all ones and discards its write; one to a line reads or writes it
as the home slice holds it, a read by halves of 64 bytes; an AtomicOp answers the old value; poison is reported and never changed by one. A
request that cannot be performed yet waits; those that wait are tried in their order before a new one, which waits behind a posted write of
its own function that still waits, and passes the others: where the spec only has posted writes keep their order, this queue is the model's
choice (log 59). -/
def Obligations.DeviceWindow : Prop :=
  ∀ (f : FnRef) (off n : Nat) (bytes bs : List Byte) (noSnoop bad : Bool) (op : PcieAtomic) (a b : Word) (ph : Phys) (x : WinReq) (l : List WinReq) (v w u : State) (ts ts' : List Touch)
    (b0 : List Byte) (s : State), let va := s.winVa f off
    let ended (t : State) : Out := .next { t with win := [] }
    let replied (t : State) (r : Reply) : Out := ended { t with replies := r :: t.replies }
    let waits (o : WinOp) : Out := .next { s with win := [{ fn := f, off := off, op := o, va := some va }] }
    let ones := List.replicate n (0xFF : Byte); let who := hostWho (winSlot f)
    let s0 : State := { s with win := [] }; let named (t : State) (r : WinReq) : WinReq := { r with va := some (r.va.getD (t.winVa r.fn r.off)) }
    let x' := named s x; let req (o : WinOp) : WinReq := { fn := f, off := off, op := o }
    let events : List (Instr × WinReq) := [(.windowRead f off n noSnoop, req (.read n noSnoop)),
      (.windowWrite f off bytes noSnoop, req (.write bytes noSnoop)), (.windowAtomic f off n op a b, req (.atomic n op a b))]
    (s.win = [] → (0 < n → va % 64 + n ≤ 64 →
      (s.winAt f va .r = .none_ v → exec (.windowRead f off n noSnoop) s = replied v (.read ones false)) ∧
      (s.winAt f va .r = .wait → exec (.windowRead f off n noSnoop) s = waits (.read n noSnoop)) ∧
      (s.winAt f va .r = .at_ v ph → (v.hostMix f ph n).physLine who ph va n 0 none = .ok w bs bad ts →
        exec (.windowRead f off n false) s = replied w (.read (if bad then ones else bs) bad))) ∧
    (0 < bytes.length → va % 128 + bytes.length ≤ 128 →
      (s.winAt f va .w = .none_ v → exec (.windowWrite f off bytes noSnoop) s = ended v) ∧
      (s.winAt f va .w = .wait → exec (.windowWrite f off bytes noSnoop) s = waits (.write bytes noSnoop)) ∧
      (s.winAt f va .w = .at_ v ph → (v.hostMix f ph bytes.length).physLine who ph va bytes.length 0 (some bytes) = .ok w bs bad ts →
        exec (.windowWrite f off bytes false) s = ended w)) ∧
    (s.winAt f va .rw = .none_ v → exec (.windowAtomic f off n op a b) s = replied v (.read ones false)) ∧
    (s.winAt f va .rw = .wait → exec (.windowAtomic f off n op a b) s = waits (.atomic n op a b)) ∧
    (s.winAt f va .rw = .at_ v ph → (v.hostMix f ph n).physLine who ph va n 0 none = .ok w bs true ts →
      exec (.windowAtomic f off n op a b) s = replied w (.read ones true)) ∧
    (s.winAt f va .rw = .at_ v ph → (v.hostMix f ph n).physLine who ph va n 0 none = .ok w bs false ts →
      let old := bytesNat bs
      let new := match op with
        | .fetchAdd => (old + a.toNat) % 2 ^ (8 * n)
        | .swap => a.toNat % 2 ^ (8 * n)
        | .cas => if old = a.toNat % 2 ^ (8 * n) then b.toNat % 2 ^ (8 * n) else old
      w.physLine who ph va n 0 (some (natBytes n new)) = .ok u b0 bad ts' →
      exec (.windowAtomic f off n op a b) s = replied u (.read bs false))) ∧
    (∀ e ∈ events,
      (s.win = x :: l → x.fn = f → x.writes = true → (∀ y ∈ l, y.fn = f) → s0.winDo x' = none →
        exec e.1 s = .next { s with win := x' :: l ++ [e.2] }) ∧
      (s.win = [x] → (x.fn ≠ f ∨ x.writes = false) → s0.winDo x' = none →
        (s0.winDo (named s e.2) = none → exec e.1 s = .next { s with win := [x', named s e.2] }) ∧
        (s0.winDo (named s e.2) = some v → exec e.1 s = .next { v with win := [x'] })) ∧
      (s.win = [x] → s0.winDo x' = some v → v.winDo (named v e.2) = some w → exec e.1 s = .next { w with win := [] }))

/-- R366, R367, R387: requests are served once KRYEL and HOST are ready: what each answers, and what it changes. The response codes are
those of the SPDM family, presumed (log 40); the bytes of measurement 6 are the model's choice (log 8). -/
def Obligations.SpdmRequests : Prop :=
  ∀ (f : FnRef) (p id index seconds : Nat) (sess : Option Nat) (nonce key2 : BitVec 256) (key : BitVec 512) (s : State),
    let answers (i : Instr) (code : Nat) : Prop := ∃ d, exec i s = .next { s with replies := .spdm code d :: s.replies }
    let no (i : Instr) : Prop := exec i s = .next { s with replies := .spdm 0x7F [0x01] :: s.replies }
    let q := s.part p; let k := s.kryel; let open_ := s.openSession f id = true; let mine := s.openSession (.vf p) id = true
    (s.kryelUp = false → ∀ i : Instr, i ∈ [.getVersion f, .getCapabilities f, .negotiateAlgorithms f, .getDigests f, .getCertificate f, .challenge f nonce,
      .getMeasurements f sess index, .keyExchange f, .finish f id, .keyUpdate f id, .heartbeat f id, .endSession f id, .setPolicyKey f id key,
      .setMeasPeriod f id seconds, .lockInterface p, .startInterface p, .stopInterface p, .ideKm f id key2] → exec i s = .next s) ∧
    (s.kryelUp = true →
      answers (.getVersion f) 0x04 ∧ answers (.getCapabilities f) 0x61 ∧
      exec (.negotiateAlgorithms f) s = .next { s with replies := .spdm 0x63 algorithms :: s.replies } ∧ answers (.getDigests f) 0x01 ∧
      answers (.getCertificate f) 0x02 ∧ answers (.challenge f nonce) 0x03 ∧
      (index = 0 ∨ 8 < index → no (.getMeasurements f sess index)) ∧
      (1 ≤ index → index ≤ 6 → exec (.getMeasurements f sess index) s =
        .next { s with replies := .spdm 0x60 [if index = 6 then bootStatus s.hk.fail else tget 0 k.meas index] :: s.replies }) ∧
      (f = .vf p → sess = some id → index = 7 → mine → exec (.getMeasurements f sess index) s = .next { s with replies := .spdm 0x60 [q.config] :: s.replies }) ∧
      (64 ≤ k.sessions.length → no (.keyExchange f)) ∧
      (k.sessions.length < 64 → ∃ u, exec (.keyExchange f) s = .next u ∧ u.kryel.sessions = k.sessions ++ [{ id := k.nextId, fn := f }] ∧
        u.kryel.nextId = k.nextId + 1) ∧
      ((s.session f id).isSome = true → ∃ u, exec (.finish f id) s = .next u ∧ ∀ x ∈ u.kryel.sessions, x.id = id → x.open_ = true) ∧
      (open_ → (∃ u, exec (.keyUpdate f id) s = .next u ∧ u.kryel.sessions = k.sessions.map (fun x => if x.id = id then { x with key := x.key + 1 } else x)) ∧
        answers (.heartbeat f id) 0x68 ∧
        ∃ u, exec (.endSession f id) s = .next u ∧ u.kryel.sessions = k.sessions.filter (fun x => x.id != id)) ∧
      (¬ open_ → no (.keyUpdate f id) ∧ no (.heartbeat f id) ∧ no (.endSession f id) ∧ no (.ideKm f id key2) ∧ no (.setPolicyKey f id key) ∧
        no (.setMeasPeriod f id seconds)) ∧
      (mine → q.tdisp = .locked → q.policyKey = none →
        ∃ u, exec (.setPolicyKey (.vf p) id key) s = .next u ∧ (u.part p).policyKey = some key) ∧
      (mine → (q.tdisp ≠ .locked ∨ q.policyKey ≠ none) → no (.setPolicyKey (.vf p) id key)) ∧
      (mine → (q.tdisp = .locked ∨ q.tdisp = .run) → 1 ≤ seconds → seconds ≤ 3600 →
        ∃ u, exec (.setMeasPeriod (.vf p) id seconds) s = .next u ∧ (u.part p).measPeriod = seconds) ∧
      (∀ n, f = .port n → no (.setPolicyKey f id key) ∧ no (.setMeasPeriod f id seconds) ∧ no (.ideKm f id key2)) ∧
      (mine → ∃ u, exec (.ideKm (.vf p) id key2) s = .next u ∧ (u.part p).ideKey = some key2))

/-- R364, R365, R368, R369: the TDISP states and what moves a VF among them; ERROR ends its launches, erases its keys and zeroes its
scratchpads; the creation and the destruction of a partition make its slot's keys anew and raise vector 2 where TDISP.STATE or POL.STAT
changes by them (R375). That LOCK_INTERFACE clears the policy key is the
model's choice (log 56). -/
def Obligations.InterfaceStates : Prop :=
  ∀ (p lid c : Nat) (s : State), let q := s.part p
    let fresh (u : State) : Prop := tget 0 u.kryel.keyGen p = s.kryel.gens + 1
    let told : List Nat := if q.tdisp ≠ .unlocked ∨ q.polStat ≠ 0 then [2] else []
    let failed (u : State) : Prop := (u.part p).tdisp = .error ∧ fresh u ∧ (q.tdisp = .run → (u.part p).ideKey = none) ∧
      (q.live.contains lid = true → (u.launch p lid).abort ≠ none) ∧
      ((s.core c).owner = some p → (u.core c).sp = [] ∧ (u.core c).tiles = [])
    (s.kryelUp = true →
      (q.tdisp = .unlocked → ∃ u, exec (.lockInterface p) s = .next u ∧ (u.part p).tdisp = .locked ∧ (u.part p).policyKey = none ∧
        (u.part p).irqs = 2 :: q.irqs) ∧
      (q.tdisp ≠ .unlocked → exec (.lockInterface p) s = .next s) ∧
      (q.tdisp = .locked → ∃ u, exec (.startInterface p) s = .next u ∧ (u.part p).tdisp = .run) ∧
      (q.tdisp ≠ .locked → exec (.startInterface p) s = .next s) ∧
      (q.tdisp ≠ .unlocked → ∃ u, exec (.stopInterface p) s = .next u ∧ (u.part p).tdisp = .unlocked) ∧
      (q.tdisp = .unlocked → exec (.stopInterface p) s = .next s)) ∧
    (q.tdisp = .locked ∨ q.tdisp = .run → ∃ u, exec (.frozenConfigWrite p) s = .next u ∧ failed u) ∧
    (q.tdisp = .unlocked ∨ q.tdisp = .error → exec (.frozenConfigWrite p) s = .next s) ∧
    (q.tdisp = .run → ∃ u, exec (.ideIntegrityFail (.vf p)) s = .next u ∧ failed u) ∧
    (q.tdisp ≠ .run → exec (.ideIntegrityFail (.vf p)) s = .next s) ∧
    (q.created = false → p ≤ 47 → ∃ u, exec (.partitionCreation p) s = .next u ∧ u.part p = { created := true, clusters := q.clusters, irqs := told } ∧
      fresh u ∧ u.node = s.node ∧ u.hk = s.hk) ∧
    (q.created = true → exec (.partitionCreation p) s = .next s ∧ ∃ u, exec (.partitionDestruction p) s = .next u ∧
      u.part p = { irqs := told } ∧ fresh u ∧
      (∀ m ∈ (u.core c).cmds, m.part ≠ p) ∧ (∀ cl, (u.cluster cl).part ≠ some p) ∧ ∀ f ∈ u.flights, f.part ≠ p)

/-- R92, R97, R241, R297, R363, R365, R386 to R391, R394: the commands of HK.CMD, each BUSY until it completes; what a reset of the package
keeps; READY and FAIL; sensors and wear. That a command takes effect at its event while HK.STAT reads BUSY, and needs the HKP ready bit, is
the model's choice (log 61); so are the memory that PACKAGE_RESET clears (log 62), the image bytes that FW_STAGE takes (log 8), LOCKED before
BAD_ARG in ASSIGN and SHARE and who has a shared cluster first (log 52), and BAD_ARG for image 0, an empty ASSIGN mask and a map that reads
poisoned (log 121). -/
def Obligations.HousekeepingCommands : Prop :=
  ∀ (b k : Nat) (readings : List Sensor) (power : Nat) (words : List (Nat × Word)) (v : State) (bs : List Byte) (bad : Bool) (s : State), let h := s.hk
    let mapUp := s.paUp h.arg0.toNat 576; let imgUp := s.paUp (h.arg1.toNat % 2 ^ 50) s.fwSize
    let p := fld h.arg0.toNat 5 0; let per := fld h.arg1.toNat 7 0; let bank := fld h.arg0.toNat 1 0
    let l := shareList h.arg1.toNat; let k0 := fld h.arg0.toNat 3 0
    let locked : Prop := ∃ e ∈ l ++ (s.cluster p).share, (s.part e.1).tdisp ≠ .unlocked
    let listBad : Prop := (∃ e ∈ l, e.2 = 0 ∨ bit (s.part e.1).clusters p = false) ∨ ¬ (l.map (·.1)).Nodup
    let ends (i : Instr) (status : Nat) (o : State → Prop) : Prop :=
      ∃ u, exec i s = .next u ∧ u.hk.busy = true ∧ u.hk.status = 1 ∧ u.hk.result = status ∧ o u
    let free : Prop := h.busy = false ∧ bit h.ready 2 = true
    let pass : State → Prop := fun _ => True
    (h.busy = true ∨ bit h.ready 2 = false → ∀ i : Instr, i ∈ [.setNode, .writeMap, .assign, .fwStage, .fwCommit, .checkpoint, .setScrub, .share] → exec i s = .next s) ∧
    (free → (∀ e ∈ s.parts, e.2.tdisp ≠ .run) → ends .setNode 0 (fun u => u.node = fld h.arg0.toNat 13 0)) ∧
    (free → (∃ e ∈ s.parts, e.2.tdisp = .run) → ends .setNode 2 (fun u => u.node = s.node)) ∧
    (free → mapUp = false → ∃ u, exec .writeMap s = .next u ∧ u.hk.busy = true ∧ u.hk.status = 1 ∧ u.hk.pend = some 2 ∧ u.pmap = s.pmap) ∧
    (free → mapUp = true → s.paRead h.arg0.toNat 49 576 = (v, bs, bad) → let m := (List.range 576).map (fun r => (lget 0 bs r).toNat)
      (bad = true ∨ m.all mapByteOk = false → ends .writeMap 6 (fun u => u.pmap = v.pmap)) ∧
      (bad = false → m.all mapByteOk = true →
        (∀ k < 12, ((List.range 576).map (fun r => granulesOn r (lget 0 m r) k)).sum ≤ 48 * 2 ^ 18) →
        ends .writeMap 0 (fun u => ∀ r < 576, tget 0 u.pmap r = lget 0 m r))) ∧
    (free → 47 < p ∨ (h.arg1 = 0 ∧ (s.part p).tdisp = .unlocked) → ends .assign 6 pass) ∧
    (free → p ≤ 47 → (s.part p).tdisp ≠ .unlocked → ends .assign 2 (fun u => u.parts = s.parts ∧ u.clusters = s.clusters)) ∧
    (free → p ≤ 47 → h.arg1 ≠ 0 → (s.part p).tdisp = .unlocked → ends .assign 0 (fun u => (u.part p).clusters = h.arg1.toNat)) ∧
    (free → bank = 0 → (imgUp = true → ends .fwStage 6 pass) ∧ ends .fwCommit 6 pass) ∧
    (free → bank ≠ 0 → let f : Firmware := tget {} h.fw bank
      (imgUp = true → s.fwImage = (v, bs, bad) →
        (bad = true ∨ Config.imageSigned Config.fusedKeyHash (Config.sha3 bs) = false → ends .fwStage 4 pass) ∧
        (bad = false → Config.imageSigned Config.fusedKeyHash (Config.sha3 bs) = true →
          (Config.fwVersion bs < f.fuse → ends .fwStage 5 pass) ∧
          (f.fuse ≤ Config.fwVersion bs → ends .fwStage 0 (fun u => let g : Firmware := tget {} u.hk.fw bank
            g.pend = some (!f.cur) ∧ g.img (!f.cur) = (Config.fwVersion bs, Config.sha3 bs) ∧ g.img f.cur = f.img f.cur ∧ g.fuse = f.fuse)))) ∧
      (f.pend ≠ some f.cur → ends .fwCommit 0 (fun u => (tget {} u.hk.fw bank : Firmware).fuse = max f.fuse (f.img f.cur).1)) ∧
      (f.pend = some f.cur → ends .fwCommit 6 pass)) ∧
    (free → ends .checkpoint 0 pass) ∧
    (free → k0 ≤ 11 → 1 ≤ per → per ≤ 168 → ends .setScrub 0 (fun u => (tget {} u.scrub k0 : Scrub).period = per)) ∧
    (free → k0 = 15 → 1 ≤ per → per ≤ 168 → ends .setScrub 0 (fun u => ∀ i < 12, (tget {} u.scrub i : Scrub).period = per)) ∧
    (free → per = 0 ∨ 168 < per ∨ (11 < k0 ∧ k0 ≠ 15) → ends .setScrub 6 (fun u => u.scrub = s.scrub)) ∧
    (free → locked → ends .share 2 (fun u => u.clusters = s.clusters)) ∧
    (free → ¬ locked → listBad → ends .share 6 (fun u => u.clusters = s.clusters)) ∧
    (free → ¬ locked → ¬ listBad → ends .share 0 (fun u => let c := u.cluster p
      c.share = (if l.length < 2 then [] else l) ∧ c.slice = (if fld h.arg0.toNat 63 32 = 0 then 2000000 else fld h.arg0.toNat 63 32) ∧
      c.holder = c.part.map (fun q => (q, s.cy)) ∧
      (2 ≤ l.length → ∃ q, c.part = some q ∧ q ∈ l.map (·.1) ∧ (∀ o ∈ l.map (·.1), (s.cluster p).part = some o → q = o)))) ∧
    (h.busy = true → h.pend = none → ∃ u, exec .hkCommandComplete s = .next u ∧ u.hk.busy = false ∧ u.hk.status = h.result ∧ SameMemory s u) ∧
    (h.busy = true → h.pend = some 2 → (mapUp = false → exec .hkCommandComplete s = .next s) ∧
      (mapUp = true → ∃ u, exec .hkCommandComplete s = .next u ∧ u.hk.busy = false ∧ u.hk.pend = none ∧ u.hk.status = s.writeMap.2)) ∧
    (free → imgUp = false → ∃ u, exec .fwStage s = .next u ∧ u.hk.busy = true ∧ u.hk.status = 1 ∧ u.hk.pend = some 4 ∧ SameMemory s u) ∧
    (h.busy = true → h.pend = some 4 → (imgUp = false → exec .hkCommandComplete s = .next s) ∧
      (imgUp = true → ∃ u, exec .hkCommandComplete s = .next u ∧ u.hk.busy = false ∧ u.hk.pend = none ∧ u.hk.status = s.fwStage.2)) ∧
    (∃ u, exec .packageReset s = .next u ∧ u.hbm = [] ∧ u.cores = [] ∧ u.parts = [] ∧ u.hk.ready = 0 ∧
      (∀ k, (tget {} u.hk.fw k : Firmware).fuse = (tget {} h.fw k : Firmware).fuse) ∧ u.kryel.gens = s.kryel.gens) ∧
    (26 ≤ b ∨ (bit h.fail b = true ∧ (b = 0 ∨ 3 < b ∨ (fwOf h.fw b).fell = false)) → exec (.functionReady b) s = .next s) ∧
    (b < 26 → bit h.fail b = false → (b = 0 ∨ 3 < b ∨ runs h.fw b = true) → ∃ u, exec (.functionReady b) s = .next u ∧ bit u.hk.ready b = true) ∧
    (b < 26 → ∃ u, exec (.functionFailedCheck b) s = .next u ∧ bit u.hk.fail b = true) ∧
    (∃ u, exec (.sensorRefresh readings power) s = .next u ∧ (u.hk.pkgThrottle = true ↔ 2800 < power ∨ (h.pkgThrottle = true ∧ power = 2800)) ∧
      ∀ x, readings = [x] → tget 0 u.hk.sensors (sensorAt x) = sensorWord x) ∧
    (∃ u, exec (.wearRecompute words) s = .next u ∧ SameMemory s u ∧ ∀ w, words = [(k, w)] → tget 0 u.hk.wear k = (w &&& 0xFFFFFFFF0000FFFF#64))
end

