-- ==== Sys2Proof/Laws/Issue.lean ====
section
/-! SUPPORT. Issue: what a lone operation does, by its gate and its run. -/

namespace Sys2Proof.Laws

open Sys2Proof.Machine Sys2Proof.Safety

/-- The entry of an engine's queue that a lone operation takes, if it takes one, is there. -/
abbrev Fits (o : SlotOp) (s : State) : Prop :=
  overfull [o] 1 16 (s.core s.cur).copies.length = false ∧ overfull [o] 2 8 (s.core s.cur).kiln.length = false

theorem fits_none {o : SlotOp} (h : o.takes = 0) (s : State) : Fits o s := by simp [Fits, overfull, h]

theorem puts_le (o : SlotOp) (s : State) : o.puts s ≤ o.results := by unfold SlotOp.puts; split <;> omega

/-- A lone operation's gate is its own, and the count of results under way. -/
theorem gateOf_single {o : SlotOp} {s : State} (hf : Fits o s) :
    gateOf [o] s = match o.gate s with
      | .go => if 32 < o.puts s + s.me.underWay s.cy then .freeze else .go
      | g => g := by
  obtain ⟨h1, h2⟩ := hf
  cases h : o.gate s <;> simp [gateOf, h, h1, h2]

theorem gateOf_single_go {o : SlotOp} {s : State} (hf : Fits o s) (hg : o.gate s = .go) (hr : Room s o.results) : gateOf [o] s = .go := by
  rw [gateOf_single hf, hg]
  exact if_neg (by have := puts_le o s; unfold Room at hr; omega)

theorem runOps_single (o : SlotOp) (s : State) : runOps [o] s = o.run s := rfl

/-- An operation that can issue and raises nothing has its effect, and the bundle ends. -/
theorem meaning_ok {o : SlotOp} {s u : State} (hf : Fits o s) (hg : o.gate s = .go) (hr : Room s o.results) (h : o.run s = .ok u) :
    meaning o s = issued u := by
  simp [meaning, issueBundle, gateOf_single_go hf hg hr, runOps_single, h, issued]

/-- An operation that raises a cause has no other effect. -/
theorem meaning_error {o : SlotOp} {s : State} {e : Exc} (hf : Fits o s) (hg : o.gate s = .go) (hr : Room s o.results) (h : o.run s = .error e) :
    meaning o s = raised s e := by
  simp [meaning, issueBundle, gateOf_single_go hf hg hr, runOps_single, h, raised]

/-- An operation that can always issue and raises nothing. -/
theorem op_ok {slot n : Nat} {f : State → Res} {s u : State} (hr : Room s n) (h : f s = .ok u) : meaning (op slot n f) s = issued u :=
  meaning_ok (fits_none rfl s) rfl hr h

theorem op_error {slot n : Nat} {f : State → Res} {s : State} {e : Exc} (hr : Room s n) (h : f s = .error e) :
    meaning (op slot n f) s = raised s e :=
  meaning_error (fits_none rfl s) rfl hr h

/-- A scalar operation's result (R174). -/
theorem alu_ok (u : CxUnit) (lat : Nat) (d : SReg) (f : Strand → Word) {s : State} (hr : Room s 1) :
    meaning (alu u lat d f) s = scalar s u lat d (f s.me) :=
  meaning_ok (fits_none rfl s) rfl hr rfl

end Sys2Proof.Laws
end

