-- ==== Sys2Proof/Laws/Table.lean ====
section
/-! SUPPORT. Tables and lists: reading after writing, and the canonical form. -/

namespace Sys2Proof.Machine

variable {α : Type}

theorem tget_tdel (d : α) (t : Tbl α) (k j : Nat) : tget d (tdel t k) j = if j = k then d else tget d t j := by
  induction t with
  | nil => simp [tdel, tget]
  | cons e r ih =>
    obtain ⟨k', v⟩ := e
    by_cases h : k' = k <;> by_cases h' : k' = j <;> simp_all [tdel, tget]

theorem tget_tins (d : α) (t : Tbl α) (k j : Nat) (v : α) : tget d (tins t k v) j = if j = k then v else tget d t j := by
  induction t with
  | nil => by_cases h : k = j <;> simp [tins, tget, h, eq_comm]
  | cons e r ih =>
    obtain ⟨k', v'⟩ := e
    simp only [tins]
    split
    · by_cases h : k = j <;> simp [tget, h, eq_comm]
    · split
      · rename_i h; subst h; by_cases h' : k = j <;> simp [tget, h', eq_comm]
      · by_cases h' : k' = j
        · subst h'; simp [tget]; omega
        · simp [tget, h', ih]

/-- Reading a table after a write. -/
theorem tget_tput [DecidableEq α] (d : α) (t : Tbl α) (k j : Nat) (v : α) :
    tget d (tput d t k v) j = if j = k then v else tget d t j := by
  unfold tput
  split
  · rename_i h; subst h; exact tget_tdel _ _ _ _
  · exact tget_tins _ _ _ _ _

@[simp] theorem tget_tput_same [DecidableEq α] (d : α) (t : Tbl α) (k : Nat) (v : α) : tget d (tput d t k v) k = v := by
  simp [tget_tput]

theorem tget_tput_other [DecidableEq α] (d : α) (t : Tbl α) {k j : Nat} (v : α) (h : j ≠ k) :
    tget d (tput d t k v) j = tget d t j := by
  simp [tget_tput, h]

@[simp] theorem tget_nil (d : α) (k : Nat) : tget d [] k = d := rfl

/-- Every key of a table is above `k`. -/
def tabove (k : Nat) (t : Tbl α) : Prop := ∀ e ∈ t, k < e.1

theorem tsorted_cons (k : Nat) (v : α) (t : Tbl α) : tsorted ((k, v) :: t) = true ↔ tabove k t ∧ tsorted t = true := by
  induction t generalizing k v with
  | nil => simp [tsorted, tabove]
  | cons e r ih =>
    obtain ⟨k', v'⟩ := e
    simp only [tsorted, Bool.and_eq_true, decide_eq_true_eq]
    constructor
    · rintro ⟨h, hs⟩
      refine ⟨?_, hs⟩
      intro e he
      rcases List.mem_cons.mp he with rfl | he
      · exact h
      · exact lt_trans h (((ih k' v').mp hs).1 e he)
    · rintro ⟨h, hs⟩
      exact ⟨h (k', v') (by simp), hs⟩

theorem tclean_cons [DecidableEq α] (d : α) (k : Nat) (v : α) (t : Tbl α) :
    tclean d ((k, v) :: t) = true ↔ v ≠ d ∧ tclean d t = true := by
  simp [tclean]

theorem mem_tdel {t : Tbl α} {k : Nat} {e : Nat × α} (h : e ∈ tdel t k) : e ∈ t := by
  induction t with
  | nil => simp [tdel] at h
  | cons a r ih =>
    obtain ⟨k', v⟩ := a
    simp only [tdel] at h
    split at h
    · exact List.mem_cons_of_mem _ (ih h)
    · rcases List.mem_cons.mp h with rfl | h
      · simp
      · exact List.mem_cons_of_mem _ (ih h)

theorem mem_tins {t : Tbl α} {k : Nat} {v : α} {e : Nat × α} (h : e ∈ tins t k v) : e = (k, v) ∨ e ∈ t := by
  induction t with
  | nil => simp [tins] at h; exact .inl h
  | cons a r ih =>
    obtain ⟨k', v'⟩ := a
    simp only [tins] at h
    split at h
    · simpa using h
    · split at h
      · rcases List.mem_cons.mp h with h | h
        · exact .inl h
        · exact .inr (List.mem_cons_of_mem _ h)
      · rcases List.mem_cons.mp h with rfl | h
        · simp
        · rcases ih h with h | h
          · exact .inl h
          · exact .inr (List.mem_cons_of_mem _ h)

theorem tdel_wf [DecidableEq α] (d : α) (t : Tbl α) (k : Nat) (h : twf d t = true) : twf d (tdel t k) = true := by
  induction t with
  | nil => simpa [tdel] using h
  | cons a r ih =>
    obtain ⟨k', v⟩ := a
    simp only [twf, Bool.and_eq_true, tsorted_cons, tclean_cons] at h
    have hr : twf d (tdel r k) = true := ih (by simp [twf, h])
    simp only [tdel]
    split
    · exact hr
    · simp only [twf, Bool.and_eq_true] at hr
      simp only [twf, Bool.and_eq_true, tsorted_cons, tclean_cons]
      exact ⟨⟨fun e he => h.1.1 e (mem_tdel he), hr.1⟩, h.2.1, hr.2⟩

theorem tins_wf [DecidableEq α] (d : α) (t : Tbl α) (k : Nat) (v : α) (hv : v ≠ d) (h : twf d t = true) : twf d (tins t k v) = true := by
  induction t with
  | nil => simp [tins, twf, tsorted, tclean, hv]
  | cons a r ih =>
    obtain ⟨k', v'⟩ := a
    have h0 := h
    simp only [twf, Bool.and_eq_true, tsorted_cons, tclean_cons] at h
    have hr : twf d (tins r k v) = true := ih (by simp [twf, h])
    simp only [tins]
    split
    · rename_i hk
      simp only [twf, Bool.and_eq_true, tsorted_cons, tclean_cons]
      refine ⟨⟨?_, h.1⟩, hv, h.2⟩
      intro e he
      rcases List.mem_cons.mp he with rfl | he
      · exact hk
      · exact lt_trans hk (h.1.1 e he)
    · split
      · rename_i hk; subst hk
        simp only [twf, Bool.and_eq_true, tsorted_cons, tclean_cons]
        exact ⟨h.1, hv, h.2.2⟩
      · simp only [twf, Bool.and_eq_true] at hr
        simp only [twf, Bool.and_eq_true, tsorted_cons, tclean_cons]
        refine ⟨⟨?_, hr.1⟩, h.2.1, hr.2⟩
        intro e he
        rcases mem_tins he with rfl | he
        · simp; omega
        · exact h.1.1 e he

/-- A write keeps the canonical form. -/
theorem tput_wf [DecidableEq α] (d : α) (t : Tbl α) (k : Nat) (v : α) (h : twf d t = true) : twf d (tput d t k v) = true := by
  unfold tput
  split
  · exact tdel_wf d t k h
  · rename_i hv; exact tins_wf d t k v hv h

/-- Reading a list after a write within it. -/
theorem lget_lput (d : α) (l : List α) (i j : Nat) (v : α) :
    lget d (lput l i v) j = if j = i ∧ i < l.length then v else lget d l j := by
  simp only [lget, lput, List.getD_eq_getElem?_getD, List.getElem?_set]
  by_cases h : j = i
  · subst h; by_cases h' : j < l.length <;> simp [h']
  · simp [h, Ne.symm h]

@[simp] theorem lput_length (l : List α) (i : Nat) (v : α) : (lput l i v).length = l.length := by simp [lput]

/-- A field of a word is below its width's power (R5). -/
theorem fld_lt (w hi lo : Nat) : fld w hi lo < 2 ^ (hi + 1 - lo) := Nat.mod_lt _ (by positivity)

theorem natBytes_length (n v : Nat) : (natBytes n v).length = n := by
  induction n generalizing v with
  | zero => rfl
  | succ n ih => simp [natBytes, ih]

/-- The value of a number's little-endian bytes (R5). -/
theorem bytesNat_natBytes (n v : Nat) : bytesNat (natBytes n v) = v % 256 ^ n := by
  induction n generalizing v with
  | zero => simp [natBytes, bytesNat, Nat.mod_one]
  | succ n ih =>
    have h : v % 256 ^ (n + 1) = v % 256 + 256 * (v / 256 % 256 ^ n) := by
      rw [Nat.pow_succ, Nat.mul_comm (256 ^ n) 256, Nat.mod_mul]
    simp [natBytes, bytesNat, ih, h]

end Sys2Proof.Machine
end

