-- ==== Sys2Proof/Laws/State.lean ====
section
/-! SUPPORT. What each update of a record of the package leaves alone, and what the records read after it. -/

namespace Sys2Proof.Machine

variable (s : State)

/-! `State.setCore`. -/

@[simp] theorem State.setCore_agenda (c : Nat) (k : Core) : (s.setCore c k).agenda = s.agenda := rfl
@[simp] theorem State.setCore_cur (c : Nat) (k : Core) : (s.setCore c k).cur = s.cur := rfl
@[simp] theorem State.setCore_rota (c : Nat) (k : Core) : (s.setCore c k).rota = s.rota := rfl
@[simp] theorem State.setCore_free (c : Nat) (k : Core) : (s.setCore c k).free = s.free := rfl
@[simp] theorem State.setCore_cy (c : Nat) (k : Core) : (s.setCore c k).cy = s.cy := rfl
@[simp] theorem State.setCore_node (c : Nat) (k : Core) : (s.setCore c k).node = s.node := rfl
@[simp] theorem State.setCore_hbm (c : Nat) (k : Core) : (s.setCore c k).hbm = s.hbm := rfl
@[simp] theorem State.setCore_lines (c : Nat) (k : Core) : (s.setCore c k).lines = s.lines := rfl
@[simp] theorem State.setCore_pmap (c : Nat) (k : Core) : (s.setCore c k).pmap = s.pmap := rfl
@[simp] theorem State.setCore_remaps (c : Nat) (k : Core) : (s.setCore c k).remaps = s.remaps := rfl
@[simp] theorem State.setCore_l2 (c : Nat) (k : Core) : (s.setCore c k).l2 = s.l2 := rfl
@[simp] theorem State.setCore_uses (c : Nat) (k : Core) : (s.setCore c k).uses = s.uses := rfl
@[simp] theorem State.setCore_scrub (c : Nat) (k : Core) : (s.setCore c k).scrub = s.scrub := rfl
@[simp] theorem State.setCore_windows (c : Nat) (k : Core) : (s.setCore c k).windows = s.windows := rfl
@[simp] theorem State.setCore_frames (c : Nat) (k : Core) : (s.setCore c k).frames = s.frames := rfl
@[simp] theorem State.setCore_leases (c : Nat) (k : Core) : (s.setCore c k).leases = s.leases := rfl
@[simp] theorem State.setCore_clusters (c : Nat) (k : Core) : (s.setCore c k).clusters = s.clusters := rfl
@[simp] theorem State.setCore_parts (c : Nat) (k : Core) : (s.setCore c k).parts = s.parts := rfl
@[simp] theorem State.setCore_flights (c : Nat) (k : Core) : (s.setCore c k).flights = s.flights := rfl
@[simp] theorem State.setCore_hk (c : Nat) (k : Core) : (s.setCore c k).hk = s.hk := rfl
@[simp] theorem State.setCore_kryel (c : Nat) (k : Core) : (s.setCore c k).kryel = s.kryel := rfl
@[simp] theorem State.setCore_replies (c : Nat) (k : Core) : (s.setCore c k).replies = s.replies := rfl
@[simp] theorem State.setCore_recent (c : Nat) (k : Core) : (s.setCore c k).recent = s.recent := rfl
@[simp] theorem State.setCore_dma (c : Nat) (k : Core) : (s.setCore c k).dma = s.dma := rfl
@[simp] theorem State.setCore_win (c : Nat) (k : Core) : (s.setCore c k).win = s.win := rfl

/-! `State.modCore`. -/

@[simp] theorem State.modCore_agenda (c : Nat) (f : Core → Core) : (s.modCore c f).agenda = s.agenda := rfl
@[simp] theorem State.modCore_cur (c : Nat) (f : Core → Core) : (s.modCore c f).cur = s.cur := rfl
@[simp] theorem State.modCore_rota (c : Nat) (f : Core → Core) : (s.modCore c f).rota = s.rota := rfl
@[simp] theorem State.modCore_free (c : Nat) (f : Core → Core) : (s.modCore c f).free = s.free := rfl
@[simp] theorem State.modCore_cy (c : Nat) (f : Core → Core) : (s.modCore c f).cy = s.cy := rfl
@[simp] theorem State.modCore_node (c : Nat) (f : Core → Core) : (s.modCore c f).node = s.node := rfl
@[simp] theorem State.modCore_hbm (c : Nat) (f : Core → Core) : (s.modCore c f).hbm = s.hbm := rfl
@[simp] theorem State.modCore_lines (c : Nat) (f : Core → Core) : (s.modCore c f).lines = s.lines := rfl
@[simp] theorem State.modCore_pmap (c : Nat) (f : Core → Core) : (s.modCore c f).pmap = s.pmap := rfl
@[simp] theorem State.modCore_remaps (c : Nat) (f : Core → Core) : (s.modCore c f).remaps = s.remaps := rfl
@[simp] theorem State.modCore_l2 (c : Nat) (f : Core → Core) : (s.modCore c f).l2 = s.l2 := rfl
@[simp] theorem State.modCore_uses (c : Nat) (f : Core → Core) : (s.modCore c f).uses = s.uses := rfl
@[simp] theorem State.modCore_scrub (c : Nat) (f : Core → Core) : (s.modCore c f).scrub = s.scrub := rfl
@[simp] theorem State.modCore_windows (c : Nat) (f : Core → Core) : (s.modCore c f).windows = s.windows := rfl
@[simp] theorem State.modCore_frames (c : Nat) (f : Core → Core) : (s.modCore c f).frames = s.frames := rfl
@[simp] theorem State.modCore_leases (c : Nat) (f : Core → Core) : (s.modCore c f).leases = s.leases := rfl
@[simp] theorem State.modCore_clusters (c : Nat) (f : Core → Core) : (s.modCore c f).clusters = s.clusters := rfl
@[simp] theorem State.modCore_parts (c : Nat) (f : Core → Core) : (s.modCore c f).parts = s.parts := rfl
@[simp] theorem State.modCore_flights (c : Nat) (f : Core → Core) : (s.modCore c f).flights = s.flights := rfl
@[simp] theorem State.modCore_hk (c : Nat) (f : Core → Core) : (s.modCore c f).hk = s.hk := rfl
@[simp] theorem State.modCore_kryel (c : Nat) (f : Core → Core) : (s.modCore c f).kryel = s.kryel := rfl
@[simp] theorem State.modCore_replies (c : Nat) (f : Core → Core) : (s.modCore c f).replies = s.replies := rfl
@[simp] theorem State.modCore_recent (c : Nat) (f : Core → Core) : (s.modCore c f).recent = s.recent := rfl
@[simp] theorem State.modCore_dma (c : Nat) (f : Core → Core) : (s.modCore c f).dma = s.dma := rfl
@[simp] theorem State.modCore_win (c : Nat) (f : Core → Core) : (s.modCore c f).win = s.win := rfl

/-! `State.setStrand`. -/

@[simp] theorem State.setStrand_agenda (c x : Nat) (t : Strand) : (s.setStrand c x t).agenda = s.agenda := rfl
@[simp] theorem State.setStrand_cur (c x : Nat) (t : Strand) : (s.setStrand c x t).cur = s.cur := rfl
@[simp] theorem State.setStrand_rota (c x : Nat) (t : Strand) : (s.setStrand c x t).rota = s.rota := rfl
@[simp] theorem State.setStrand_free (c x : Nat) (t : Strand) : (s.setStrand c x t).free = s.free := rfl
@[simp] theorem State.setStrand_cy (c x : Nat) (t : Strand) : (s.setStrand c x t).cy = s.cy := rfl
@[simp] theorem State.setStrand_node (c x : Nat) (t : Strand) : (s.setStrand c x t).node = s.node := rfl
@[simp] theorem State.setStrand_hbm (c x : Nat) (t : Strand) : (s.setStrand c x t).hbm = s.hbm := rfl
@[simp] theorem State.setStrand_lines (c x : Nat) (t : Strand) : (s.setStrand c x t).lines = s.lines := rfl
@[simp] theorem State.setStrand_pmap (c x : Nat) (t : Strand) : (s.setStrand c x t).pmap = s.pmap := rfl
@[simp] theorem State.setStrand_remaps (c x : Nat) (t : Strand) : (s.setStrand c x t).remaps = s.remaps := rfl
@[simp] theorem State.setStrand_l2 (c x : Nat) (t : Strand) : (s.setStrand c x t).l2 = s.l2 := rfl
@[simp] theorem State.setStrand_uses (c x : Nat) (t : Strand) : (s.setStrand c x t).uses = s.uses := rfl
@[simp] theorem State.setStrand_scrub (c x : Nat) (t : Strand) : (s.setStrand c x t).scrub = s.scrub := rfl
@[simp] theorem State.setStrand_windows (c x : Nat) (t : Strand) : (s.setStrand c x t).windows = s.windows := rfl
@[simp] theorem State.setStrand_frames (c x : Nat) (t : Strand) : (s.setStrand c x t).frames = s.frames := rfl
@[simp] theorem State.setStrand_leases (c x : Nat) (t : Strand) : (s.setStrand c x t).leases = s.leases := rfl
@[simp] theorem State.setStrand_clusters (c x : Nat) (t : Strand) : (s.setStrand c x t).clusters = s.clusters := rfl
@[simp] theorem State.setStrand_parts (c x : Nat) (t : Strand) : (s.setStrand c x t).parts = s.parts := rfl
@[simp] theorem State.setStrand_flights (c x : Nat) (t : Strand) : (s.setStrand c x t).flights = s.flights := rfl
@[simp] theorem State.setStrand_hk (c x : Nat) (t : Strand) : (s.setStrand c x t).hk = s.hk := rfl
@[simp] theorem State.setStrand_kryel (c x : Nat) (t : Strand) : (s.setStrand c x t).kryel = s.kryel := rfl
@[simp] theorem State.setStrand_replies (c x : Nat) (t : Strand) : (s.setStrand c x t).replies = s.replies := rfl
@[simp] theorem State.setStrand_recent (c x : Nat) (t : Strand) : (s.setStrand c x t).recent = s.recent := rfl
@[simp] theorem State.setStrand_dma (c x : Nat) (t : Strand) : (s.setStrand c x t).dma = s.dma := rfl
@[simp] theorem State.setStrand_win (c x : Nat) (t : Strand) : (s.setStrand c x t).win = s.win := rfl

/-! `State.modStrand`. -/

@[simp] theorem State.modStrand_agenda (c x : Nat) (f : Strand → Strand) : (s.modStrand c x f).agenda = s.agenda := rfl
@[simp] theorem State.modStrand_cur (c x : Nat) (f : Strand → Strand) : (s.modStrand c x f).cur = s.cur := rfl
@[simp] theorem State.modStrand_rota (c x : Nat) (f : Strand → Strand) : (s.modStrand c x f).rota = s.rota := rfl
@[simp] theorem State.modStrand_free (c x : Nat) (f : Strand → Strand) : (s.modStrand c x f).free = s.free := rfl
@[simp] theorem State.modStrand_cy (c x : Nat) (f : Strand → Strand) : (s.modStrand c x f).cy = s.cy := rfl
@[simp] theorem State.modStrand_node (c x : Nat) (f : Strand → Strand) : (s.modStrand c x f).node = s.node := rfl
@[simp] theorem State.modStrand_hbm (c x : Nat) (f : Strand → Strand) : (s.modStrand c x f).hbm = s.hbm := rfl
@[simp] theorem State.modStrand_lines (c x : Nat) (f : Strand → Strand) : (s.modStrand c x f).lines = s.lines := rfl
@[simp] theorem State.modStrand_pmap (c x : Nat) (f : Strand → Strand) : (s.modStrand c x f).pmap = s.pmap := rfl
@[simp] theorem State.modStrand_remaps (c x : Nat) (f : Strand → Strand) : (s.modStrand c x f).remaps = s.remaps := rfl
@[simp] theorem State.modStrand_l2 (c x : Nat) (f : Strand → Strand) : (s.modStrand c x f).l2 = s.l2 := rfl
@[simp] theorem State.modStrand_uses (c x : Nat) (f : Strand → Strand) : (s.modStrand c x f).uses = s.uses := rfl
@[simp] theorem State.modStrand_scrub (c x : Nat) (f : Strand → Strand) : (s.modStrand c x f).scrub = s.scrub := rfl
@[simp] theorem State.modStrand_windows (c x : Nat) (f : Strand → Strand) : (s.modStrand c x f).windows = s.windows := rfl
@[simp] theorem State.modStrand_frames (c x : Nat) (f : Strand → Strand) : (s.modStrand c x f).frames = s.frames := rfl
@[simp] theorem State.modStrand_leases (c x : Nat) (f : Strand → Strand) : (s.modStrand c x f).leases = s.leases := rfl
@[simp] theorem State.modStrand_clusters (c x : Nat) (f : Strand → Strand) : (s.modStrand c x f).clusters = s.clusters := rfl
@[simp] theorem State.modStrand_parts (c x : Nat) (f : Strand → Strand) : (s.modStrand c x f).parts = s.parts := rfl
@[simp] theorem State.modStrand_flights (c x : Nat) (f : Strand → Strand) : (s.modStrand c x f).flights = s.flights := rfl
@[simp] theorem State.modStrand_hk (c x : Nat) (f : Strand → Strand) : (s.modStrand c x f).hk = s.hk := rfl
@[simp] theorem State.modStrand_kryel (c x : Nat) (f : Strand → Strand) : (s.modStrand c x f).kryel = s.kryel := rfl
@[simp] theorem State.modStrand_replies (c x : Nat) (f : Strand → Strand) : (s.modStrand c x f).replies = s.replies := rfl
@[simp] theorem State.modStrand_recent (c x : Nat) (f : Strand → Strand) : (s.modStrand c x f).recent = s.recent := rfl
@[simp] theorem State.modStrand_dma (c x : Nat) (f : Strand → Strand) : (s.modStrand c x f).dma = s.dma := rfl
@[simp] theorem State.modStrand_win (c x : Nat) (f : Strand → Strand) : (s.modStrand c x f).win = s.win := rfl

/-! `State.setMe`. -/

@[simp] theorem State.setMe_agenda (t : Strand) : (s.setMe t).agenda = s.agenda := rfl
@[simp] theorem State.setMe_cur (t : Strand) : (s.setMe t).cur = s.cur := rfl
@[simp] theorem State.setMe_rota (t : Strand) : (s.setMe t).rota = s.rota := rfl
@[simp] theorem State.setMe_free (t : Strand) : (s.setMe t).free = s.free := rfl
@[simp] theorem State.setMe_cy (t : Strand) : (s.setMe t).cy = s.cy := rfl
@[simp] theorem State.setMe_node (t : Strand) : (s.setMe t).node = s.node := rfl
@[simp] theorem State.setMe_hbm (t : Strand) : (s.setMe t).hbm = s.hbm := rfl
@[simp] theorem State.setMe_lines (t : Strand) : (s.setMe t).lines = s.lines := rfl
@[simp] theorem State.setMe_pmap (t : Strand) : (s.setMe t).pmap = s.pmap := rfl
@[simp] theorem State.setMe_remaps (t : Strand) : (s.setMe t).remaps = s.remaps := rfl
@[simp] theorem State.setMe_l2 (t : Strand) : (s.setMe t).l2 = s.l2 := rfl
@[simp] theorem State.setMe_uses (t : Strand) : (s.setMe t).uses = s.uses := rfl
@[simp] theorem State.setMe_scrub (t : Strand) : (s.setMe t).scrub = s.scrub := rfl
@[simp] theorem State.setMe_windows (t : Strand) : (s.setMe t).windows = s.windows := rfl
@[simp] theorem State.setMe_frames (t : Strand) : (s.setMe t).frames = s.frames := rfl
@[simp] theorem State.setMe_leases (t : Strand) : (s.setMe t).leases = s.leases := rfl
@[simp] theorem State.setMe_clusters (t : Strand) : (s.setMe t).clusters = s.clusters := rfl
@[simp] theorem State.setMe_parts (t : Strand) : (s.setMe t).parts = s.parts := rfl
@[simp] theorem State.setMe_flights (t : Strand) : (s.setMe t).flights = s.flights := rfl
@[simp] theorem State.setMe_hk (t : Strand) : (s.setMe t).hk = s.hk := rfl
@[simp] theorem State.setMe_kryel (t : Strand) : (s.setMe t).kryel = s.kryel := rfl
@[simp] theorem State.setMe_replies (t : Strand) : (s.setMe t).replies = s.replies := rfl
@[simp] theorem State.setMe_recent (t : Strand) : (s.setMe t).recent = s.recent := rfl
@[simp] theorem State.setMe_dma (t : Strand) : (s.setMe t).dma = s.dma := rfl
@[simp] theorem State.setMe_win (t : Strand) : (s.setMe t).win = s.win := rfl

/-! `State.modMe`. -/

@[simp] theorem State.modMe_agenda (f : Strand → Strand) : (s.modMe f).agenda = s.agenda := rfl
@[simp] theorem State.modMe_cur (f : Strand → Strand) : (s.modMe f).cur = s.cur := rfl
@[simp] theorem State.modMe_rota (f : Strand → Strand) : (s.modMe f).rota = s.rota := rfl
@[simp] theorem State.modMe_free (f : Strand → Strand) : (s.modMe f).free = s.free := rfl
@[simp] theorem State.modMe_cy (f : Strand → Strand) : (s.modMe f).cy = s.cy := rfl
@[simp] theorem State.modMe_node (f : Strand → Strand) : (s.modMe f).node = s.node := rfl
@[simp] theorem State.modMe_hbm (f : Strand → Strand) : (s.modMe f).hbm = s.hbm := rfl
@[simp] theorem State.modMe_lines (f : Strand → Strand) : (s.modMe f).lines = s.lines := rfl
@[simp] theorem State.modMe_pmap (f : Strand → Strand) : (s.modMe f).pmap = s.pmap := rfl
@[simp] theorem State.modMe_remaps (f : Strand → Strand) : (s.modMe f).remaps = s.remaps := rfl
@[simp] theorem State.modMe_l2 (f : Strand → Strand) : (s.modMe f).l2 = s.l2 := rfl
@[simp] theorem State.modMe_uses (f : Strand → Strand) : (s.modMe f).uses = s.uses := rfl
@[simp] theorem State.modMe_scrub (f : Strand → Strand) : (s.modMe f).scrub = s.scrub := rfl
@[simp] theorem State.modMe_windows (f : Strand → Strand) : (s.modMe f).windows = s.windows := rfl
@[simp] theorem State.modMe_frames (f : Strand → Strand) : (s.modMe f).frames = s.frames := rfl
@[simp] theorem State.modMe_leases (f : Strand → Strand) : (s.modMe f).leases = s.leases := rfl
@[simp] theorem State.modMe_clusters (f : Strand → Strand) : (s.modMe f).clusters = s.clusters := rfl
@[simp] theorem State.modMe_parts (f : Strand → Strand) : (s.modMe f).parts = s.parts := rfl
@[simp] theorem State.modMe_flights (f : Strand → Strand) : (s.modMe f).flights = s.flights := rfl
@[simp] theorem State.modMe_hk (f : Strand → Strand) : (s.modMe f).hk = s.hk := rfl
@[simp] theorem State.modMe_kryel (f : Strand → Strand) : (s.modMe f).kryel = s.kryel := rfl
@[simp] theorem State.modMe_replies (f : Strand → Strand) : (s.modMe f).replies = s.replies := rfl
@[simp] theorem State.modMe_recent (f : Strand → Strand) : (s.modMe f).recent = s.recent := rfl
@[simp] theorem State.modMe_dma (f : Strand → Strand) : (s.modMe f).dma = s.dma := rfl
@[simp] theorem State.modMe_win (f : Strand → Strand) : (s.modMe f).win = s.win := rfl

/-! `State.setPart`. -/

@[simp] theorem State.setPart_agenda (p : Nat) (q : Part) : (s.setPart p q).agenda = s.agenda := rfl
@[simp] theorem State.setPart_cur (p : Nat) (q : Part) : (s.setPart p q).cur = s.cur := rfl
@[simp] theorem State.setPart_rota (p : Nat) (q : Part) : (s.setPart p q).rota = s.rota := rfl
@[simp] theorem State.setPart_free (p : Nat) (q : Part) : (s.setPart p q).free = s.free := rfl
@[simp] theorem State.setPart_cy (p : Nat) (q : Part) : (s.setPart p q).cy = s.cy := rfl
@[simp] theorem State.setPart_node (p : Nat) (q : Part) : (s.setPart p q).node = s.node := rfl
@[simp] theorem State.setPart_hbm (p : Nat) (q : Part) : (s.setPart p q).hbm = s.hbm := rfl
@[simp] theorem State.setPart_lines (p : Nat) (q : Part) : (s.setPart p q).lines = s.lines := rfl
@[simp] theorem State.setPart_pmap (p : Nat) (q : Part) : (s.setPart p q).pmap = s.pmap := rfl
@[simp] theorem State.setPart_remaps (p : Nat) (q : Part) : (s.setPart p q).remaps = s.remaps := rfl
@[simp] theorem State.setPart_l2 (p : Nat) (q : Part) : (s.setPart p q).l2 = s.l2 := rfl
@[simp] theorem State.setPart_uses (p : Nat) (q : Part) : (s.setPart p q).uses = s.uses := rfl
@[simp] theorem State.setPart_scrub (p : Nat) (q : Part) : (s.setPart p q).scrub = s.scrub := rfl
@[simp] theorem State.setPart_windows (p : Nat) (q : Part) : (s.setPart p q).windows = s.windows := rfl
@[simp] theorem State.setPart_frames (p : Nat) (q : Part) : (s.setPart p q).frames = s.frames := rfl
@[simp] theorem State.setPart_leases (p : Nat) (q : Part) : (s.setPart p q).leases = s.leases := rfl
@[simp] theorem State.setPart_cores (p : Nat) (q : Part) : (s.setPart p q).cores = s.cores := rfl
@[simp] theorem State.setPart_clusters (p : Nat) (q : Part) : (s.setPart p q).clusters = s.clusters := rfl
@[simp] theorem State.setPart_flights (p : Nat) (q : Part) : (s.setPart p q).flights = s.flights := rfl
@[simp] theorem State.setPart_hk (p : Nat) (q : Part) : (s.setPart p q).hk = s.hk := rfl
@[simp] theorem State.setPart_kryel (p : Nat) (q : Part) : (s.setPart p q).kryel = s.kryel := rfl
@[simp] theorem State.setPart_replies (p : Nat) (q : Part) : (s.setPart p q).replies = s.replies := rfl
@[simp] theorem State.setPart_recent (p : Nat) (q : Part) : (s.setPart p q).recent = s.recent := rfl
@[simp] theorem State.setPart_dma (p : Nat) (q : Part) : (s.setPart p q).dma = s.dma := rfl
@[simp] theorem State.setPart_win (p : Nat) (q : Part) : (s.setPart p q).win = s.win := rfl

/-! `State.modPart`. -/

@[simp] theorem State.modPart_agenda (p : Nat) (f : Part → Part) : (s.modPart p f).agenda = s.agenda := rfl
@[simp] theorem State.modPart_cur (p : Nat) (f : Part → Part) : (s.modPart p f).cur = s.cur := rfl
@[simp] theorem State.modPart_rota (p : Nat) (f : Part → Part) : (s.modPart p f).rota = s.rota := rfl
@[simp] theorem State.modPart_free (p : Nat) (f : Part → Part) : (s.modPart p f).free = s.free := rfl
@[simp] theorem State.modPart_cy (p : Nat) (f : Part → Part) : (s.modPart p f).cy = s.cy := rfl
@[simp] theorem State.modPart_node (p : Nat) (f : Part → Part) : (s.modPart p f).node = s.node := rfl
@[simp] theorem State.modPart_hbm (p : Nat) (f : Part → Part) : (s.modPart p f).hbm = s.hbm := rfl
@[simp] theorem State.modPart_lines (p : Nat) (f : Part → Part) : (s.modPart p f).lines = s.lines := rfl
@[simp] theorem State.modPart_pmap (p : Nat) (f : Part → Part) : (s.modPart p f).pmap = s.pmap := rfl
@[simp] theorem State.modPart_remaps (p : Nat) (f : Part → Part) : (s.modPart p f).remaps = s.remaps := rfl
@[simp] theorem State.modPart_l2 (p : Nat) (f : Part → Part) : (s.modPart p f).l2 = s.l2 := rfl
@[simp] theorem State.modPart_uses (p : Nat) (f : Part → Part) : (s.modPart p f).uses = s.uses := rfl
@[simp] theorem State.modPart_scrub (p : Nat) (f : Part → Part) : (s.modPart p f).scrub = s.scrub := rfl
@[simp] theorem State.modPart_windows (p : Nat) (f : Part → Part) : (s.modPart p f).windows = s.windows := rfl
@[simp] theorem State.modPart_frames (p : Nat) (f : Part → Part) : (s.modPart p f).frames = s.frames := rfl
@[simp] theorem State.modPart_leases (p : Nat) (f : Part → Part) : (s.modPart p f).leases = s.leases := rfl
@[simp] theorem State.modPart_cores (p : Nat) (f : Part → Part) : (s.modPart p f).cores = s.cores := rfl
@[simp] theorem State.modPart_clusters (p : Nat) (f : Part → Part) : (s.modPart p f).clusters = s.clusters := rfl
@[simp] theorem State.modPart_flights (p : Nat) (f : Part → Part) : (s.modPart p f).flights = s.flights := rfl
@[simp] theorem State.modPart_hk (p : Nat) (f : Part → Part) : (s.modPart p f).hk = s.hk := rfl
@[simp] theorem State.modPart_kryel (p : Nat) (f : Part → Part) : (s.modPart p f).kryel = s.kryel := rfl
@[simp] theorem State.modPart_replies (p : Nat) (f : Part → Part) : (s.modPart p f).replies = s.replies := rfl
@[simp] theorem State.modPart_recent (p : Nat) (f : Part → Part) : (s.modPart p f).recent = s.recent := rfl
@[simp] theorem State.modPart_dma (p : Nat) (f : Part → Part) : (s.modPart p f).dma = s.dma := rfl
@[simp] theorem State.modPart_win (p : Nat) (f : Part → Part) : (s.modPart p f).win = s.win := rfl

/-! `State.modFu`. -/

@[simp] theorem State.modFu_agenda (p : Nat) (f : FaultUnit → FaultUnit) : (s.modFu p f).agenda = s.agenda := rfl
@[simp] theorem State.modFu_cur (p : Nat) (f : FaultUnit → FaultUnit) : (s.modFu p f).cur = s.cur := rfl
@[simp] theorem State.modFu_rota (p : Nat) (f : FaultUnit → FaultUnit) : (s.modFu p f).rota = s.rota := rfl
@[simp] theorem State.modFu_free (p : Nat) (f : FaultUnit → FaultUnit) : (s.modFu p f).free = s.free := rfl
@[simp] theorem State.modFu_cy (p : Nat) (f : FaultUnit → FaultUnit) : (s.modFu p f).cy = s.cy := rfl
@[simp] theorem State.modFu_node (p : Nat) (f : FaultUnit → FaultUnit) : (s.modFu p f).node = s.node := rfl
@[simp] theorem State.modFu_hbm (p : Nat) (f : FaultUnit → FaultUnit) : (s.modFu p f).hbm = s.hbm := rfl
@[simp] theorem State.modFu_lines (p : Nat) (f : FaultUnit → FaultUnit) : (s.modFu p f).lines = s.lines := rfl
@[simp] theorem State.modFu_pmap (p : Nat) (f : FaultUnit → FaultUnit) : (s.modFu p f).pmap = s.pmap := rfl
@[simp] theorem State.modFu_remaps (p : Nat) (f : FaultUnit → FaultUnit) : (s.modFu p f).remaps = s.remaps := rfl
@[simp] theorem State.modFu_l2 (p : Nat) (f : FaultUnit → FaultUnit) : (s.modFu p f).l2 = s.l2 := rfl
@[simp] theorem State.modFu_uses (p : Nat) (f : FaultUnit → FaultUnit) : (s.modFu p f).uses = s.uses := rfl
@[simp] theorem State.modFu_scrub (p : Nat) (f : FaultUnit → FaultUnit) : (s.modFu p f).scrub = s.scrub := rfl
@[simp] theorem State.modFu_windows (p : Nat) (f : FaultUnit → FaultUnit) : (s.modFu p f).windows = s.windows := rfl
@[simp] theorem State.modFu_frames (p : Nat) (f : FaultUnit → FaultUnit) : (s.modFu p f).frames = s.frames := rfl
@[simp] theorem State.modFu_leases (p : Nat) (f : FaultUnit → FaultUnit) : (s.modFu p f).leases = s.leases := rfl
@[simp] theorem State.modFu_cores (p : Nat) (f : FaultUnit → FaultUnit) : (s.modFu p f).cores = s.cores := rfl
@[simp] theorem State.modFu_clusters (p : Nat) (f : FaultUnit → FaultUnit) : (s.modFu p f).clusters = s.clusters := rfl
@[simp] theorem State.modFu_flights (p : Nat) (f : FaultUnit → FaultUnit) : (s.modFu p f).flights = s.flights := rfl
@[simp] theorem State.modFu_hk (p : Nat) (f : FaultUnit → FaultUnit) : (s.modFu p f).hk = s.hk := rfl
@[simp] theorem State.modFu_kryel (p : Nat) (f : FaultUnit → FaultUnit) : (s.modFu p f).kryel = s.kryel := rfl
@[simp] theorem State.modFu_replies (p : Nat) (f : FaultUnit → FaultUnit) : (s.modFu p f).replies = s.replies := rfl
@[simp] theorem State.modFu_recent (p : Nat) (f : FaultUnit → FaultUnit) : (s.modFu p f).recent = s.recent := rfl
@[simp] theorem State.modFu_dma (p : Nat) (f : FaultUnit → FaultUnit) : (s.modFu p f).dma = s.dma := rfl
@[simp] theorem State.modFu_win (p : Nat) (f : FaultUnit → FaultUnit) : (s.modFu p f).win = s.win := rfl

/-! `State.modCluster`. -/

@[simp] theorem State.modCluster_agenda (c : Nat) (f : Cluster → Cluster) : (s.modCluster c f).agenda = s.agenda := rfl
@[simp] theorem State.modCluster_cur (c : Nat) (f : Cluster → Cluster) : (s.modCluster c f).cur = s.cur := rfl
@[simp] theorem State.modCluster_rota (c : Nat) (f : Cluster → Cluster) : (s.modCluster c f).rota = s.rota := rfl
@[simp] theorem State.modCluster_free (c : Nat) (f : Cluster → Cluster) : (s.modCluster c f).free = s.free := rfl
@[simp] theorem State.modCluster_cy (c : Nat) (f : Cluster → Cluster) : (s.modCluster c f).cy = s.cy := rfl
@[simp] theorem State.modCluster_node (c : Nat) (f : Cluster → Cluster) : (s.modCluster c f).node = s.node := rfl
@[simp] theorem State.modCluster_hbm (c : Nat) (f : Cluster → Cluster) : (s.modCluster c f).hbm = s.hbm := rfl
@[simp] theorem State.modCluster_lines (c : Nat) (f : Cluster → Cluster) : (s.modCluster c f).lines = s.lines := rfl
@[simp] theorem State.modCluster_pmap (c : Nat) (f : Cluster → Cluster) : (s.modCluster c f).pmap = s.pmap := rfl
@[simp] theorem State.modCluster_remaps (c : Nat) (f : Cluster → Cluster) : (s.modCluster c f).remaps = s.remaps := rfl
@[simp] theorem State.modCluster_l2 (c : Nat) (f : Cluster → Cluster) : (s.modCluster c f).l2 = s.l2 := rfl
@[simp] theorem State.modCluster_uses (c : Nat) (f : Cluster → Cluster) : (s.modCluster c f).uses = s.uses := rfl
@[simp] theorem State.modCluster_scrub (c : Nat) (f : Cluster → Cluster) : (s.modCluster c f).scrub = s.scrub := rfl
@[simp] theorem State.modCluster_windows (c : Nat) (f : Cluster → Cluster) : (s.modCluster c f).windows = s.windows := rfl
@[simp] theorem State.modCluster_frames (c : Nat) (f : Cluster → Cluster) : (s.modCluster c f).frames = s.frames := rfl
@[simp] theorem State.modCluster_leases (c : Nat) (f : Cluster → Cluster) : (s.modCluster c f).leases = s.leases := rfl
@[simp] theorem State.modCluster_cores (c : Nat) (f : Cluster → Cluster) : (s.modCluster c f).cores = s.cores := rfl
@[simp] theorem State.modCluster_parts (c : Nat) (f : Cluster → Cluster) : (s.modCluster c f).parts = s.parts := rfl
@[simp] theorem State.modCluster_flights (c : Nat) (f : Cluster → Cluster) : (s.modCluster c f).flights = s.flights := rfl
@[simp] theorem State.modCluster_hk (c : Nat) (f : Cluster → Cluster) : (s.modCluster c f).hk = s.hk := rfl
@[simp] theorem State.modCluster_kryel (c : Nat) (f : Cluster → Cluster) : (s.modCluster c f).kryel = s.kryel := rfl
@[simp] theorem State.modCluster_replies (c : Nat) (f : Cluster → Cluster) : (s.modCluster c f).replies = s.replies := rfl
@[simp] theorem State.modCluster_recent (c : Nat) (f : Cluster → Cluster) : (s.modCluster c f).recent = s.recent := rfl
@[simp] theorem State.modCluster_dma (c : Nat) (f : Cluster → Cluster) : (s.modCluster c f).dma = s.dma := rfl
@[simp] theorem State.modCluster_win (c : Nat) (f : Cluster → Cluster) : (s.modCluster c f).win = s.win := rfl

/-! `State.nextFree`. -/

@[simp] theorem State.nextFree_agenda : (s.nextFree).agenda = s.agenda := rfl
@[simp] theorem State.nextFree_cur : (s.nextFree).cur = s.cur := rfl
@[simp] theorem State.nextFree_rota : (s.nextFree).rota = s.rota := rfl
@[simp] theorem State.nextFree_cy : (s.nextFree).cy = s.cy := rfl
@[simp] theorem State.nextFree_node : (s.nextFree).node = s.node := rfl
@[simp] theorem State.nextFree_hbm : (s.nextFree).hbm = s.hbm := rfl
@[simp] theorem State.nextFree_lines : (s.nextFree).lines = s.lines := rfl
@[simp] theorem State.nextFree_pmap : (s.nextFree).pmap = s.pmap := rfl
@[simp] theorem State.nextFree_remaps : (s.nextFree).remaps = s.remaps := rfl
@[simp] theorem State.nextFree_l2 : (s.nextFree).l2 = s.l2 := rfl
@[simp] theorem State.nextFree_uses : (s.nextFree).uses = s.uses := rfl
@[simp] theorem State.nextFree_scrub : (s.nextFree).scrub = s.scrub := rfl
@[simp] theorem State.nextFree_windows : (s.nextFree).windows = s.windows := rfl
@[simp] theorem State.nextFree_frames : (s.nextFree).frames = s.frames := rfl
@[simp] theorem State.nextFree_leases : (s.nextFree).leases = s.leases := rfl
@[simp] theorem State.nextFree_cores : (s.nextFree).cores = s.cores := rfl
@[simp] theorem State.nextFree_clusters : (s.nextFree).clusters = s.clusters := rfl
@[simp] theorem State.nextFree_parts : (s.nextFree).parts = s.parts := rfl
@[simp] theorem State.nextFree_flights : (s.nextFree).flights = s.flights := rfl
@[simp] theorem State.nextFree_hk : (s.nextFree).hk = s.hk := rfl
@[simp] theorem State.nextFree_kryel : (s.nextFree).kryel = s.kryel := rfl
@[simp] theorem State.nextFree_replies : (s.nextFree).replies = s.replies := rfl
@[simp] theorem State.nextFree_recent : (s.nextFree).recent = s.recent := rfl
@[simp] theorem State.nextFree_dma : (s.nextFree).dma = s.dma := rfl
@[simp] theorem State.nextFree_win : (s.nextFree).win = s.win := rfl

/-! Reading a record after it is written. -/

@[simp] theorem State.core_setCore (c : Nat) (k : Core) : (s.setCore c k).core c = k := tget_tput_same _ _ _ _

theorem State.core_setCore_eq (c c' : Nat) (k : Core) : (s.setCore c k).core c' = if c' = c then k else s.core c' :=
  tget_tput _ _ _ _ _

@[simp] theorem State.core_modCore (c : Nat) (f : Core → Core) : (s.modCore c f).core c = f (s.core c) := s.core_setCore c _

theorem State.core_modCore_eq (c c' : Nat) (f : Core → Core) : (s.modCore c f).core c' = if c' = c then f (s.core c) else s.core c' :=
  s.core_setCore_eq c c' _

@[simp] theorem Core.strand_setStrand (k : Core) (x : Nat) (t : Strand) : (k.setStrand x t).strand x = t := tget_tput_same _ _ _ _

theorem Core.strand_setStrand_eq (k : Core) (x y : Nat) (t : Strand) :
    (k.setStrand x t).strand y = if y = x then t else k.strand y := tget_tput _ _ _ _ _

@[simp] theorem State.strand_setStrand (c x : Nat) (t : Strand) : (s.setStrand c x t).strand c x = t := by
  simp [State.strand, State.setStrand]

theorem State.strand_setStrand_eq (c x c' y : Nat) (t : Strand) :
    (s.setStrand c x t).strand c' y = if c' = c ∧ y = x then t else s.strand c' y := by
  unfold State.strand State.setStrand
  rw [State.core_setCore_eq]
  by_cases h : c' = c
  · subst h; rw [if_pos rfl, Core.strand_setStrand_eq]; simp
  · rw [if_neg h, if_neg (fun h' => h h'.1)]

@[simp] theorem State.strand_modStrand (c x : Nat) (f : Strand → Strand) : (s.modStrand c x f).strand c x = f (s.strand c x) :=
  s.strand_setStrand c x _

theorem State.strand_modStrand_eq (c x c' y : Nat) (f : Strand → Strand) :
    (s.modStrand c x f).strand c' y = if c' = c ∧ y = x then f (s.strand c x) else s.strand c' y := s.strand_setStrand_eq c x c' y _

/-- A core update that keeps its contexts keeps every strand. -/
theorem State.strand_modCore (c c' y : Nat) (f : Core → Core) (h : ∀ k, (f k).strands = k.strands) :
    (s.modCore c f).strand c' y = s.strand c' y := by
  unfold State.strand
  rw [State.core_modCore_eq]
  by_cases h' : c' = c
  · subst h'; rw [if_pos rfl]; unfold Core.strand; rw [h]
  · rw [if_neg h']

@[simp] theorem State.part_setPart (p : Nat) (q : Part) : (s.setPart p q).part p = q := tget_tput_same _ _ _ _

theorem State.part_setPart_eq (p p' : Nat) (q : Part) : (s.setPart p q).part p' = if p' = p then q else s.part p' := tget_tput _ _ _ _ _

@[simp] theorem State.part_modPart (p : Nat) (f : Part → Part) : (s.modPart p f).part p = f (s.part p) := s.part_setPart p _

theorem State.part_modPart_eq (p p' : Nat) (f : Part → Part) : (s.modPart p f).part p' = if p' = p then f (s.part p) else s.part p' :=
  s.part_setPart_eq p p' _

@[simp] theorem State.cluster_modCluster (c : Nat) (f : Cluster → Cluster) : (s.modCluster c f).cluster c = f (s.cluster c) :=
  tget_tput_same _ _ _ _

theorem State.cluster_modCluster_eq (c c' : Nat) (f : Cluster → Cluster) :
    (s.modCluster c f).cluster c' = if c' = c then f (s.cluster c) else s.cluster c' := tget_tput _ _ _ _ _

/-! The issuing strand. -/

/-- The active context of the core is not changed by an update of one of its strands. -/
@[simp] theorem State.ctx_setStrand (c x : Nat) (t : Strand) : (s.setStrand c x t).ctx = s.ctx := by
  show (((s.setStrand c x t).core s.cur).active).getD 0 = ((s.core s.cur).active).getD 0
  unfold State.setStrand
  rw [State.core_setCore_eq]
  split
  · rename_i h; rw [← h]; rfl
  · rfl

@[simp] theorem State.ctx_modStrand (c x : Nat) (f : Strand → Strand) : (s.modStrand c x f).ctx = s.ctx := s.ctx_setStrand c x _
@[simp] theorem State.ctx_setMe (t : Strand) : (s.setMe t).ctx = s.ctx := s.ctx_setStrand _ _ t
@[simp] theorem State.ctx_modMe (f : Strand → Strand) : (s.modMe f).ctx = s.ctx := s.ctx_setStrand _ _ _

theorem State.ctx_modCore (c : Nat) (f : Core → Core) (h : ∀ k, (f k).active = k.active) : (s.modCore c f).ctx = s.ctx := by
  show (((s.modCore c f).core s.cur).active).getD 0 = ((s.core s.cur).active).getD 0
  rw [State.core_modCore_eq]
  split
  · rename_i h'; rw [← h', h]
  · rfl

@[simp] theorem State.me_setMe (t : Strand) : (s.setMe t).me = t := by
  show (s.setMe t).strand s.cur (s.setMe t).ctx = t
  rw [State.ctx_setMe]; exact s.strand_setStrand _ _ _

@[simp] theorem State.me_modMe (f : Strand → Strand) : (s.modMe f).me = f s.me := s.me_setMe _

theorem State.me_modCore (c : Nat) (f : Core → Core) (h : ∀ k, (f k).active = k.active) (h' : ∀ k, (f k).strands = k.strands) :
    (s.modCore c f).me = s.me := by
  show (s.modCore c f).strand s.cur (s.modCore c f).ctx = _
  rw [State.ctx_modCore s c f h]; exact s.strand_modCore c _ _ f h'

/-! A strand's registers and tokens. -/

@[simp] theorem Strand.tok_setTok (t : Strand) (k j : Nat) (v : Tok) :
    (t.setTok k v).tok j = if j = k ∧ k ≠ 0 then v else t.tok j := by
  unfold Strand.setTok
  split
  · rename_i h; simp [h]
  · rename_i h; simp [Strand.tok, tget_tput, h]

/-! The banks that the device's traffic uses are noted beside all else of a core (R162). -/

@[simp] theorem Core.noteBanks_sp (k : Core) (m : Bool) (a n : Nat) : (k.noteBanks m a n).sp = k.sp := by
  unfold Core.noteBanks; split <;> rfl
@[simp] theorem Core.noteBanks_spBad (k : Core) (m : Bool) (a n : Nat) : (k.noteBanks m a n).spBad = k.spBad := by
  unfold Core.noteBanks; split <;> rfl
@[simp] theorem Core.noteBanks_soft (k : Core) (m : Bool) (a n : Nat) : (k.noteBanks m a n).soft = k.soft := by
  unfold Core.noteBanks; split <;> rfl
@[simp] theorem Core.noteBanks_ecc (k : Core) (m : Bool) (a n : Nat) : (k.noteBanks m a n).ecc = k.ecc := by
  unfold Core.noteBanks; split <;> rfl
@[simp] theorem Core.noteBanks_strands (k : Core) (m : Bool) (a n : Nat) : (k.noteBanks m a n).strands = k.strands := by
  unfold Core.noteBanks; split <;> rfl
@[simp] theorem Core.noteBanks_active (k : Core) (m : Bool) (a n : Nat) : (k.noteBanks m a n).active = k.active := by
  unfold Core.noteBanks; split <;> rfl
@[simp] theorem Core.noteBanks_tiles (k : Core) (m : Bool) (a n : Nat) : (k.noteBanks m a n).tiles = k.tiles := by
  unfold Core.noteBanks; split <;> rfl
@[simp] theorem Core.noteBanks_tPoison (k : Core) (m : Bool) (a n : Nat) : (k.noteBanks m a n).tPoison = k.tPoison := by
  unfold Core.noteBanks; split <;> rfl
@[simp] theorem Core.noteBanks_tOver (k : Core) (m : Bool) (a n : Nat) : (k.noteBanks m a n).tOver = k.tOver := by
  unfold Core.noteBanks; split <;> rfl
@[simp] theorem Core.noteBanks_copies (k : Core) (m : Bool) (a n : Nat) : (k.noteBanks m a n).copies = k.copies := by
  unfold Core.noteBanks; split <;> rfl
@[simp] theorem Core.noteBanks_trigs (k : Core) (m : Bool) (a n : Nat) : (k.noteBanks m a n).trigs = k.trigs := by
  unfold Core.noteBanks; split <;> rfl
@[simp] theorem Core.noteBanks_kiln (k : Core) (m : Bool) (a n : Nat) : (k.noteBanks m a n).kiln = k.kiln := by
  unfold Core.noteBanks; split <;> rfl
@[simp] theorem Core.noteBanks_gath (k : Core) (m : Bool) (a n : Nat) : (k.noteBanks m a n).gath = k.gath := by
  unfold Core.noteBanks; split <;> rfl
@[simp] theorem Core.noteBanks_chans (k : Core) (m : Bool) (a n : Nat) : (k.noteBanks m a n).chans = k.chans := by
  unfold Core.noteBanks; split <;> rfl
@[simp] theorem Core.noteBanks_stash (k : Core) (m : Bool) (a n : Nat) : (k.noteBanks m a n).stash = k.stash := by
  unfold Core.noteBanks; split <;> rfl
@[simp] theorem Core.noteBanks_stall (k : Core) (m : Bool) (a n : Nat) : (k.noteBanks m a n).stall = k.stall := by
  unfold Core.noteBanks; split <;> rfl

/-- The device's write of a spill or undo area is a write of its bytes. -/
@[simp] theorem Core.devWrite_sp (k : Core) (a : Nat) (bs : List Byte) : (k.devWrite a bs).sp = (k.spWrite a bs).sp := Core.noteBanks_sp _ _ _ _

end Sys2Proof.Machine
end

