-- ==== Sys2Proof/Laws/Memory.lean ====
section
/-! SUPPORT. Main memory: reading after writing, and that every memory operation keeps the canonical form. -/

namespace Sys2Proof.Laws

open Sys2Proof.Machine

/-! Bytes. -/

/-- Folding writes keeps the canonical form. -/
theorem foldl_tput_wf {α β : Type} [DecidableEq α] (d : α) (key : β → Nat) (val : β → α) (l : List β) (t : Tbl α) (h : twf d t = true) :
    twf d (l.foldl (fun m x => tput d m (key x) (val x)) t) = true := by
  induction l generalizing t with
  | nil => exact h
  | cons x r ih => exact ih _ (tput_wf d t _ _ h)

/-- A table read through writes at rising keys `a`, `a + 1`, …. -/
theorem tget_foldl_range {α : Type} [DecidableEq α] (d : α) (f : Nat → α) (a n j : Nat) (t : Tbl α) :
    tget d ((List.range n).foldl (fun m i => tput d m (a + i) (f i)) t) j =
      if a ≤ j ∧ j < a + n then f (j - a) else tget d t j := by
  induction n with
  | zero => simp
  | succ n ih =>
    rw [List.range_succ, List.foldl_append, List.foldl_cons, List.foldl_nil, tget_tput, ih]
    by_cases h : j = a + n
    · subst h; simp
    · rw [if_neg h]
      by_cases h' : a ≤ j ∧ j < a + n
      · rw [if_pos h', if_pos (by omega)]
      · rw [if_neg h', if_neg (by omega)]

theorem tabove_filter {α : Type} {k : Nat} {t : Tbl α} (f : Nat × α → Bool) (h : tabove k t) : tabove k (t.filter f) :=
  fun e he => h e (List.mem_filter.mp he).1

/-- Dropping entries keeps the canonical form. -/
theorem filter_wf {α : Type} [DecidableEq α] (d : α) (f : Nat × α → Bool) (t : Tbl α) (h : twf d t = true) : twf d (t.filter f) = true := by
  induction t with
  | nil => exact h
  | cons e r ih =>
    obtain ⟨k, v⟩ := e
    simp only [twf, Bool.and_eq_true, tsorted_cons, tclean_cons] at h
    have hr := ih (by simp [twf, h])
    rw [List.filter_cons]
    split
    · simp only [twf, Bool.and_eq_true] at hr
      simp only [twf, Bool.and_eq_true, tsorted_cons, tclean_cons]
      exact ⟨⟨tabove_filter f h.1.1, hr.1⟩, h.2.1, hr.2⟩
    · exact hr

/-- Memory with nothing listed has the canonical form. -/
theorem wf_nil : Memory.wf [] = true := rfl

/-- A byte of HBM after a write (R91). -/
theorem hbmWrite_get (s : State) (pa : Nat) (bs : List Byte) (j : Nat) :
    tget Memory.blank (s.hbmWrite pa bs).hbm j =
      if pa ≤ j ∧ j < pa + bs.length then lget 0 bs (j - pa) else tget Memory.blank s.hbm j :=
  tget_foldl_range Memory.blank (lget 0 bs) pa bs.length j s.hbm

/-! The canonical form, operation by operation. -/

/-- Main memory is in its canonical form. -/
abbrev Canon (s : State) : Prop := Memory.wf s.hbm = true

/-- A fold keeps what its step keeps. -/
theorem foldl_keeps {σ β : Type} (P : σ → Prop) (f : σ → β → σ) (hf : ∀ s x, P s → P (f s x)) (l : List β) (s : σ) (h : P s) :
    P (l.foldl f s) := by
  induction l generalizing s with
  | nil => exact h
  | cons x r ih => exact ih _ (hf _ _ h)

variable {s : State}

theorem canon_of_hbm {t : State} (e : t.hbm = s.hbm) (h : Canon s) : Canon t := by unfold Canon; rw [e]; exact h

theorem ite_canon {c : Prop} [Decidable c] {t : State} (h : Canon s) (h' : Canon t) : Canon (if c then s else t) := by split <;> assumption

theorem hbmWrite_canon (pa : Nat) (bs : List Byte) (h : Canon s) : Canon (s.hbmWrite pa bs) :=
  foldl_tput_wf Memory.blank (fun i => pa + i) (fun i => lget 0 bs i) _ _ h

theorem writeBack_canon (ln : Nat) (l : L2Line) (h : Canon s) : Canon (s.writeBack ln l) := by
  have hw := hbmWrite_canon (s := s) (ln * 128) (natBytes 128 l.data.toNat) h
  unfold State.writeBack
  simp only
  generalize s.hbmWrite (ln * 128) (natBytes 128 l.data.toNat) = t at hw
  by_cases e : l.dirty = true
  · rw [if_pos e]; exact hw
  · rw [if_neg e]; exact h

@[simp] theorem scrubCount_hbm (stack kind slot pa : Nat) : (s.scrubCount stack kind slot pa).hbm = s.hbm := rfl

@[simp] theorem readHalf_hbm (h slot stack : Nat) (quiet : Bool) : (s.readHalf h slot stack quiet).1.hbm = s.hbm := by
  unfold State.readHalf
  simp only
  generalize s.metaOf h = m
  obtain ⟨sl, po⟩ := m
  cases po with
  | true => rw [if_pos rfl]
  | false =>
    cases sl with
    | none => rfl
    | some sg =>
      simp only
      by_cases e : sg = (slot, s.gen slot)
      · rw [if_neg (by decide), if_pos e]
      · rw [if_neg (by decide), if_neg e]
        cases quiet
        · rw [if_neg (by decide), scrubCount_hbm]
        · rw [if_pos rfl]

@[simp] theorem correct_hbm (c o n : Nat) : (s.correct c o n).hbm = s.hbm := by
  unfold State.correct
  split
  · rfl
  · exact State.modCore_hbm _ _ _

@[simp] theorem recall_hbm (ln : Nat) : (s.recall ln).hbm = s.hbm := by
  unfold State.recall
  split
  · rfl
  · split <;> rfl

theorem evict_canon (slice sb : Nat) (h : Canon s) : Canon (s.evict slice sb) := by
  unfold State.evict
  refine foldl_keeps Canon _ ?_ _ _ h
  intro t e ht
  exact canon_of_hbm (s := t.writeBack e.1 e.2) rfl (writeBack_canon _ _ ht)

theorem settleGo_canon (ln slice n : Nat) (h : Canon s) : Canon (State.settleGo ln slice n s) := by
  induction n generalizing s with
  | zero => exact h
  | succ n ih =>
    unfold State.settleGo
    simp only
    split
    · exact h
    · split
      · exact evict_canon _ _ h
      · exact ih (evict_canon _ _ h)

theorem settle_canon (ln slice : Nat) (h : Canon s) : Canon (s.settle ln slice) := by
  unfold State.settle
  simp only
  split
  · exact h
  · exact settleGo_canon _ _ _ h

theorem putLine_canon (ln : Nat) (l : L2Line) (h : Canon s) : Canon (s.putLine ln l) :=
  settle_canon (s := { s with l2 := tput none s.l2 ln (some l) }) ln l.at_ h

theorem endLease_canon (key : Nat) (later : Bool) (h : Canon s) : Canon (s.endLease key later) := by
  unfold State.endLease
  refine foldl_keeps Canon _ ?_ _ _ h
  intro t e ht
  split
  · exact ht
  · split
    · exact ht
    · exact writeBack_canon _ _ ht

theorem freeLine_canon (ln : Nat) (h : Canon s) : Canon (s.freeLine ln) := by
  unfold State.freeLine
  split
  · exact h
  · simp only
    split <;> exact writeBack_canon _ _ h

theorem lapse_canon (ln : Nat) (h : Canon s) : Canon (s.lapse ln) := by
  unfold State.lapse
  repeat' split
  all_goals first | exact h | exact endLease_canon _ _ h

/-- Fetching a line writes main memory only where a lease that is over gives its lines back. -/
theorem fetchLine_canon (pa slot pl pln : Nat) (skip quiet : Nat) (h : Canon s) : Canon (s.fetchLine pa slot pl pln skip quiet).1 := by
  have hl : Canon ((s.recall (pa / 128)).lapse (pa / 128)) := lapse_canon _ (canon_of_hbm (recall_hbm _) h)
  have half : ∀ (t : State) (c : Bool) (i k : Nat) (q : Bool), Canon t → Canon (if c then (t, false) else t.readHalf i slot k q).1 := by
    intro t c i k q ht
    cases c with
    | true => exact ht
    | false => exact canon_of_hbm (readHalf_hbm _ _ _ _) ht
  have fails : ∀ (t : State) (c : Bool) (a b d e : Nat), Canon t → Canon (if c then t else t.scrubCount a b d e) := by
    intro t c a b d e ht
    cases c with
    | true => exact ht
    | false => exact canon_of_hbm (scrubCount_hbm _ _ _ _) ht
  unfold State.fetchLine
  simp only
  generalize (s.recall (pa / 128)).lapse (pa / 128) = t at hl
  split
  · split
    · exact hl
    · exact fails _ _ _ _ _ _ (fails _ _ _ _ _ _ hl)
  · exact half _ _ _ _ _ (half _ _ _ _ _ hl)

@[simp] theorem watchOne_hbm (w : Who) (pa n pc q i : Nat) : (s.watchOne w pa n pc q i).hbm = s.hbm := by
  have drew : ∀ t : State, (if w.named = true then t else ({ t with free := t.free + 4 } : State)).hbm = t.hbm := by
    intro t; split <;> rfl
  unfold State.watchOne
  simp only
  split
  · split
    · rw [State.modStrand_hbm, drew, State.modPart_hbm]
    · rw [drew, State.modPart_hbm]
  · rfl

@[simp] theorem watchHit_hbm (w : Who) (pa n pc : Nat) : (s.watchHit w pa n pc).hbm = s.hbm := by
  unfold State.watchHit
  refine foldl_keeps (fun (u : State) => u.hbm = s.hbm) _ ?_ _ _ rfl
  intro u q h
  refine foldl_keeps (fun (u : State) => u.hbm = s.hbm) _ ?_ _ _ h
  intro v i hv
  rw [watchOne_hbm]; exact hv

theorem putWatch_canon (ln : Nat) (l : L2Line) (w : Who) (a n pc : Nat) (h : Canon s) : Canon ((s.putLine ln l).watchHit w a n pc) :=
  canon_of_hbm (watchHit_hbm _ _ _ _) (putLine_canon _ _ h)

@[simp] theorem watchLines_hbm (w : Who) (a n : Nat) : (s.watchLines w a n).hbm = s.hbm := by
  unfold State.watchLines
  refine foldl_keeps (fun (u : State) => u.hbm = s.hbm) _ ?_ _ _ rfl
  intro u q h
  refine foldl_keeps (fun (u : State) => u.hbm = s.hbm) _ ?_ _ _ h
  intro v i hv
  simp only
  split
  · exact hv
  · refine foldl_keeps (fun (u : State) => u.hbm = s.hbm) _ ?_ _ _ hv
    intro x j hx
    rw [watchOne_hbm]; exact hx

/-- A walk's reads of the tables (R95, R101). -/
theorem walkTouch_canon (slot a : Nat) (h : Canon s) : Canon (s.walkTouch slot a) := by
  unfold State.walkTouch
  split
  · exact putLine_canon _ _ (fetchLine_canon _ _ _ _ _ _ h)
  · exact h

/-- A translation writes only A and D, through the L2 (R101). -/
theorem translate_canon (p slot va : Nat) (u : Use) (own : Bool) (h : Canon s) : Canon (s.translate p slot va u own).1 := by
  have touch : ∀ l : List Nat, Canon (l.foldl (fun s a => s.walkTouch slot a) s) := fun l =>
    foldl_keeps Canon _ (fun _ _ ht => walkTouch_canon _ _ ht) l s h
  unfold State.translate
  split
  · exact h
  · simp only
    split
    · exact h
    · split
      · exact h
      · have ht := touch (walkReads s slot (va % 2 ^ 57) 3 (s.part p).fu.ptbase)
        generalize (walkReads s slot (va % 2 ^ 57) 3 (s.part p).fu.ptbase).foldl (fun s a => s.walkTouch slot a) s = t at ht
        split
        · exact ht
        · exact ht
        · exact ht
        · split
          · exact ht
          · split
            · exact ht
            · simp only
              have key : ∀ (c : Prop) [Decidable c] (t : State) (f : FaultUnit → FaultUnit), Canon t → Canon (if c then t.modFu p f else t) := by
                intro c _ t f ht
                split
                · exact canon_of_hbm (State.modFu_hbm t p f) ht
                · exact ht
              exact key (own = true) _ _ (ite_canon ht (putWatch_canon _ _ _ _ _ _ (fetchLine_canon _ _ _ _ _ _ ht)))

/-- The state an access leaves. -/
def Got.after : Got → State
  | .ok s _ _ _ => s
  | .fault s _ _ _ => s
  | .cause s _ _ => s
  | .wait s _ => s

/-- An access at a physical place. -/
theorem physLine_canon (w : Who) (ph : Phys) (va n pc : Nat) (wr : Option (List Byte)) (h : Canon s) :
    Canon (Got.after (s.physLine w ph va n pc wr)) := by
  unfold State.physLine
  cases ph with
  | hbm pa slot pl pln ce =>
    have hf := fetchLine_canon (s := s) pa slot pl pln (match wr with | some bs => wholeHalves (pa % 128) bs.length | none => 0)
      ((if w.cover.contains (pa / 128 * 2) then 1 else 0) + (if w.cover.contains (pa / 128 * 2 + 1) then 2 else 0)) h
    simp only
    generalize s.fetchLine pa slot pl pln _ _ = r at hf
    obtain ⟨t, l⟩ := r
    simp only at hf ⊢
    cases wr with
    | none => exact putLine_canon _ _ hf
    | some bs => exact canon_of_hbm (watchHit_hbm _ _ _ _) (putLine_canon _ _ hf)
  | host _ =>
    cases wr with
    | none => dsimp only; split <;> exact canon_of_hbm (s := s) rfl h
    | some _ => dsimp only; split <;> exact canon_of_hbm (s := s) rfl h
  | remote _ _ =>
    have h' : Canon s.nextFree := canon_of_hbm (State.nextFree_hbm _) h
    simp only
    generalize s.nextFree = t at h'
    cases wr <;> dsimp only <;> (repeat' split) <;> first | exact h' | exact h
  | reserved _ => cases wr <;> exact h

theorem stashFill_canon (c wn : Nat) (st : Stash) (i pa slot pl pln : Nat) (h : Canon s) : Canon (s.stashFill c wn st i pa slot pl pln) := by
  have hf := fetchLine_canon (s := s) pa slot pl pln 0 0 h
  unfold State.stashFill
  simp only
  generalize s.fetchLine pa slot pl pln = r at hf
  obtain ⟨t, l⟩ := r
  have hp := putLine_canon (s := t) (pa / 128) { t.seen (pa / 128) st.part l with owner := .stash c wn i } hf
  simp only
  generalize t.putLine (pa / 128) { t.seen (pa / 128) st.part l with owner := .stash c wn i } = t' at hp
  have key : ∀ (u : State) (f : Core → Core), Canon u → Canon (u.modCore c f) := fun u f hu => canon_of_hbm (State.modCore_hbm u c f) hu
  generalize hm : t'.modCore c _ = t2
  have h2 : Canon t2 := hm ▸ key _ _ hp
  by_cases e : (tget none t2.l2 (pa / 128)).isSome = true
  · rw [if_pos e]; exact h2
  · rw [if_neg e]; exact key _ _ h2

/-- An access that is translated and may be refused. -/
theorem reach_canon (w : Who) (va : Nat) (u : Use) (h : Canon s) : Canon (s.reach w va u).1 := by
  have ht := translate_canon w.part w.slot va u w.own h
  unfold State.reach
  generalize s.translate w.part w.slot va u w.own = r at ht
  obtain ⟨t, a⟩ := r
  cases a <;> exact ht

/-- What an access does once its translation has answered. -/
theorem after_reach (w : Who) (va : Nat) (u : Use) (f : State → Phys → Got) (h : Canon s)
    (hf : ∀ t ph, Canon t → Canon (Got.after (f t ph))) :
    Canon (Got.after (match s.reach w va u with
      | (s, .cause c) => .cause s c va
      | (s, .fault k l) => .fault s k l va
      | (s, .wait a) => .wait s a
      | (s, .ok ph) => f s ph)) := by
  have ht := reach_canon w va u h
  generalize s.reach w va u = r at ht
  obtain ⟨t, a⟩ := r
  cases a with
  | ok ph => exact hf t ph ht
  | _ => exact ht

/-- An access inside one line (R101, R138, R141). -/
theorem glLine_canon (w : Who) (va n pc : Nat) (u : Use) (wr : Option (List Byte)) (h : Canon s) :
    Canon (Got.after (s.glLine w va n pc u wr)) := by
  unfold State.glLine
  simp only
  split
  · exact after_reach _ _ _ (fun t ph => t.physLine w ph va n pc wr) h (fun _ _ ht => physLine_canon _ _ _ _ _ _ ht)
  · split
    · exact after_reach _ _ _ (fun t ph => t.physLine w ph va n pc wr) h (fun _ _ ht => physLine_canon _ _ _ _ _ _ ht)
    · rename_i wn st i _
      have ht := reach_canon w va u h
      generalize s.reach w va u = r at ht
      obtain ⟨t, a⟩ := r
      cases a with
      | cause c => exact ht
      | fault k l => exact ht
      | wait a => exact ht
      | ok ph =>
        cases ph with
        | hbm pa slot pl pln ce =>
          simp only
          have hv : Canon (if (tget none st.lines i).isSome = true then t else t.stashFill w.core wn st i pa slot pl pln) := by
            by_cases hh : (tget none st.lines i).isSome = true
            · rw [if_pos hh]; exact ht
            · rw [if_neg hh]; exact stashFill_canon _ _ _ _ _ _ _ _ ht
          generalize (if (tget none st.lines i).isSome = true then t else t.stashFill w.core wn st i pa slot pl pln) = t2 at hv
          by_cases hw : t.watched pa = true
          · rw [if_pos hw]; exact physLine_canon _ _ _ _ _ _ ht
          · rw [if_neg hw]
            by_cases hn : (tget none (tget ({} : Stash) (t2.core w.core).stash wn).lines i).isNone = true
            · rw [if_pos hn]; exact physLine_canon _ _ _ _ _ _ hv
            · rw [if_neg hn]
              cases wr with
              | none => exact canon_of_hbm (correct_hbm _ _ _) hv
              | some bs => exact canon_of_hbm (State.setCore_hbm _ _ _) hv
        | host v => exact physLine_canon _ _ _ _ _ _ ht
        | remote a b => exact physLine_canon _ _ _ _ _ _ ht
        | reserved a => exact physLine_canon _ _ _ _ _ _ ht

theorem glRead_canon (w : Who) (va n pc : Nat) (u : Use) (h : Canon s) : Canon (Got.after (s.glRead w va n pc u)) := by
  unfold State.glRead
  refine foldl_keeps (fun g => Canon (Got.after g)) _ ?_ _ _ h
  intro g om hg
  cases g with
  | ok t bs bad ts =>
    have hl := glLine_canon w (va + om.1) om.2 pc u none hg
    simp only [Got.after] at hl
    simp only
    generalize t.glLine w (va + om.1) om.2 pc u none = r at hl
    cases r <;> exact hl
  | _ => exact hg

theorem glProbe_canon (w : Who) (va n : Nat) (u : Use) (h : Canon s) : Canon (Got.after (s.glProbe w va n u)) := by
  unfold State.glProbe
  refine foldl_keeps (fun g => Canon (Got.after g)) _ ?_ _ _ h
  intro g om hg
  cases g with
  | ok t _ _ _ =>
    have hr := reach_canon (s := t) w (va + om.1) u hg
    simp only
    generalize t.reach w (va + om.1) u = r at hr
    obtain ⟨t', a⟩ := r
    cases a <;> exact hr
  | _ => exact hg

theorem glWrite_canon (w : Who) (va pc : Nat) (bs : List Byte) (h : Canon s) : Canon (Got.after (s.glWrite w va pc bs)) := by
  unfold State.glWrite
  have hp := glProbe_canon w va bs.length .w h
  generalize s.glProbe w va bs.length .w = g at hp
  cases g with
  | ok t a b c =>
    simp only
    refine foldl_keeps (fun g => Canon (Got.after g)) _ ?_ _ _ hp
    intro g om hg
    cases g with
    | ok t bs' bad ts =>
      have hl := glLine_canon w (va + om.1) om.2 pc .w (some ((bs.drop om.1).take om.2)) hg
      simp only [Got.after] at hl
      simp only
      generalize t.glLine w (va + om.1) om.2 pc .w (some ((bs.drop om.1).take om.2)) = r at hl
      cases r <;> exact hl
    | _ => exact hg
  | _ => exact hp

theorem glPoison_canon (w : Who) (va n : Nat) (h : Canon s) : Canon (s.glPoison w va n) := by
  unfold State.glPoison
  refine foldl_keeps Canon _ ?_ _ _ h
  intro t om ht
  have hr := translate_canon w.part w.slot (va + om.1) .w w.own ht
  simp only
  generalize t.translate w.part w.slot (va + om.1) .w w.own = r at hr
  obtain ⟨t', a⟩ := r
  cases a with
  | ok ph =>
    cases ph with
    | hbm pa slot pl pln ce => exact putLine_canon _ _ (fetchLine_canon _ _ _ _ _ _ hr)
    | _ => exact hr
  | _ => exact hr

theorem paWrite_canon (pa slot : Nat) (bs : List Byte) (h : Canon s) : Canon (s.paWrite pa slot bs) := by
  unfold State.paWrite
  refine foldl_keeps Canon _ ?_ _ _ h
  intro t om ht
  simp only
  split
  · exact ht
  · exact canon_of_hbm (watchHit_hbm _ _ _ _) (putLine_canon _ _ (fetchLine_canon _ _ _ _ _ _ ht))

theorem paRead_canon (pa slot n : Nat) (h : Canon s) : Canon (s.paRead pa slot n).1 := by
  unfold State.paRead
  refine foldl_keeps (fun r => Canon (Prod.fst r)) _ ?_ _ _ h
  intro t om ht
  simp only
  split
  · exact ht
  · exact putLine_canon _ _ (fetchLine_canon _ _ _ _ _ _ ht)

theorem behindWrite_canon (pa slot : Nat) (bs : List Byte) (h : Canon s) : Canon (s.behindWrite pa slot bs) :=
  canon_of_hbm (t := s.behindWrite pa slot bs) rfl (hbmWrite_canon pa bs (foldl_keeps Canon _ (fun t h ht => by
    split
    · exact ht
    · exact hbmWrite_canon _ _ ht) _ _ h))

theorem stashClean_canon (c wn i : Nat) (h : Canon s) : Canon (s.stashClean c wn i) := by
  unfold State.stashClean
  simp only
  split
  · split
    · exact writeBack_canon _ _ (canon_of_hbm (s := s) rfl h)
    · exact h
  · exact h

theorem stashFlush_canon (c wn : Nat) (h : Canon s) : Canon (s.stashFlush c wn) :=
  foldl_keeps Canon _ (fun _ _ h => stashClean_canon _ _ _ h) _ _ h

theorem stashUnmap_canon (c wn : Nat) (h : Canon s) : Canon (s.stashUnmap c wn) := by
  unfold State.stashUnmap
  refine foldl_keeps Canon _ ?_ _ _ (stashFlush_canon c wn h)
  intro t e ht
  split
  · exact canon_of_hbm (recall_hbm _) ht
  · exact ht

theorem moveFrame_canon (p old pl pln new : Nat) (h : Canon s) : Canon (s.moveFrame p old pl pln new) := by
  have key : ∀ t : State, Canon t → ∀ f : Nat × Byte → Bool, ∀ cells : List (Nat × Byte),
      twf Memory.blank (cells.foldl (fun m c => tput Memory.blank m (c.1 - old + new) c.2) (t.hbm.filter f)) = true := by
    intro t ht f cells
    exact foldl_tput_wf Memory.blank (fun c : Nat × Byte => c.1 - old + new) (fun c => c.2) cells _ (filter_wf _ f _ ht)
  have move : ∀ (t : State) (c : Prop) [Decidable c], Canon t → Canon (if c then t
      else (List.range 1024).foldl (fun s i => s.hbmWrite (old + 64 * i) ((List.range 64).map (fun j => s.hbmSeen p (old + 64 * i + j)))) t) := by
    intro t c _ ht
    split
    · exact ht
    · exact foldl_keeps Canon _ (fun _ _ hu => hbmWrite_canon _ _ hu) _ _ ht
  unfold State.moveFrame
  refine canon_of_hbm (watchLines_hbm _ _ _) ?_
  refine key _ (move _ _ ?_) _ _
  refine foldl_keeps Canon _ ?_ _ _ h
  intro t e ht
  split
  · simp only
    split
    · exact writeBack_canon _ _ (canon_of_hbm (recall_hbm _) ht)
    · exact canon_of_hbm (recall_hbm _) ht
  · exact ht

/-- Undefined contents are marks beside memory. -/
@[simp] theorem undefine_hbm (units : List Nat) (p : Nat) : (s.undefine units p).hbm = s.hbm := rfl
@[simp] theorem loseTo_hbm (ps : List Nat) (u : Nat) : (s.loseTo ps u).hbm = s.hbm := rfl

/-- Clearing poison writes no byte (R96, R160). -/
@[simp] theorem unpoison_hbm (us : List Nat) : (s.unpoison us).hbm = s.hbm := by
  unfold State.unpoison
  refine foldl_keeps (fun (u : State) => u.hbm = s.hbm) _ ?_ _ _ rfl
  intro u k h
  simp only
  split
  · exact h
  · split <;> exact h

/-- Erasing a slot's keys writes its dirty lines back (R364). -/
theorem flushSlot_canon (slot : Nat) (h : Canon s) : Canon (s.flushSlot slot) := by
  unfold State.flushSlot
  refine foldl_keeps Canon _ ?_ _ _ h
  intro t e ht
  split
  · split
    · simp only
      have hr : Canon (t.recall e.1) := canon_of_hbm (recall_hbm _) ht
      split
      · exact writeBack_canon _ _ hr
      · exact hr
    · exact ht
  · exact ht

end Sys2Proof.Laws
end

