-- ==== Sys2Proof/Laws/Ops.lean ====
section
/-! SUPPORT. What the shared operations do: scratchpad bytes, landing writes, the scalar frame, results put
under way, a strand that stays, the end of a bundle, and the ways a trap ends. -/

namespace Sys2Proof.Laws

open Sys2Proof.Machine

/-! Scratchpad bytes. -/

/-- A byte of SP after a write (R159). -/
theorem spWrite_byte (k : Core) (a : Nat) (bs : List Byte) (j : Nat) :
    (k.spWrite a bs).spByte j = if a ≤ j ∧ j < a + bs.length then lget 0 bs (j - a) else k.spByte j :=
  tget_foldl_range 0 (lget 0 bs) a bs.length j k.sp

/-- The canonical form of SP is kept. -/
theorem spWrite_wf (k : Core) (a : Nat) (bs : List Byte) (h : twf 0 k.sp = true) : twf 0 (k.spWrite a bs).sp = true :=
  foldl_tput_wf 0 (fun i => a + i) (fun i => lget 0 bs i) _ _ h

@[simp] theorem spWrite_strands (k : Core) (a : Nat) (bs : List Byte) : (k.spWrite a bs).strands = k.strands := rfl
@[simp] theorem spWrite_active (k : Core) (a : Nat) (bs : List Byte) : (k.spWrite a bs).active = k.active := rfl
@[simp] theorem spWrite_tiles (k : Core) (a : Nat) (bs : List Byte) : (k.spWrite a bs).tiles = k.tiles := rfl

/-! Tiles. -/

/-- A word of a tile after one is written (R226), for rows and columns of a tile. -/
theorem setTile_tile (k : Core) (y i j y' i' j' : Nat) (v : BitVec 32) (hi : i < 128) (hj : j < 128) (hi' : i' < 128) (hj' : j' < 128) :
    (k.setTile y i j v).tile y' i' j' = if y' = y ∧ i' = i ∧ j' = j then v else k.tile y' i' j' := by
  have e : tileIx y' i' j' = tileIx y i j ↔ y' = y ∧ i' = i ∧ j' = j := by unfold tileIx; omega
  unfold Core.setTile Core.tile
  rw [tget_tput]
  by_cases h : y' = y ∧ i' = i ∧ j' = j
  · rw [if_pos h, if_pos (e.mpr h)]
  · rw [if_neg h, if_neg (fun h' => h (e.mp h'))]

/-! Landing writes. -/

variable (s : State) (c x : Nat)

/-- Main memory is no landing's place. -/
theorem landWrite_hbm (w : RegWrite) : (landWrite c x w s).hbm = s.hbm := by
  unfold landWrite
  cases w with
  | g f v => exact State.setStrand_hbm s c x _
  | s f e v =>
    simp only
    split
    · exact State.modCore_hbm s c _
    · split
      · exact State.setStrand_hbm s c x _
      · rfl
  | v f v m => exact State.setStrand_hbm s c x _
  | m f v m =>
    simp only
    split
    · rfl
    · exact State.setStrand_hbm s c x _
  | q f img => exact State.setStrand_hbm s c x _
  | t y hr v m => exact State.modCore_hbm s c _

/-- A landing in a g register (R55): that register, and nothing else of the strand. -/
theorem landWrite_g (f : Nat) (v : Word) :
    (landWrite c x (.g f v) s).strand c x =
      { s.strand c x with regs := { (s.strand c x).regs with g := tput 0 (s.strand c x).regs.g f v } } :=
  State.strand_setStrand s c x _

/-- A landing in an entry of the scalar file that is resident (R169). -/
theorem landWrite_s_resident (f e : Nat) (v : Word) (h1 : (s.strand c x).regs.low ≤ e) (h2 : e ≤ (s.strand c x).regs.low + 191) :
    (landWrite c x (.s f e v) s).strand c x =
      { s.strand c x with regs := { (s.strand c x).regs with s := tput 0 (s.strand c x).regs.s e v } } := by
  simp only [landWrite]
  rw [if_neg (by omega), if_pos h2]
  exact State.strand_setStrand s c x _

/-- A landing in an entry above the resident ones is dropped (R169). -/
theorem landWrite_s_dropped (f e : Nat) (v : Word) (h : (s.strand c x).regs.low + 191 < e) : landWrite c x (.s f e v) s = s := by
  simp only [landWrite]
  rw [if_neg (by omega), if_neg (by omega)]

/-- A write of m0 is discarded (R167). -/
theorem landWrite_m0 (v m : MWord) : landWrite c x (.m 0 v m) s = s := rfl

/-- m0 reads as all ones (R167). -/
theorem mreg_zero (t : Strand) : t.mreg 0 = BitVec.allOnes 256 := rfl

/-! The scalar frame. -/

/-- SetFrame moves FB and leaves every other register file (R169). -/
theorem setFrame_regs (f : Nat) (t : Strand) : let r := (setFrame c f t s).2.regs
    r.fb = f ∧ r.g = t.regs.g ∧ r.v = t.regs.v ∧ r.m = t.regs.m ∧ r.q = t.regs.q ∧ r.k = t.regs.k := by
  unfold setFrame
  simp only
  split
  · exact ⟨rfl, rfl, rfl, rfl, rfl, rfl⟩
  · split <;> exact ⟨rfl, rfl, rfl, rfl, rfl, rfl⟩

/-- After SetFrame the frame's 48 entries are resident (R169). -/
theorem setFrame_resident (f : Nat) (t : Strand) :
    (setFrame c f t s).2.regs.low ≤ f ∧ f + 48 ≤ (setFrame c f t s).2.regs.low + 192 := by
  unfold setFrame
  simp only
  split
  · constructor <;> simp only <;> omega
  · split
    · constructor <;> simp only <;> omega
    · constructor <;> simp only <;> omega

/-! Results put under way. -/

/-- A fixed-latency operation queues its writes for the cy `lat` after its own (R55). -/
theorem fixed_me (slot lat : Nat) (ws : List RegWrite) :
    (s.fixed slot lat ws).me = { s.me with plat := { s.me.plat with results := s.me.plat.results ++
      [{ issue := s.me.sclk, slot := slot, due := s.me.sclk + lat, issueCy := s.cy, lat := lat, seq := s.me.seq, epc := s.me.bpos,
         writes := ws, arrived := true }] } } :=
  State.me_setMe s _

@[simp] theorem fixed_hbm (slot lat : Nat) (ws : List RegWrite) : (s.fixed slot lat ws).hbm = s.hbm := State.setMe_hbm s _

/-- A variable-latency operation queues a result that has not arrived (R56). -/
theorem variable_me (slot lat : Nat) (ld : LoadOp) :
    (s.variable slot lat ld).me = { s.me with seq := s.me.seq + 1, plat := { s.me.plat with results := s.me.plat.results ++
      [{ issue := s.me.sclk, slot := slot, due := s.me.sclk + lat, issueCy := s.cy, lat := lat, seq := s.me.seq, epc := s.me.bpos,
         load := some ld }] } } :=
  State.me_setMe s _

@[simp] theorem variable_hbm (slot lat : Nat) (ld : LoadOp) : (s.variable slot lat ld).hbm = s.hbm := State.setMe_hbm s _

/-! Issue. -/

/-- A strand that waits keeps its registers, tokens, results and schedule clock; real time passes (R268). -/
theorem stay_keeps (g : Gate) :
    (s.stay g).me.regs = s.me.regs ∧ (s.stay g).me.plat = s.me.plat ∧ (s.stay g).me.sclk = s.me.sclk ∧ (s.stay g).hbm = s.hbm ∧
      (s.stay g).cy = s.cy + 1 := by
  have key : ∀ (t : Strand) (n : Nat), ({ s.setMe t with cy := n } : State).me = t := fun t _ => State.me_setMe s t
  unfold State.stay
  cases g <;> refine ⟨?_, ?_, ?_, rfl, rfl⟩ <;> simp only [key]

/-- A bundle whose gate is closed has no effect but that wait. -/
theorem issueBundle_stay {ops : List SlotOp} {g : Gate} (h : gateOf ops s = g) (hg : g ≠ .go) : issueBundle ops s = s.stay g := by
  unfold issueBundle
  cases g with
  | go => exact absurd rfl hg
  | _ => rw [h]

/-- A bundle one slot of which raises a cause has no effect but that (R62). -/
theorem issueBundle_raise {ops : List SlotOp} {e : Exc} (h : gateOf ops s = .go) (hr : runOps ops s = .error e) :
    issueBundle ops s = s.raiseAt s.cur s.ctx e s.me.bpos s.me.bpos := by
  unfold issueBundle
  rw [h]; simp only [hr]

/-- A bundle that issues and raises nothing has the effects of its slots in order, then ends. -/
theorem issueBundle_ok {ops : List SlotOp} {u : State} (h : gateOf ops s = .go) (hr : runOps ops s = .ok u) :
    issueBundle ops s = u.finish := by
  unfold issueBundle
  rw [h]; simp only [hr]

/-- The first slot that raises a cause on the state before the bundle decides (R38, R62). -/
theorem runOps_error {ops rest : List SlotOp} {o : SlotOp} {e : Exc} (h : ∀ p ∈ ops, ∃ u, p.run s = .ok u) (ho : o.run s = .error e) :
    runOps (ops ++ o :: rest) s = .error e := by
  have key : (ops ++ o :: rest).findSome? (fun o => excOf (o.run s)) = some e := by
    induction ops with
    | nil => simp [ho, excOf]
    | cons a r ih =>
      obtain ⟨u, hu⟩ := h a (by simp)
      rw [List.cons_append, List.findSome?_cons, hu]
      exact ih (fun p hp => h p (by simp [hp]))
  unfold runOps
  split
  · next q hq =>
    cases ops with
    | nil => simp only [List.nil_append, List.cons.injEq] at hq; rw [← hq.1]; exact ho
    | cons a r => simp at hq
  · rw [key]

/-! Traps. -/

/-- A cause inside a handler aborts the launch (R335). -/
theorem raiseAt_nested (e : Exc) (tpc epc : Nat) (h : (s.strand c x).handler.isSome = true) :
    s.raiseAt c x e tpc epc = s.abortLaunch (s.strand c x).part (s.strand c x).lid 0x3F := by
  unfold State.raiseAt
  exact if_pos h

/-- A cause that the innermost region takes rolls back; every other takes a trap (R323). -/
theorem raiseAt_first (e : Exc) (tpc epc : Nat) (h : (s.strand c x).handler = none) :
    s.raiseAt c x e tpc epc = if (s.strand c x).rollsBack e = true then s.rollback c x e epc else s.trap c x e tpc epc := by
  unfold State.raiseAt
  exact if_neg (by rw [h]; decide)

/-- With no trap records, a trap aborts the launch with its cause (R334). -/
theorem trap_noBase (e : Exc) (tpc epc : Nat) (h : (s.strand c x).handler = none) (he : e.cause ≠ .fatal)
    (hb : (s.part (s.strand c x).part).trapBase = 0) :
    s.trap c x e tpc epc = s.abortLaunch (s.strand c x).part (s.strand c x).lid e.cause.code := by
  unfold State.trap
  simp only
  rw [if_neg (by simp [h, he]), if_pos hb]

/-- With no handler, the trap whose record stands aborts the launch with its cause (R334). -/
theorem enterHandler_none (e : Exc) (tpc epc : Nat) (h : (s.part (s.strand c x).part).segStat ≠ 1)
    (h0 : (s.part (s.strand c x).part).trapSeg = 0) :
    s.enterHandler c x e tpc epc = s.abortLaunch (s.strand c x).part (s.strand c x).lid e.cause.code := by
  unfold State.enterHandler
  simp only
  rw [if_neg h, if_pos (Or.inl h0)]

/-! Soft errors. -/

/-- Correcting the errors of a range changes a core's marks and its count alone (R160). -/
theorem core_correct_eq (k : Core) (a n : Nat) : ∃ t e, k.correct a n = { k with soft := t, ecc := e } := by
  unfold Core.correct
  generalize (k.soft.map (·.1)).filter (fun h => decide (8 * h < a + n) && decide (a < 8 * h + 8)) = l
  induction l generalizing k with
  | nil => exact ⟨k.soft, k.ecc, rfl⟩
  | cons h r ih => exact ih (k.mend h)

/-- The same of the package: a read that corrects errors changes no core but its own, and of it marks and count alone. -/
theorem correct_eq (d a n : Nat) :
    s.correct d a n = s ∨ ∃ t e, s.correct d a n = s.setCore d { s.core d with soft := t, ecc := e } := by
  unfold State.correct
  split
  · exact .inl rfl
  · obtain ⟨t, e, h⟩ := core_correct_eq (s.core d) a n
    exact .inr ⟨t, e, congrArg (s.setCore d) h⟩

end Sys2Proof.Laws
end

