-- ==== Sys2Proof/Tests/Slice0.lean ====
section
/-! SUPPORT. Tests: ill-formed terms that the check refuses, words written out from the spec's encodings, one step from a placed
word, and a state that meets the hypotheses of each statement. -/

namespace Sys2Proof.Tests

open Sys2Proof.Machine Sys2Proof.Safety

set_option Elab.async false

/-! Well-formedness: each check refuses a term. -/

theorem test_refuses_slots : wellFormed (.nop .X true) = false ∧ wellFormed (.call true 0 5) = false ∧ wellFormed (.calli true 3 49) = false ∧
    wellFormed (.mfc true 0 0x004) = false ∧ wellFormed (.mtc true 0x000 (.reg 1)) = false ∧ wellFormed (.chkV true 1 2 0 .f32) = false := by decide +kernel
theorem test_refuses_fields : wellFormed (.bfx .inX 1 2 (.imm 63) 1) = false ∧ wellFormed (.bfi .inX 1 2 (.imm 1) 63) = false ∧
    wellFormed (.ld .sp .b8 true 1 2 0 ⟨0, .core⟩) = false ∧ wellFormed (.ld .sp .b16 false 1 2 0 ⟨0, .core⟩) = false ∧
    wellFormed (.st .sp .b16 3 2 0 ⟨0, .core⟩) = false ∧ wellFormed (.atom .sp .b1 .add .none false 1 2 3 0 ⟨0, .core⟩) = false ∧
    wellFormed (.atom .sp .b4 .add .none true 1 2 3 0 ⟨0, .core⟩) = false ∧ wellFormed (.ldv 1 2 0 .tf32 ⟨0, .core⟩) = false := by decide +kernel
theorem test_refuses_types : wellFormed (.fadd .v0 .e4m3 .fmt 1 2 3 0) = false ∧ wellFormed (.frcp .v0 .f64 .fmt 1 2 0) = false ∧
    wellFormed (.cvt .v0 .s8 .s32 .rz 1 2 0 0) = false ∧ wellFormed (.cvt .v0 .f32 .f16 .fmt 1 2 0 2) = false ∧
    wellFormed (.cvtQ .v0 .e4m3 .f32 .fmt 1 1 2 0 0) = false ∧ wellFormed (.iadd .v0 .s4 1 2 3 0) = false ∧
    wellFormed (.vmacI8 .v0 .s16 .s8 1 2 3 0 0) = false ∧ wellFormed (.vrshr .v0 .s16 1 2 3 0 1 2) = false ∧
    wellFormed (.vand .v0 .f32 1 2 3 0) = false ∧ wellFormed (.vperm .v0 false .b8 1 2 3 4 0) = false ∧
    wellFormed (.vbcast .v0 .b64 1 (.lane 2 32) 0) = false ∧ wellFormed (.vred .v0 .adds .f32 .fmt 1 2 0) = false ∧
    wellFormed (.vred .v0 .min .f32 .rz 1 2 0) = false ∧ wellFormed (.vcmp .v0 .un .s32 1 2 3 0) = false ∧
    wellFormed (.vmovS .v0 .e2m1 1 2 (.imm 0)) = false ∧ wellFormed (.vmovS .v0 .b64 1 2 (.imm 32)) = false ∧
    wellFormed (.accRd .v0 .f64 1 2 (.imm 0 0) 0) = false ∧ wellFormed (.cpyRed .adds .f32 1 2 ⟨0, 0, 0, 0, 0, .core⟩) = false ∧
    wellFormed (.gath false .s4 1 2 3 ⟨0, 0, 0, 0, 0, .core⟩) = false ∧ wellFormed (.scat true false .s8 1 2 3 ⟨0, 0, 0, 0, 0, .core⟩) = false := by decide +kernel
theorem test_refuses_agents : wellFormed (.resultLanding 256 0) = false ∧ wellFormed (.storePerformed 0 4 0) = false ∧
    wellFormed (.copyStart 256) = false ∧ wellFormed (.stashWriteback 0 8 0) = false ∧ wellFormed (.pageFault 48) = false ∧
    wellFormed (.scrubLine 12 0 .clean) = false ∧ wellFormed (.scrubLine 0 0x240000000 .clean) = false ∧ wellFormed (.leaseExpiry 0 0) = false ∧
    wellFormed (.superstepRelease 64 0) = false ∧ wellFormed (.shareSliceExpiry 64) = false ∧ wellFormed (.gangStart 48 0 0) = false ∧
    wellFormed (.launch 0 16) = false ∧ wellFormed (.preempt 0 64) = false ∧ wellFormed (.watchpointArmed 0 8) = false ∧
    wellFormed (.registerWrite (.part 48) 0 0) = false ∧ wellFormed (.getVersion (.vf 48)) = false := by decide +kernel
theorem test_refuses_sites : wellFormed (.unattributedFault (.cluster 64)) = false ∧ wellFormed (.unattributedFault (.stack 12)) = false ∧
    wellFormed (.receiveDma 50 0 []) = false ∧ wellFormed (.functionReady 64) = false ∧ wellFormed (.remoteAccess 16384 0 0 0 (.read 8)) = false := by
  decide +kernel
theorem test_accepts : wellFormed (.pageFault 49) = true ∧ wellFormed (.remoteAccess 16383 0 47 0 (.read 8)) = true ∧
    wellFormed (.call false 48 0) = true ∧ wellFormed (.bfx .inX 1 2 (.imm 60) 3) = true := by decide +kernel

/-! Decoding: words written out field by field from the spec's encoding tables. -/

theorem test_decode_control : decodeSlot false .C (BitVec.ofNat 64 (0x05 * 2 ^ 56 + 2 ^ 55 + 5 * 2 ^ 33 + 0x100)) = .ok (.call true 5 0x100) ∧
    decodeSlot false .C (BitVec.ofNat 64 (0x02 * 2 ^ 56 + 2 * 2 ^ 51 + 1 * 2 ^ 45 + 2 * 2 ^ 39 + 7)) = .ok (.brCc false .lt 1 2 7) ∧
    decodeSlot false .C (BitVec.ofNat 64 (0x1D * 2 ^ 56 + 1 * 2 ^ 49 + 2 * 2 ^ 43 + 3 * 2 ^ 40 + 16 * 2 ^ 35)) = .ok (.chkV false 1 2 3 .b32) ∧
    decodeSlot false .C (BitVec.ofNat 64 (0x10 * 2 ^ 56 + 2 ^ 32 + 7)) = .ok (.setfmt false (.imm 7)) := by
  repeat' constructor
theorem test_decode_scalar :
    decodeSlot false .C (BitVec.ofNat 64 (0x37 * 2 ^ 56 + 1 * 2 ^ 49 + 2 * 2 ^ 43 + 3 * 2 ^ 37 + 4 * 2 ^ 31)) = .ok (.madd (.inC false) 1 2 3 4) ∧
    decodeSlot false .X (BitVec.ofNat 64 (0x32 * 2 ^ 56 + 1 * 2 ^ 49 + 2 * 2 ^ 43 + 0xFFFFFFFF)) = .ok (.addi .inX 1 2 0xFFFFFFFF) ∧
    decodeSlot false .C (BitVec.ofNat 64 (0x48 * 2 ^ 56 + 1 * 2 ^ 49 + 2 * 2 ^ 43 + 2 ^ 36 + 4 * 2 ^ 30 + 7 * 2 ^ 24)) =
      .ok (.bfx (.inC false) 1 2 (.imm 4) 7) := by
  repeat' constructor
theorem test_decode_memory :
    decodeSlot false .M (BitVec.ofNat 64 (0x78 * 2 ^ 56 + 33 * 2 ^ 50 + 5 * 2 ^ 45 + 2 * 2 ^ 42 + 1 * 2 ^ 38 + 2 * 2 ^ 35 + 1 * 2 ^ 30)) =
      .ok (.ldv 33 5 2 .f32 ⟨1, .cluster⟩) ∧
    decodeSlot false .M (BitVec.ofNat 64 (0x73 * 2 ^ 56 + 3 * 2 ^ 40 + 4 * 2 ^ 37)) = .ok (.fence 3 .package) ∧
    decodeSlot false .M (BitVec.ofNat 64 (0x72 * 2 ^ 56 + 1 * 2 ^ 50 + 2 * 2 ^ 44 + 3 * 2 ^ 38 + 1 * 2 ^ 31 + 1 * 2 ^ 28 + 3 * 2 ^ 25 + 2 ^ 24 + 2 * 2 ^ 20 +
      1 * 2 ^ 18 + 8)) = .ok (.atom .gl .b8 .min .acq true 1 2 3 8 ⟨0, .core⟩) := by
  repeat' constructor
theorem test_decode_vector :
    decodeSlot false .V0 (BitVec.ofNat 64 (0xB0 * 2 ^ 56 + 1 * 2 ^ 50 + 2 * 2 ^ 44 + 3 * 2 ^ 38 + 4 * 2 ^ 29 + 16 * 2 ^ 24)) =
      .ok (.vand .v0 .b32 1 2 3 4) ∧
    decodeSlot false .V1 (BitVec.ofNat 64 (0xA4 * 2 ^ 56 + 1 * 2 ^ 50 + 2 * 2 ^ 44 + 3 * 2 ^ 38 + 8 * 2 ^ 24)) = .ok (.iadd .v1 .s32 1 2 3 0) ∧
    decodeSlot false .V1 (BitVec.ofNat 64 (0x93 * 2 ^ 56 + 1 * 2 ^ 50 + 2 * 2 ^ 44 + 3 * 2 ^ 38 + 4 * 2 ^ 32 + 5 * 2 ^ 29 + 1 * 2 ^ 24 + 5 * 2 ^ 16)) =
      .ok (.fma .v1 .f32 .sr 1 2 3 4 5) := by
  repeat' constructor
theorem test_decode_engines :
    decodeSlot false .E (BitVec.ofNat 64 (0xD0 * 2 ^ 56 + 1 * 2 ^ 51 + 2 * 2 ^ 46 + 3 * 2 ^ 40 + 4 * 2 ^ 34 + 5 * 2 ^ 28 + 6 * 2 ^ 22 + 1 * 2 ^ 18 + 1 * 2 ^ 15)) =
      .ok (.cpy 1 2 ⟨3, 4, 5, 6, 1, .core⟩) ∧
    decodeSlot false .E (BitVec.ofNat 64 (0xD8 * 2 ^ 56 + 2 * 2 ^ 53 + 1 * 2 ^ 48 + 2 * 2 ^ 43 + 3 * 2 ^ 37 + 4 * 2 ^ 31 + 1 * 2 ^ 12 + 3 * 2 ^ 7 + 3 * 2 ^ 2 + 2)) =
      .ok (.mma true 3 3 2 1 2 ⟨3, 4, 0, 0, 0, .core⟩) ∧
    decodeSlot false .E (BitVec.ofNat 64 (0xE8 * 2 ^ 56 + 5 * 2 ^ 50 + 6 * 2 ^ 45 + 7 * 2 ^ 39 + 1 * 2 ^ 14)) = .ok (.chSend 5 6 ⟨7, 0, 0, 0, 0, .core⟩) := by
  repeat' constructor
theorem test_decode_refuses : decodeSlot false .C (BitVec.ofNat 64 (0x05 * 2 ^ 56 + 49 * 2 ^ 33)) = .error .reservedField ∧
    decodeSlot false .C 0x2100_0000_0000_0000 = .error .privOpcode ∧ decodeSlot false .C 0x0E00_0000_0000_0000 = .error .reservedOpcode ∧
    decodeSlot false .X 0x0100_0000_0000_0000 = .error .illegalSlot ∧ decodeSlot false .C 1 = .error .reservedField := by
  repeat' constructor

/-! One step from a placed word. -/

/-- The slot word ADD g1, g2, g3 in C (R44, R51). -/
def addWord : Nat := 0x30 * 2 ^ 56 + 1 * 2 ^ 49 + 2 * 2 ^ 43 + 3 * 2 ^ 37
theorem test_table_word : decodeTableWord 64 addWord = some (.add (.inC false) 1 2 3) := by decide +kernel
theorem test_step_add : (match step (State.reset.withFetchWord 64 addWord) with
    | .next t => ((t.strand 0 0).pc, (t.strand 0 0).sclk, (t.strand 0 0).plat.results.map (fun r => (r.due, r.slot)))
    | _ => (0, 0, [])) = (25, 1, [(1, 0)]) := by decide +kernel

/-! Witnesses: concrete states and operands that meet the hypotheses of the statements, clause by clause. -/

/-- A strand on core 0 that stands at a NOP. -/
def t0 : State :=
  let s := State.reset.withFetchWord 64 0
  { s with kryel := { s.kryel with meas := [] }, hk := { s.hk with fw := [], chain := 0 } }
/-- The same strand, changed. -/
def tm (f : Strand → Strand) : State := t0.modMe f
/-- With g1 to g3 set. -/
def tg (a b c : Word) : State := tm (fun t => { t with regs := { t.regs with g := [(1, a), (2, b), (3, c)] } })
/-- With a pattern in q1 and q2, and more. -/
def tq (a b : Nat) (f : Strand → Strand := id) : State :=
  tm (fun t => f { t with regs := { t.regs with q := [(1, BitVec.ofNat 512 a), (2, BitVec.ofNat 512 b)] } })
/-- A region frame. -/
def fr : Frame := { rid := 1, budget := 1, abm := 0, tgt := 0, start := 64, end_ := 4096, fill := 64, fmt := 1, rseed := 0, rctr := 0, fb := 0, low := 0, seq := 0 }
/-- A strand in one region. -/
def tr : State := tm (fun t => { t with frames := [fr] })
/-- A byte-form pattern: base, elements, bytes an element as its code, space. -/
def pat (base n es as_ : Nat) : Nat :=
  qPut (qPut (qPut (qPut (qPut (qPut (qPut (qPut 0 511 448 base) 447 384 (2 ^ 20)) 383 382 1) 381 379 as_) 378 376 es) 375 373 1) 63 40 (n - 1)) 39 0 1

/-! Encodings and steps. -/

theorem witness_EncodeDecode : wellFormed (.call true 48 0xFFFFFF) = true ∧ (encode (.call true 48 0xFFFFFF)).isSome = true := by decide +kernel
theorem witness_Rejections :
    (let b : Bundle := soloBundle .X 0x0100_0000_0000_0000
     (match decodeBundle false b with | .error (e, sl) => (e == .illegalSlot && sl == .X) | .ok _ => false) = true) ∧
    decodeSlot true .M 0xFF00_0000_0000_0000 = .error .reservedOpcode ∧ decodeSlot true .X 0x2F00_0000_0000_0000 = .error .illegalSlot ∧
    decodeSlot true .E 0x5F00_0000_0000_0000 = .error .illegalSlot ∧ decodeSlot true .C 0x6000_0000_0000_0000 = .error .illegalSlot ∧
    decodeSlot true .V0 0x8F00_0000_0000_0000 = .error .illegalSlot ∧ decodeSlot true .M 0x9000_0000_0000_0000 = .error .illegalSlot ∧
    decodeSlot true .V1 0xFE00_0000_0000_0000 = .error .illegalSlot ∧
    (∀ e ∈ ([(.C, 0x0E), (.C, 0x13), (.C, 0x2F), (.C, 0x4A), (.X, 0x5F), (.X, 0x63), (.M, 0x75), (.M, 0x8F), (.V0, 0x9D), (.V1, 0xCA), (.E, 0xD5), (.E, 0xFE)] :
      List (Slot × Nat)), (match decodeSlot true e.1 (BitVec.ofNat 64 (e.2 * 2 ^ 56)) with | .error .reservedOpcode => true | _ => false) = true) ∧
    decodeSlot true .C 0x2100_0000_0000_0000 = .ok (.eret false) ∧ decodeSlot false .C 0x2100_0000_0000_0000 = .error .privOpcode ∧
    decodeSlot true .C 0x2200_0000_0000_0000 = .ok (.dictLoad false 0 0 0 false) := by
  and_intros <;> first | decide +kernel | rfl
/-- What a step needs to run the ADD of `addWord`. -/
def sAdd : State := State.reset.withFetchWord 64 addWord
theorem witness_StepRunsDecoded : sAdd.agenda = [.issue 0] ∧ Issuing sAdd 0 0 ∧ (let s₁ := readied sAdd [] 0 0
    s₁.atBreak (s₁.strand 0 0) = false ∧ s₁.enterCause (s₁.strand 0 0) true = none ∧ (match s₁.fetch 0 0 with
      | .bundle u b len => len = 25 ∧ u.enterCause (s₁.strand 0 0) (bundleLand b) = none ∧
          (match decodeBundle (u.sysBit (s₁.strand 0 0)) b with | .ok l => soloOf l = some (.add (.inC false) 1 2 3) | .error _ => False)
      | _ => False)) := by
  refine ⟨by decide +kernel, by decide +kernel, by decide +kernel, by decide +kernel, ?_⟩
  have h : (match (readied sAdd [] 0 0).fetch 0 0 with
      | .bundle u b len => decide (len = 25) && decide (u.enterCause ((readied sAdd [] 0 0).strand 0 0) (bundleLand b) = none) &&
          (match decodeBundle (u.sysBit ((readied sAdd [] 0 0).strand 0 0)) b with
            | .ok l => decide (soloOf l = some (.add (.inC false) 1 2 3)) | .error _ => false)
      | _ => false) = true := by decide +kernel
  revert h
  split
  · intro h
    simp only [Bool.and_eq_true, decide_eq_true_eq] at h
    refine ⟨h.1.1, h.1.2, ?_⟩
    have h2 := h.2
    revert h2
    split <;> simp
  · simp
/-- A posted register write of VF 0, and a state in which posted writes of that function wait. -/
def regW : Instr := .registerWrite (.part 0) 0x028 7
def sPosted (o : WinOp) : State := { t0 with win := [{ fn := .vf 0, off := 0, op := o }] }
theorem witness_StepTakesTurn : isEvent (.pageFault 0) = true ∧ wellFormed (.pageFault 0) = true ∧ isEvent .idleBundle = false ∧ t0.behind (.pageFault 0) = none ∧
    isEvent regW = true ∧ wellFormed regW = true ∧ t0.behind regW = none ∧ (sPosted (.write [0] false)).behind regW = some (.vf 0) ∧
    t0.winAgain.dueReg = none ∧ (sPosted (.reg regW)).winAgain.dueReg = some (0, regW) := by decide +kernel
theorem witness_MemoryCanonicalKept : MemoryCanonical sAdd ∧ ∃ t, step sAdd = .next t := ⟨by decide +kernel, by
  have h : (match step sAdd with | .next _ => true | _ => false) = true := by decide +kernel
  revert h; split <;> simp_all⟩
theorem witness_IssueFrame : Plain t0 ∧ ∀ e ∈ t0.me.plat.fmts, t0.me.sclk + 1 < e.1 := by decide +kernel
theorem witness_RegisterOnlyFrame : registerOnly (.add .inX 1 2 3) = true ∧ gateOf [slotOp (.add .inX 1 2 3)] t0 = .go ∧
    (∃ u, (slotOp (.add .inX 1 2 3)).run t0 = .ok u) ∧ ∃ t, exec (.add .inX 1 2 3) t0 = .next t := ⟨by decide +kernel, by decide +kernel, ⟨_, rfl⟩, ⟨_, rfl⟩⟩
/-- A WAIT on an ARMED token. -/
def sArmed : State := tm (fun t => t.setTok 1 .armed)
theorem witness_BundleRefusals : gateOf [slotOp (.wait false 1 0 0 0)] sArmed ≠ .go ∧ sArmed.me.idle = 0 ∧
    32 < ((List.replicate 33 (slotOp (.add .inX 1 2 3))).map (·.puts t0)).sum + t0.me.underWay t0.cy ∧
    gateOf ([slotOp (.add .inX 1 2 3)] ++ slotOp (.ret false) :: []) t0 = .go ∧ (∀ p ∈ [slotOp (.add .inX 1 2 3)], ∃ u, p.run t0 = .ok u) ∧
    (slotOp (.ret false)).run t0 = .error { cause := .access } := by
  and_intros <;> first | decide +kernel | rfl | simp
  exact ⟨_, rfl⟩
/-- Results of strand 0: one due with a write of g1, one that is still to arrive. -/
def rDone : Result := { issue := 0, slot := 0, due := 0, issueCy := 0, lat := 1, seq := 0, epc := 0, writes := [.g 1 7], arrived := true }
def rWait : Result := { rDone with arrived := false, load := some { kind := .scalar 1 0 false, pieces := [{ loc := .sp 0 0, n := 8 }], cls := 0, sc := .core } }
def sRes (r : Result) : State := tm (fun t => { t with plat := { results := [r] } })
theorem witness_Landing : (let t := (sRes rDone).strand 0 0; let due := t.plat.results.filter (fun r => decide (r.due ≤ t.sclk))
      (∀ r ∈ due, r.arrived = true ∧ r.exc = none) ∧ (∀ r ∈ t.plat.redirects, t.sclk < r.due) ∧ t.dbg.strict = false ∧ due.length = 1 ∧
        (due.flatMap (fun r => r.writes)) = [.g 1 7]) ∧
    (let r := { rDone with writes := [.v 3 5 1] }
     (([r].flatMap (fun r => r.writes)) = [.v 3 5 1])) ∧ ([{ rDone with writes := [] }].flatMap (fun r => r.writes)) = [] ∧
    (let a := rDone; let b := { rDone with issue := 1, writes := [.g 1 8] }; let t := (tm (fun t => { t with plat := { results := [a, b] } })).strand 0 0
     t.plat.results.filter (fun r => decide (r.due ≤ t.sclk)) = [a, b] ∧ a.due = b.due ∧ a.issue < b.issue ∧ a.writes = [.g 1 7] ∧ b.writes = [.g 1 8]) ∧
    (∃ r ∈ ((sRes rWait).strand 0 0).plat.results, r.due ≤ ((sRes rWait).strand 0 0).sclk ∧ r.arrived = false) :=
  ⟨by decide +kernel, by decide +kernel, by decide +kernel, by decide +kernel, rWait, by decide +kernel⟩
theorem witness_RegisterLanding : 31 < Ty.b64.lanes ∧ (let r := (t0.strand 0 0).regs; r.low ≤ 0 ∧ 191 ≤ r.low + 191 ∧ r.low + 191 < 192) ∧
    (let r := ((tm (fun t => { t with regs := { t.regs with low := 1 } })).strand 0 0).regs; 0 < r.low) := by decide +kernel

/-! Scalars and control. -/

theorem witness_room : Room t0 0 ∧ Room t0 1 ∧ Room t0 2 ∧ Plain t0 ∧ StoresClear t0 ∧ StoreRoom t0 := by decide +kernel
theorem witness_ScalarArithmetic : holds .lt (BitVec.ofInt 64 (-1)) 0 ∧ ¬ holds .ltn (BitVec.ofInt 64 (-1)) 0 := by
  constructor <;> simp [holds]
theorem witness_ScalarDivision : (tg 0 0 0).me.sreg 2 = 0 ∧ (let s := tg (BitVec.ofInt 64 (-2 ^ 63)) (BitVec.ofInt 64 (-1)) 0
    (s.me.sreg 1).toInt = -2 ^ 63 ∧ (s.me.sreg 2).toInt = -1 ∧ s.me.sreg 2 ≠ 0) := by decide +kernel
/-- A pattern pool of three entries: byte form, tensor form with HREG, data-segment form. -/
def sPool : State := (tg 1 0 0).modCore 0 (fun k => { k with poolN := 4, pool := [(0, BitVec.ofNat 512 (pat 0 1 1 0)),
  (1, BitVec.ofNat 512 (2 * 2 ^ 382)), (2, BitVec.ofNat 512 (2 * 2 ^ 382 + 2 ^ 360)), (3, BitVec.ofNat 512 (pat 0 1 1 3))] })
/-- The same with a descriptor of rank 1 and extent 4, and a data segment. -/
def sDesc : State := (sPool.modMe (fun t => { t with ctl := { t.ctl with ttcount := 4, dbase := 65536 } })).modCore 0 (fun k =>
  { k with descs := [{ unit := 0, part := 0, tt := 0, h := 1, img := BitVec.ofNat 512 0 }] })
theorem witness_PatternOps : Room sDesc 1 ∧ (let k := sDesc.core sDesc.cur; let P (i : Nat) := (tget 0 k.pool i).toNat
    0 < k.poolN ∧ qAs (P 0) ≠ 3 ∧ qKind (P 0) = 1 ∧ qAs (P 1) ≠ 3 ∧ qKind (P 1) = 2 ∧ qHreg (P 1) = false ∧ qHandle (P 1) < sDesc.me.ctl.ttcount ∧
    qAs (P 2) ≠ 3 ∧ qKind (P 2) = 2 ∧ qHreg (P 2) = true ∧ (sDesc.me.sreg 1).toNat / 2 ^ 52 < sDesc.me.ctl.ttcount ∧ qAs (P 3) = 3 ∧ sDesc.me.ctl.dbase ≠ 0) := by
  decide +kernel
/-- A descriptor of rank 1, extent 4, f32, one page. -/
def d1 : Nat := 1 + 1 * 16 + 1 * 512 + 3 * 2 ^ 240 + 1 * 2 ^ 448
def sSym : State := (tm (fun t => { t with ctl := { t.ctl with ttcount := 2 }, regs := { t.regs with g := [(1, 1), (2, 3), (3, 4)] } })).modCore 0
  (fun k => { k with descs := [{ unit := 0, part := 0, tt := 0, h := 1, img := BitVec.ofNat 512 d1 }] })
theorem witness_Symix : Room sSym 1 ∧ (sSym.me.sreg 1).toNat % 4096 < sSym.me.ctl.ttcount ∧ sSym.myDesc 0 1 = some d1 ∧ descOk d1 = true ∧
    2 + dRank d1 ≤ 0x40 ∧ (sSym.me.sreg 2).toNat < dExt d1 0 ∧ dExt d1 0 ≤ (sSym.me.sreg 3).toNat := by decide +kernel
theorem witness_ControlRegisters : Room t0 1 ∧ t0.me.post = 0 ∧ (∀ r ∈ [0x012, 0x013, 0x010, 0x009, 0x00B, 0x00C, 0x014, 0x021, 0x022, 0x023, 0x024], mtcOk t0.me r 0 = true) ∧
    mtcOk t0.me 0x00A 384 = true ∧ mtcOk t0.me 0x009 1 = false ∧ fmtOk 1 = true ∧ fmtOk 0 = false := by decide +kernel
theorem witness_Transfers : Room (tg 0 0 0) 1 ∧ (tg 0 0 0).me.sreg 1 = 0 ∧ Room (tg 1 0 0) 1 ∧ (tg 1 0 0).me.sreg 1 = 1 ∧ Room (tg 2 0 0) 1 ∧
    1 < ((tg 2 0 0).me.sreg 1).toNat ∧ Room t0 0 ∧ StoresClear t0 ∧ t0.me.frames = [] ∧ t0.me.pend = none := by decide +kernel
/-- A strand with a link in entry 0 and frame base 1. -/
def sLink : State := tm (fun t => { t with regs := { t.regs with fb := 1, s := [(0, BitVec.ofNat 64 (2 ^ 63 + 2 ^ 24 + 5))] }, ctl := { t.ctl with spillSize := 384 } })
/-- A link in spill slot 0, in a row that may be poisoned. -/
def sSpill (bad : Bool) : State := (tm (fun t => { t with regs := { t.regs with fb := 1, low := 1 }, ctl := { t.ctl with spillSize := 384 } })).modCore 0
  (fun k => { k.spWrite 0 (natBytes 8 (2 ^ 63 + 2 ^ 24 + 5)) with spBad := if bad then [(0, true)] else [] })
theorem witness_CallsSpilled : ∀ b ∈ [false, true], (let s := sSpill b; let l := s.entryAt 0; Room s 0 ∧ s.me.regs.fb = 1 ∧ 0 < s.me.regs.low ∧
      ((s.correct s.cur s.me.ctl.spillBase 8).core (s.correct s.cur s.me.ctl.spillBase 8).cur).spPoison s.me.ctl.spillBase 8 = b ∧
      l / 2 ^ 63 = 1 ∧ fld l 61 30 = 0 ∧ 1 ≤ fld l 29 24 ∧ fld l 29 24 ≤ 1) := by decide +kernel
theorem witness_Calls : Room sLink 0 ∧ (let l := sLink.entryAt 0; sLink.me.regs.fb = 1 ∧ l / 2 ^ 63 = 1 ∧ fld l 61 30 = 0 ∧ 1 ≤ fld l 29 24 ∧ fld l 29 24 ≤ 1) ∧
    sLink.me.ctl.spillSize < 8 * (1 + 0 + 48) ∧ (let s := tm (fun t => { t with ctl := { t.ctl with spillSize := 384 } })
      Room s 0 ∧ s.me.regs.fb = 0 ∧ 8 * (0 + 0 + 48) ≤ s.me.ctl.spillSize) := by decide +kernel
theorem witness_Tokens : Room t0 0 ∧ (∀ k ∈ [1, 2, 0, 0], k ≠ 0 → t0.me.tok k = .empty ∨ t0.me.tok k = .done) ∧ sArmed.me.tok 1 = .armed ∧
    (let s := tm (fun t => (t.setTok 1 .done).setTok 2 (.error .access))
     (∀ j ∈ [1, 2, 0, 0], j ≠ 0 → s.me.tok j ≠ .armed) ∧ [1, 2, 0, 0][1]? = some 2 ∧ s.me.tok 2 = .error .access ∧ s.me.tok 1 = .done) := by decide +kernel
/-- A strand bound to barrier 1, which expects `n`. -/
def sBar (n : Nat) (h : Bool := false) : State := (t0.modLaunch 0 0 (fun l => { l with bars := 2 })).setBar 0 1 { expect := n, held := h }
/-- A barrier held for a copy of a participant. -/
def sHeld : State := ((sBar 1 true).modMe (fun t => { t with out := [(1, some 0)], arrSeq := [(1, 1)] })).modCore 0 (fun k => { k with copies :=
  [{ kind := .keepP 0, part := 0, lid := 0, gang := 0, ctx := 0, sid := 0, fmt := 1, rseed := 0, kp := 0, cls := 0, sc := .core, seq := 0 },
   { kind := .copy false, part := 0, lid := 0, gang := 0, ctx := 0, sid := 0, pd := BitVec.ofNat 512 (pat 0 1 1 0), fmt := 1, rseed := 0, kp := 0, cls := 0,
     sc := .core, seq := 0 }] })
theorem witness_Barriers : (∀ n ∈ [1, 2], Room (sBar n) 0 ∧ (sBar n).me.frames = [] ∧ (sBar n).bound (sBar n).me 1 = true ∧ (sBar n).outNow 1 = false) ∧
    (let k := (sBar 1).bar 0 1; k.count + 1 = k.expect ∧ k.anySS = false) ∧ (let k := (sBar 2).bar 0 1; k.count + 1 ≠ k.expect) ∧
    ((sBar 1 true).bar 0 1).held = true ∧ (sBar 1 true).superBusy 0 1 = false ∧ (sHeld.bar 0 1).held = true ∧ sHeld.superBusy 0 1 = true := by decide +kernel
theorem witness_RegionEffects : Room tr 1 ∧ tr.me.frames ≠ [] ∧ tr.outNow 1 = false ∧ StoresClear tr ∧
    (∃ loc, tr.mAddr 2 1 (tr.me.addr 1 0) (sizeNat .b8) = .ok loc) ∧ (∀ i ∈ ([.trig 0 0 0 0 ⟨0, 0, 0, 0, 0, .core⟩, .chSend 0 0 ⟨0, 0, 0, 0, 0, .core⟩,
      .chRed .adds .f32 0 0 ⟨0, 0, 0, 0, 0, .core⟩, .chFwd 0 0 ⟨0, 0, 0, 0, 0, .core⟩] : List Instr), (slotOp i).gate tr = .go) := by
  and_intros <;> first | decide +kernel | exact ⟨_, rfl⟩

/-! Regions and traps. -/

def sh : Shadow := { plat := {}, sclk := 7, record := 0, cause := .software, tpc := 3, epc := 3, slot := 0, code := none, idle := 0 }
/-- In handler state. -/
def sHand : State := tm (fun t => { t with handler := some sh })
/-- With a region area. -/
def sArea : State := tm (fun t => { t with ctl := { t.ctl with regionSize := 64 } })
theorem witness_RegionBeginAndEnd : Room sHand 0 ∧ sHand.me.handler.isSome = true ∧
    (let s := tm (fun t => { t with frames := List.replicate 8 fr }); Room s 0 ∧ s.me.handler = none ∧ 8 ≤ s.me.frames.length) ∧
    Room t0 0 ∧ t0.me.handler = none ∧ t0.me.frames.length < 8 ∧ t0.startPos t0.me 24 = false ∧ t0.startPos t0.me 0 = true ∧
    t0.me.ctl.regionBase + t0.me.ctl.regionSize < 0 + 64 * 1 ∧ sArea.startPos sArea.me 0 = true ∧ 0 + 64 * 1 ≤ sArea.me.ctl.regionBase + sArea.me.ctl.regionSize ∧
    Room tr 0 ∧ tr.me.handler = none ∧ tr.me.frames = [fr] ∧ fr.rid = (1 : BitVec 8).toNat ∧ fr.rid ≠ (2 : BitVec 8).toNat ∧
    (let s := tm (fun t => { t with frames := [fr, fr] }); Room s 0 ∧ s.me.handler = none ∧ 1 < s.me.frames.length) := by decide +kernel
/-- In a region with room for tiles, q1 three bytes of scratchpad. -/
def sKeep : State := tq (pat 0 1 1 0) 0 (fun t => { t with frames := [{ fr with end_ := 200000 }] })
theorem witness_RegionKeep : Room sKeep 0 ∧ sKeep.me.handler = none ∧ (sKeep.core 0).kiln.length < 8 ∧ 64 + (16 + 65536) ≤ 200000 - 64 ∧
    (let i := (sKeep.me.qreg 1).toNat; qKind i = 1 ∧ qAs i = 0 ∧ (sKeep.core 0).copies.length < 16 ∧ 0 ≤ patLeast i ∧ qEs i ≠ 0 ∧
      patGreatest i + qSize i ≤ qLim i ∧ (State.span 0 i none).2.2 ≤ Config.spBytes ∧
      (sKeep.core 0).guarded (State.span 0 i none).2.1 ((State.span 0 i none).2.2 - (State.span 0 i none).2.1) = false ∧
      64 + (80 + 16 * ((qCount i * qSize i + 15) / 16)) ≤ 200000 - 64 ∧ sKeep.me.tok 1 ≠ .armed) := by decide +kernel
/-- The undo area is too small for any entry more. -/
def sFull : State := tq (pat 0 1 1 0) 0 (fun t => { t with frames := [{ fr with end_ := 130 }] })
theorem witness_RegionFull : Room sFull 0 ∧ sFull.me.handler = none ∧ (sFull.core 0).kiln.length < 8 ∧ 130 - 64 < 64 + (16 + 16 * ((8 * 1 + 15) / 16)) ∧
    130 - 64 < 64 + (16 + 65536) ∧ (let i := (sFull.me.qreg 1).toNat; qKind i = 1 ∧ qAs i = 0 ∧ (sFull.core 0).copies.length < 16 ∧ 0 ≤ patLeast i ∧ qEs i ≠ 0 ∧
      patGreatest i + qSize i ≤ qLim i ∧ (State.span 0 i none).2.2 ≤ Config.spBytes ∧
      (sFull.core 0).guarded (State.span 0 i none).2.1 ((State.span 0 i none).2.2 - (State.span 0 i none).2.1) = false ∧
      130 - 64 < 64 + (80 + 16 * ((qCount i * qSize i + 15) / 16))) := by decide +kernel
/-- In nested regions of these budgets, the innermost first, which keep `ks`; token 2 is a command's of the region. -/
def sRoll (bs : List Nat) (ks : List KeepEntry) : State :=
  tm (fun t => { t with frames := bs.map (fun b => { fr with budget := b, keeps := ks }), kdep := [(2, 1)] })
/-- One entry of each kind. -/
def kept1 : List (List KeepEntry) := [[.g 1 7], [.v 2 9], [.s 3 5], [.y 1 [(0, 4)] true false], [.p 64 [(6, 255, false)]]]
theorem witness_RollbackKeeps : (∀ ks ∈ kept1, let t := (sRoll [1] ks).strand 0 0
      t.frames = [{ fr with keeps := ks }] ∧ (sRoll [1] ks).rollHeld 0 0 1 = false ∧ fr.budget ≠ 0 ∧ fr.fb ≤ 3 ∧ 3 < fr.fb + 48 ∧ fr.fb + 48 ≤ t.regs.low + 192 ∧ 1 ≤ tget 0 t.kdep 2) ∧
    tsorted [(0, (4 : BitVec 32))] = true ∧ (∀ b ∈ [((6 : Nat), (255 : Nat), false)], b.2.1 = 255) ∧
    (let t := (sRoll [0, 1] []).strand 0 0; t.frames = [{ fr with budget := 0 }, fr] ∧ (sRoll [0, 1] []).rollHeld 0 0 1 = false) ∧
    (let t := (sRoll [0] []).strand 0 0; t.frames = [{ fr with budget := 0 }] ∧ (sRoll [0] []).rollHeld 0 0 1 = false) := by decide +kernel
theorem witness_Rollback : Room tr 0 ∧ tr.me.handler = none ∧ tr.me.frames ≠ [] ∧ t0.me.frames = [] ∧ t0.me.handler = none ∧ (tr.strand 0 0).frames = [fr] ∧
    fr.budget ≠ 0 ∧ tr.rollHeld 0 0 1 = false := by decide +kernel
theorem witness_Checks : (tg 1 1 2).me.sreg 1 = (tg 1 1 2).me.sreg 2 ∧ (tg 1 1 2).me.sreg 1 ≠ (tg 1 1 2).me.sreg 3 ∧ Room (tg 1 1 2) 0 ∧
    (let s := tm (fun t => { t with regs := { t.regs with v := [(1, 1)] } })
     maskBit (s.me.mreg 0) 32 0 = true ∧ laneOf (s.me.vreg 1) 32 0 ≠ laneOf (s.me.vreg 2) 32 0 ∧ s.me.vreg 2 = s.me.vreg 3) := by decide +kernel

theorem got_ok (g : Got) (h : (match g with | .ok _ _ false _ => true | _ => false) = true) : ∃ u bs ts, g = .ok u bs false ts := by
  revert h; split <;> simp_all
/-- With TRAP.BASE at 2^17, a handler segment and a spill area. -/
def sTrap : State := (tm (fun t => { t with ctl := { t.ctl with spillSize := 768 } })).modPart 0 (fun q =>
  { q with trapBase := 2 ^ 17, segStat := 2, trapSeg := 64, fu := { q.fu with tlb := [(0, some (0x27F, 0)), (2, some (0x27F, 0))] } })
theorem witness_Traps : Room sTrap 0 ∧ sTrap.me.handler = none ∧ (sTrap.part 0).trapBase ≠ 0 ∧ Room t0 0 ∧ t0.me.handler = none ∧ (t0.part 0).trapBase = 0 ∧
    Room sHand 0 ∧ sHand.me.handler = some sh ∧ (∀ r ∈ sHand.me.plat.results, r.arrived = true) ∧ sHand.busy15 sHand.cur sHand.ctx = false ∧
    (let s := sHand.modMe (fun t => { t with plat := { results := [rWait] } }); s.me.handler = some sh ∧ ∃ r ∈ s.me.plat.results, r.arrived = false) ∧
    (let s : State := sHand.modMe (fun t => { t with stores := [{ seq := 0, pos := 0, pieces := [{ loc := .gl 8, bytes := [1] }], cls := 0, sc := .core, pc := 0 }] });
      s.me.handler = some sh ∧ s.busy15 s.cur s.ctx = true) ∧
    sTrap.busy15 0 0 = false ∧ (let s := sTrap.modStrand 0 0 (fun t => { t with stores := [{ seq := 0, pos := 0, pieces := [{ loc := .gl 8, bytes := [1] }], cls := 0, sc := .core, pc := 0 }] })
      Room s 0 ∧ s.busy15 0 0 = true) ∧ sTrap.mixSpan 0 0 (trapSlot (2 ^ 17) 0 0) 128 = (sTrap, false) ∧
    (match sTrap.glWrite (sTrap.whoOf 0 0 0) (trapSlot (2 ^ 17) 0 0) 0 (trapRecord sTrap.me { cause := .software, aux := 5 } 0 0 sTrap.time) with
      | .ok u _ _ _ => (u.part 0).segStat == 2 && (u.part 0).trapSeg != 0 && decide (8 * ((u.strand 0 0).regs.fb + 96) ≤ (u.strand 0 0).ctl.spillSize)
      | _ => false) = true := by decide +kernel
theorem witness_DictionaryLoad : Room t0 0 ∧ t0.me.frames = [] ∧ canonical 0 = true ∧ 0 % 16 = 0 ∧ (4095 : BitVec 12).toNat + ((0 : BitVec 12).toNat + 1) ≤ 4096 ∧
    (let s := tm (fun t => { t with dict := some (3, 4, 0) }); (s.strand 0 0).fault = none ∧ (s.strand 0 0).dict = some (3, 3 + 1, 0) ∧ s.owes 0 0 0 48 = false ∧ s.mixSpan 0 0 0 48 = (s, false) ∧
      s.mayPerform 0 0 (s.strand 0 0) ((s.strand 0 0).dictEvent 0) = true ∧
      ∃ u bs ts, s.glRead (s.whoOf 0 0 7) 0 48 (s.strand 0 0).bpos = .ok u bs false ts) ∧
    (8 : Nat) % 16 ≠ 0 ∧ 4096 < (4095 : BitVec 12).toNat + ((1 : BitVec 12).toNat + 1) ∧ canonical (2 ^ 56) = false ∧ (2 ^ 56 : Nat) % 16 = 0 := by
  and_intros <;> first | decide +kernel | exact got_ok _ (by decide +kernel)

/-! The M slot. -/

theorem ok_of {α : Type} (x : Except Exc α) (h : (match x with | .ok _ => true | .error _ => false) = true) : ∃ v, x = .ok v := by
  revert h; split <;> simp_all
/-- A packed block of FP32: base 0, `lim` bytes, `n` elements. -/
def cur (lim n : Nat) : Nat := qPut (qPut (qPut (qPut (qPut (qPut 0 447 384 lim) 383 382 1) 378 376 2) 375 373 3) 63 40 (n - 1)) 39 0 4
/-- Four FP32 elements of scratchpad, by bytes; and of descriptor 1. -/
def f4 : Nat := qPut (qPut (qPut (qPut (qPut (qPut 0 447 384 64) 383 382 1) 378 376 1) 375 373 3) 63 40 3) 39 0 4
def t4 : Nat := qPut (qPut (qPut (qPut (qPut (qPut (2 ^ 388) 383 382 2) 378 376 1) 375 373 3) 372 361 1) 63 40 3) 39 0 1
/-- A 2 by 2 antisymmetric descriptor: element 0 is a forced zero. -/
def dA : Nat := 1 + 16 + 2 * 512 + 2 ^ 240 + 2 ^ 264 + 2 ^ 190 + 2 ^ 193 + 2 * 2 ^ 212 + 2 ^ 448
/-- Patterns in q1 and q2, and descriptor 1. -/
def sT (d : Nat) (v : VWord := 0) : State := (tq f4 t4 (fun t => { t with ctl := { t.ctl with ttcount := 2 }, regs := { t.regs with v := [(1, v)] } })).modCore 0
  (fun k => { k with descs := [{ unit := 0, part := 0, tt := 0, h := 1, img := BitVec.ofNat 512 d }] })
/-- Core 0 and its cluster held by partition 0. -/
def sCl : State := t0.modCluster 0 (fun k => { k with part := some 0 })
/-- In a region whose core's gate holds 1024 blocks. -/
def sGate : State := tm (fun t => { t with frames := [fr], stores := [{ seq := 0, pos := 0, pieces := [], cls := 0, sc := .core, pc := 0, depth := 1, gate := 1024 }] })
theorem witness_Reach : Reach t0 .sp (0x17FFF8) 8 (.sp 0 (0x17FFF8)) ∧ Reach t0 .gl (2 ^ 64 - 64) 64 (.gl (2 ^ 64 - 64)) ∧
    Reach sCl .cl (3 * 2 ^ 21) 16 (.sp 3 0) ∧ Room t0 1 ∧ StoresClear t0 ∧ t0.me.dbg.early = false ∧ t0.me.frames = [] ∧ StoreRoom t0 ∧
    GateRoom t0 (spieces (.gl 0) (natBytes 8 0)) ∧ Room sGate 0 ∧ ¬ GateRoom sGate (spieces (.gl 0) (natBytes 8 0)) := by
  refine ⟨?_, ?_, ?_, by decide +kernel⟩ <;> (simp only [Reach]; decide +kernel)
theorem witness_Loads : Room (sT d1) 1 ∧ StoresClear (sT d1) ∧ (sT d1).me.dbg.early = false ∧
    (let i := ((sT d1).me.qreg 1).toNat; qKind i = 1 ∧ qEs i = tyEs .f32 ∧ qAs i < 3 ∧ ∃ ls, bytePlaces (sT d1) i [0, 1, 2, 3] = .ok ls) ∧
    (let i := ((sT d1).me.qreg 2).toNat; qKind i = 2 ∧ qHandle i < (sT d1).me.ctl.ttcount ∧ (sT d1).myDesc 0 (qHandle i) = some d1 ∧ descOk d1 = true ∧
      Ty.f32 = dTy d1 ∧ qEs i = tyEs .f32 ∧ ∃ ls, tensorPlaces d1 i (fun _ => false) [0, 1, 2, 3] = .ok ls) ∧
    (∃ k, cursorOf (cur 64 8) .f32 = .ok k) ∧ qAs (cur 64 8) < 3 ∧ (∃ ls, blockPlaces (tq (cur 64 8) 0) 0 [(0, 16), (16, 1)] = .ok ls) ∧
    (∃ vs, blockPlaces (tq (cur 64 8) 0) 0 [(17, 15)] = .ok vs) := by
  and_intros <;> first | decide +kernel | exact ok_of _ (by decide +kernel)
theorem witness_Stores : StoreRoom (sT dA 1) ∧ Room (sT dA 1) 1 ∧ zeroStride f4 = false ∧ zeroStride t4 = false ∧ descOk dA = true ∧ Ty.f32 = dTy dA ∧
    (∃ e ∈ [0, 1, 2, 3], patZero dA t4 e = true ∧ isZeroElem .f32 (laneOf ((sT dA 1).me.vreg 1) 32 e) = false) ∧
    (∀ e ∈ [0, 1, 2, 3], patZero dA t4 e = true ∨ (patTensor dA t4 e).isSome = true) ∧
    (∃ ls, tensorPlaces dA t4 (fun e => !isZeroElem .f32 (laneOf ((sT dA 0).me.vreg 1) 32 e)) [0, 1, 2, 3] = .ok ls) ∧
    (match cursorOf (cur 16 8) .f32 with | .ok k => decide (qLim (cur 16 8) < 16 + k.mb + k.v) | .error _ => false) = true ∧
    (match cursorOf (cur 64 8) .f32 with | .ok k => decide (16 + k.mb + k.v + 8 * k.w ≤ qLim (cur 64 8)) && decide (k.v = 0) | .error _ => false) = true ∧
    (∃ ls, blockPlaces (tq (cur 64 8) 0) 0 [(0, 16), (17, 15)] = .ok ls) := by
  and_intros <;> first | decide +kernel | exact ok_of _ (by decide +kernel)
theorem witness_FencesStashesLeases : Room (tg 0 128 128) 0 ∧ StoresClear (tg 0 128 128) ∧ (let t := (tg 0 128 128).me; (t.sreg 1).toNat % 128 = 0 ∧
      (t.sreg 2).toNat % 128 = 0 ∧ 1 ≤ (t.sreg 3).toNat ∧ (t.sreg 3).toNat ≤ 2 ^ 20 ∧ canonical (t.sreg 2).toNat = true) ∧
    (((tg 0 128 128).core 0).stash = []) ∧ (tget {} ((t0.modCore 0 (fun k => { k with stash := [(0, { mapped := true })] })).core 0).stash 0 : Stash).mapped = true ∧
    (let l : Lease := { part := 0, lid := 0, gang := 0, va := 0, len := 128, expiry := 9, cls := 0, sc := .core }
     tget none ({ tg 255 0 0 with leases := [(255, some l)] } : State).leases (dieOf 0 * 256 + ((tg 255 0 0).me.sreg 1).toNat) = some l ∧ l.part = t0.me.part) ∧
    ((tg 256 0 0).me.sreg 1).toNat = 256 ∧ (tg 256 0 0).leases = [] := by decide +kernel
/-- A strand with one load under way. -/
def sLoad (k : LoadKind) (loc : Loc) : State :=
  sRes { rDone with arrived := false, load := some { kind := k, pieces := [{ loc := loc, n := 8 }], cls := 0, sc := .core } }
theorem witness_ResultArrival : (∀ s ∈ [sLoad (.scalar 1 0 false) (.sp 0 (0x17FFF8)), sLoad (.atom 1 0 .add false 1 0) (.sp 0 0), sLoad (.scalar 1 0 true) (.gl 0)],
      let t := s.strand 0 0; t.stores = [] ∧ t.dbg.mixchk = false ∧ ∃ r ∈ t.plat.results[0]?, r.arrived = false ∧ r.faults = [] ∧ r.got = [] ∧ r.gotT = [] ∧ (∀ b ∈ t.open_, r.seq ≤ b.seq) ∧ s.mixing = false ∧
        ∃ l ∈ r.load, s.mayPerform 0 0 t (r.event l) = true) ∧ (t0.core 0).spPoison 0 8 = false ∧
    ∃ u bs ts, (sLoad (.scalar 1 0 true) (.gl 0)).glRead ((sLoad (.scalar 1 0 true) (.gl 0)).mWho 0 0) 0 8 0 .r = .ok u bs false ts :=
  ⟨by decide +kernel, by decide +kernel, got_ok _ (by decide +kernel)⟩
/-- A strand with one store under way. -/
def sStore (loc : Loc) : State := tm (fun t => { t with stores := [{ seq := 0, pos := 0, pieces := [{ loc := loc, bytes := natBytes 8 7 }], cls := 0, sc := .core, pc := 0 }] })
theorem witness_StoresPerformed : (∀ s ∈ [sStore (.sp 0 (0x17FFF8)), sStore (.gl 120)], let t := s.strand 0 0; t.dbg.mixchk = false ∧
      ∃ r ∈ t.stores[0]?, r.depth = 0 ∧ r.act = none ∧ r.done = [] ∧ (∀ b ∈ t.open_, r.seq ≤ b.seq) ∧ r.cl = false ∧ s.mixing = false ∧ s.mayPerform 0 0 t r.event = true) ∧
    (let s := sStore (.gl 120)
     (s.core 0).window 0 120 = none ∧ s.translate 0 0 120 .w true = (s, .ok (.hbm 120 0 2 0 false)) ∧ 120 % 128 + 8 ≤ 128 ∧ tget none s.l2 0 = none ∧ (s.remap 120).maps = [] ∧ s.lapse 0 = s ∧
      ∀ l, (({ s with l2 := tput none s.l2 0 (some l) } : State).blocks l.at_).length ≤ 16) := by
  refine ⟨by decide +kernel, by decide +kernel, by decide +kernel, by decide +kernel, by decide +kernel, by decide +kernel, by decide +kernel, ?_⟩
  have h : (sStore (.gl 120)).l2 = [] := by decide +kernel
  intro l; simp [h, State.blocks, tput, tins]; decide +kernel

/-! Vector slots and engines. -/

/-- A strand whose tile 1 is poisoned. -/
def sPois : State := t0.modCore 0 (fun k => { k with tPoison := [(1, true)] })
theorem witness_VectorOperations : Room t0 2 ∧ (0 : Nat) < 1 ∧ (Ty.e4m3.isNarrow && Ty.f32.isF3) = true ∧ (Ty.f32.isNarrow && Ty.f32.isF3) = false ∧
    Ty.s8.isInt = true ∧ Ty.f16.isInt = false ∧ VCC.lt ≠ .un ∧ VCC.lt ≠ .ord ∧ tget false (t0.core t0.cur).tPoison 1 = false ∧ Room sPois 1 ∧
    tget false (sPois.core sPois.cur).tPoison 1 = true ∧ sPois.me.handler = none := by decide +kernel
/-- A pattern image: base, kind, space, width, and each dimension's extent and stride. -/
def im (base k as_ es : Nat) (ds : List (Nat × Nat)) (h : Nat := 0) : Nat :=
  base * 2 ^ 448 + 2 ^ 404 + k * 2 ^ 382 + as_ * 2 ^ 379 + ds.length * 2 ^ 376 + es * 2 ^ 373 + h * 2 ^ 361 +
    ((List.range ds.length).map (fun i => ((ds.getD i (1, 0)).1 - 1) * 2 ^ (64 * i + 40) + (ds.getD i (1, 0)).2 * 2 ^ (64 * i))).sum
/-- A 4 by 4 FP32 descriptor without symmetry. -/
def dM : Nat := 1 + 16 + 2 * 512 + 3 * 2 ^ 240 + 3 * 2 ^ 264 + 2 ^ 448
/-- Patterns in q1 on, descriptor 1, channel 0, and more. -/
def sQ (qs : List Nat) (ch : Nat := 0) (f : Strand → Strand := id) : State :=
  let q := (List.range qs.length).map (fun i => (i + 1, BitVec.ofNat 512 (qs.getD i 0)))
  ((tm (fun t => f { t with ctl := { t.ctl with ttcount := 2 }, regs := { t.regs with q := q } })).modLaunch 0 0
    (fun l => { l with chtab := [(0, BitVec.ofNat 512 ch)] })).modCore 0
    (fun k => { k with descs := [0, 1, 2].map (fun u => ({ unit := u, part := 0, tt := 0, h := 1, img := BitVec.ofNat 512 dM } : DescEntry)) })
/-- A computation answers the error `v` where the decidable check says so. -/
theorem err_of {α : Type} (x : Except Exc α) (v : Exc)
    (h : (match x with | .error e => decide (e = v) | .ok _ => false) = true) : x = .error v := by
  revert h; split <;> simp_all

/-- Attributes: no tokens; kp 1. -/
def e0 : EAttr := ⟨0, 0, 0, 0, 0, .system⟩
def e1 : EAttr := ⟨1, 0, 0, 0, 0, .system⟩
def a4 : Nat := im 0 1 0 3 [(16, 4), (4, 64)]
def b4 : Nat := im 1024 1 0 3 [(16, 4), (4, 64)]
theorem witness_ShunterIssue : Room (sQ [a4, b4]) 0 ∧ (sQ [a4, b4]).me.frames = [] ∧ (sQ [a4, b4]).reused e1 = false ∧
    (sQ [a4, b4] 0 (·.setTok 1 .armed)).reused e1 = true ∧ (∀ i ∈ ([.cpy 1 2 e1, .cpyL 1 2 e1, .cpyRed .adds .f32 1 2 e1, .trig 0 0 1 2 e1,
      .gath false .f32 1 2 3 e1, .scat false false .f32 1 2 3 e1] : List Instr), (slotOp i).gate (sQ [a4, b4]) = .go ∧ (slotOp i).gate t0 = .go) ∧
    (∃ p, copyPlan (sQ [a4, b4]) a4 b4 e1 false none = .ok p) ∧ (∃ p, copyPlan (sQ [a4, b4]) (im 0 1 1 3 [(16, 4), (4, 64)]) b4 e1 true none = .ok p) ∧
    (∃ p, copyPlan (sQ [a4, b4]) a4 b4 e1 false (some (.adds, .f32)) = .ok p) ∧ copyPlan t0 0 b4 e1 false none = .error { cause := .reservedField, slot := 5 } ∧
    (∃ p, gatherPlan (sQ [a4, b4]) .f32 a4 b4 (im 4096 1 0 3 [(4, 4)]) false = .ok p) ∧
    (∃ p, gatherPlan (sQ [a4, b4]) .f32 a4 b4 (im 4096 1 0 3 [(4, 4)]) true = .ok p) ∧
    gatherPlan t0 .f32 0 b4 0 false = .error { cause := .reservedField, slot := 5 } := by
  and_intros <;> first | decide +kernel | exact ok_of _ (by decide +kernel) | exact err_of _ _ (by decide +kernel)
/-- Operands of the matrix engine: plain, gathered by q2, a window with its block in q2, a product with its tensor in q2. -/
def sMm : State := sQ [a4, im 2048 1 0 3 [(4, 4)], b4, im 4096 1 0 3 [(16, 4)]]
def sMw : State := sQ [im 0 1 0 3 [(4, 4), (4, 16), (1, 64), (1, 64)], im 2048 1 0 0 [(64, 1)], b4, im 4096 1 0 3 [(16, 4)]]
def sTg : State := sQ [a4, im 0 2 0 3 [(16, 1)] 1, b4, im 4096 1 0 3 [(16, 4)]]
theorem witness_KilnIssue : Room sMm 0 ∧ Room sMw 0 ∧ Room sTg 0 ∧ sMm.reused e1 = false ∧ (sQ [] 0 (·.setTok 1 .armed)).reused e1 = true ∧
    (∀ i ∈ ([.mma false 1 1 0 1 3 e1, .mmaG false false 1 1 0 1 3 e1, .mmaW false 1 1 0 1 3 e1, .tgemm 1 1 0 1 3 e1,
      .drain false false 1 1 1 0 3 e1, .tcon false 1 1 0 2 2 e1, .accZero 0 e1] : List Instr), ∀ s ∈ [t0, sMm, sMw, sTg], (slotOp i).gate s = .go) ∧
    mmaCheck sMm .plain 1 1 1 3 = none ∧ mmaCheck sMm .gathered 1 1 1 3 = none ∧ mmaCheck sMw .window 1 1 1 3 = none ∧
    (∀ f ∈ [MmaForm.plain, .gathered, .window], mmaCheck t0 f 1 1 1 3 = some { cause := .reservedField, slot := 5 }) ∧
    (∃ d, tgemmCheck sTg 1 1 1 3 = .ok d) ∧ tgemmCheck t0 1 1 1 3 = .error { cause := .reservedField, slot := 5 } ∧
    (∃ d, drainCheck sMm false 1 1 1 3 = .ok d) ∧ drainCheck t0 false 1 1 1 3 = .error { cause := .reservedField, slot := 5 } ∧
    (∃ d, tconCheck sTg 1 1 2 2 = .ok d) ∧ tconCheck t0 1 1 1 3 = .error { cause := .reservedField, slot := 5 } := by
  and_intros <;> first | decide +kernel | exact ok_of _ (by decide +kernel) | exact err_of _ _ (by decide +kernel)
/-- A channel entry to oneself: a mode, a payload of 256 bytes, depth 2, staging at 8192. -/
def ch0 (mode : Nat) : Nat := (ropCode .adds).toNat * 2 ^ 308 + 1 + 8192 * 2 ^ 384 + mode * 2 ^ 340 + 2 ^ 333 + 255 * 2 ^ 317 + 1 * 2 ^ 312
theorem witness_ChannelIssue : Room (sQ [a4] (ch0 0)) 0 ∧ (∀ i ∈ ([.chSend 0 1 e1, .chRed .adds .f32 0 1 e1, .chFwd 0 1 e1, .chRecv 0 1 e1, .chStat 0 1 e1,
      .chRecvRel 0 e1] : List Instr), ∀ m ∈ [0, 1, 2], (slotOp i).gate (sQ [a4] (ch0 m)) = .go) ∧
    (∃ d, chPlan (sQ [a4] (ch0 0)) (.chSend 0) 1 e1 = .ok d) ∧ (∃ d, chPlan (sQ [a4] (ch0 1)) (.chRed .adds .f32 0) 1 e1 = .ok d) ∧
    (∃ d, chPlan (sQ [a4] (ch0 2)) (.chFwd 0) 1 e1 = .ok d) ∧ (∃ d, chPlan (sQ [a4] (ch0 0)) (.chRecv 0 false) 1 e1 = .ok d) ∧
    (∃ d, chPlan (sQ [im 0 1 0 4 [(4, 8)]] (ch0 0)) (.chStat 0) 1 e1 = .ok d) ∧ (∃ d, chPlan (sQ [] (ch0 0)) (.chRecv 0 true) 0 e1 = .ok d) ∧
    chPlan (sQ [a4]) (.chSend 0) 1 e1 = .error { cause := .reservedField, slot := 5 } := by
  and_intros <;> first | decide +kernel | exact ok_of _ (by decide +kernel) | exact err_of _ _ (by decide +kernel)

/-! Events of the engines. -/

def cm (k : CmdKind) : Cmd := { kind := k, part := 0, lid := 0, gang := 0, ctx := 0, sid := 0, fmt := 1, rseed := 0, kp := 1, cls := 0, sc := .core, seq := 0 }
/-- Core 0 with queues, and token 1 armed by the command of order count 0. -/
def sC (f : Core → Core) : State := (tm (fun t => t.setTok 1 .armed)).modCore 0 f
def cpy1 : Cmd := { cm (.copy false) with pd := BitVec.ofNat 512 (im 64 1 0 1 [(1, 1)]), ps := BitVec.ofNat 512 (im 0 1 0 1 [(1, 1)]) }
theorem witness_EngineEvents : (let s := sC (fun k => { k with copies := [cpy1] })
      (s.core 0).copies.find? (fun a => s.cmdReady 0 a && (a.busy || !(s.segHeld a.part a.dd || s.segHeld a.part a.ds))) = some cpy1 ∧
      ((s.core 0).copies.filter (fun a => a.phase == .active && a.parked.isNone)).length < 4 ∧ (s.strand 0 0).tok 1 = .armed ∧ tget 0 (s.strand 0 0).kseq 1 = 0) ∧
    4 ≤ (((sC (fun k => { k with copies := List.replicate 4 { cpy1 with phase := .active } })).core 0).copies.filter
      (fun a => a.phase == .active && a.parked.isNone)).length ∧
    (let m := { cpy1 with phase := .active }; let s := sC (fun k => { k with copies := [m] }); (s.core 0).stopped = false ∧ (s.core 0).shunter[0]? = some m ∧
      m.parked = none ∧ m.left = [] ∧ m.taken = 0 ∧ m.got = [] ∧ m.dd = none ∧ m.ds = none ∧ qCount m.ps.toNat = 1 ∧ qCount m.pd.toNat = 1 ∧ qSize m.ps.toNat = 1 ∧ qEs m.ps.toNat ≠ 0 ∧
      qEs m.pd.toNat = qEs m.ps.toNat ∧ qAs m.ps.toNat = 0 ∧ qAs m.pd.toNat = 0 ∧ m.cursor = 0 ∧ (patByte m.ps.toNat 0).isSome = true ∧
      (patByte m.pd.toNat 0).isSome = true ∧ (s.core 0).spPoison 0 1 = false) ∧
    (let m := { cpy1 with phase := .ended }; m.ended = false ∧ (let k := (sC (fun k => { k with copies := [m] })).core 0; k.shunter[0]? = some m ∧ ∀ a ∈ k.shunter, a.same m = true → a.wrote = false)) ∧
    (let m := cm (.trig 0 0); let s := sC (fun k => { k with trigs := [m] }); (s.core 0).trigs[0]? = some m ∧
      (s.cnt 0 0 0 0 + 2 ^ 32 - 0) % 2 ^ 32 < 2 ^ 31 ∧ s.cmdReady 0 m = true ∧ (∀ o ∈ s.trigsOn 0 0 0 0, m.born ≤ o.born) ∧
      (m.busy || !(s.segHeld m.part m.dd || s.segHeld m.part m.ds)) = true) ∧
    (let m := cm (.accZero 2); let s := sC (fun k => { k with kiln := [m] }); (s.core 0).stopped = false ∧ m.left = [] ∧ (s.core 0).kiln = m :: [] ∧ s.cmdReady 0 m = true) ∧
    (let m := { cm (.accZero 2) with phase := .ended }; m.left = [] ∧ (let k := (sC (fun k => { k with kiln := [m] })).core 0; k.kiln = m :: [] ∧ ∀ a ∈ k.kiln, a.same m = true → a.wrote = false)) ∧
    (let m := { cm (.scat false false .f32) with phase := .active, rows := [0] }; let s := sC (fun k => { k with gath := [m] })
      (s.core 0).stopped = false ∧ (s.core 0).gath = m :: [] ∧ m.parked = none ∧ m.left = [] ∧ m.ended = false ∧ lget 0 m.rows m.cursor = 0) := by decide +kernel
/-- The matrix engine at the first K step of a command that was issued. -/
def sK (i : Instr) (s : State) : State := match exec i s with
  | .next u => u.modCore 0 (fun k => { k with kiln := k.kiln.map (fun m => { m with phase := .active }) })
  | _ => s
/-- The hypotheses of a K step over FP32: `win` for MMA.W, gathered rows for MMA.G. -/
def kOk (s : State) (M : Cmd → Nat) (a : Core → Cmd → Nat → Nat → KVal) : Bool :=
  let k := s.core 0
  !k.stopped && match k.kiln with
  | [m] => m.phase == .active && m.parked == none && m.left == [] && pairRow 1 1 == some (8, .f32) && decide (M m ≤ 128) && decide (qDim m.pd.toNat 1 ≤ 128) &&
      (List.range (8 * M m)).all (fun r => !(a k m (r / 8) (r % 8)).isBad) && (List.range (8 * qDim m.pd.toNat 1)).all (fun l =>
        !(k.operand 0 m.pd.toNat (codeTy 1) m.fmt none (qDim m.pd.toNat 0) (l / 8) (l % 8)).isBad) && decide (0 < M m) && !fmtBsa m.fmt && !fmtBsb m.fmt
  | _ => false
theorem witness_KSteps : kOk (sK (.mma false 1 1 0 1 3 e1) sMm) (fun m => qDim m.ps.toNat 1)
      (fun k m r j => k.operand 0 m.ps.toNat (codeTy 1) m.fmt none (qDim m.pd.toNat 0) r j) = true ∧
    kOk ((sK (.mmaG false false 1 1 0 1 3 e1) sMm).modCore 0 (fun k => { k with kiln := k.kiln.map (fun m => { m with rows := [1, 0, 4, 1] }) })) (fun m => m.rows.length) (fun k m r j => if lget 0 m.rows r = 0 then .zrow
      else k.operand 0 m.ps.toNat (codeTy 1) m.fmt none (qDim m.pd.toNat 0) (lget 0 m.rows r - 1) j) = true ∧
    kOk (sK (.mmaW false 1 1 0 1 3 e1) sMw) (fun m => (winOf m.aux).m)
      (fun k m r j => k.winVal 0 m.ps.toNat (codeTy 1) m.fmt (winOf m.aux) ((m.ds.map (fun d => dPad d.toNat)).getD 0) r j) = true := by decide +kernel
/-- A DRAIN of one element of tile 0, and rows of one element. -/
def drain1 : Cmd := { cm (.drain true false 1 1 0) with phase := .active, pd := BitVec.ofNat 512 (im 64 1 0 3 [(1, 4), (1, 4)]) }
def row1 (k : CmdKind) (n : Nat) : Cmd :=
  { cm k with phase := .active, rows := [n], ps := BitVec.ofNat 512 (im 0 1 0 3 [(1, 4), (2, 4)]), pd := BitVec.ofNat 512 (im 64 1 0 3 [(1, 4), (2, 4)]) }
theorem witness_DrainedElement : (let q := drain1.pd.toNat; let w := drain1.aux; let s := sC (fun k => { k with kiln := [drain1] })
      (s.core 0).stopped = false ∧ (s.core 0).kiln = [drain1] ∧ drain1.parked = none ∧ drain1.left = [] ∧ drain1.dd = none ∧ qDim q 0 = 1 ∧ qDim q 1 = 1 ∧ qAs q = 0 ∧
      qEs q ≠ 0 ∧ (patByte q 0).map (·.1) = some 64 ∧ 64 + qSize q ≤ Config.spBytes ∧ gRes w = false ∧ bit w 341 = false ∧ bit w 343 = false ∧ gAct w = 0 ∧
      codeTy 1 ≠ .s32 ∧ tget false (s.core 0).tPoison 0 = false) := by decide +kernel
theorem witness_MovedRows : ∀ m ∈ [row1 (.gath false .f32) 0, row1 (.gath false .f32) 2, row1 (.scat false false .f32) 2],
      let src := m.ps.toNat; let dst := m.pd.toNat; let n := lget 0 m.rows m.cursor; let s := sC (fun k => { k with gath := [m] })
      (s.core 0).stopped = false ∧ (s.core 0).gath = [m] ∧ m.parked = none ∧ m.left = [] ∧ m.ended = false ∧ m.taken = 0 ∧ m.got = [] ∧ m.dd = none ∧ m.ds = none ∧ m.down = false ∧ qDim dst 0 = 1 ∧ qAs src = 0 ∧
      qAs dst = 0 ∧ qEs src ≠ 0 ∧ qEs dst = qEs src ∧ qSize dst = qSize src ∧ (patByte dst m.cursor).map (·.1) = some 64 ∧ (patByte dst 1).map (·.1) = some 68 ∧
      (patByte src (n - 1)).isSome = true ∧ (s.core 0).spPoison 4 (qSize src) = false := by decide +kernel
/-- A flight to channel 0 of gang 0, and the gang's endpoint. -/
def fl0 : Flight := { part := 0, lid := 0, gang := 0, ch := 0, idx := 0, bytes := (natBytes 256 7).map (fun b => (b, false)) }
def sF (p : Endpoint) (f : Core → Core := id) : State := ({ ((sQ [a4] (ch0 0)).modEp 0 0 0 0 (fun _ => p)) with flights := [fl0] } : State).modCore 0 f
theorem witness_ChannelEvents : (∀ s ∈ [sF {}, sF { full := [0] }], s.flights[0]? = some fl0) ∧ fl0.out = false ∧ fl0.fault = none ∧ fl0.bad = false ∧ fl0.counts = [] ∧ fl0.staged = 0 ∧
    (let s := sF {}; let e := s.chan 0 0 0; chMode e = 0 ∧ chSas e = false ∧ fl0.idx % 2 ^ 32 = (s.ep 0 0 0 0).cnt ∧
      (s.ep 0 0 0 0).full.contains (fl0.idx % chDepth e) = false) ∧ (sF {}).gangAt 0 0 0 = .here 0 ∧ fl0.idx % 2 ^ 32 = 0 ∧
    ((sF { full := [0] }).ep 0 0 0 0).full.contains (fl0.idx % chDepth ((sF {}).chan 0 0 0)) = true ∧
    (let m := cm (.chRecv 0 false); let s := sF { full := [0], cnt := 1 } (fun k => { k with chans := [m] }); (s.core 0).stopped = false ∧
      (s.core 0).chans[0]? = some m ∧ m.parked = none ∧ m.failed = false ∧ m.waits = [] ∧ s.afterDone 0 m = true ∧ s.overtaken 0 none = false ∧ (s.core 0).chBlocked 0 m = false ∧
      (s.ep 0 0 0 0).tseq ≠ (s.ep 0 0 0 0).cnt ∧ (s.ep 0 0 0 0).full.contains 0 = true ∧ (s.ep 0 0 0 0).fwding.contains 0 = false ∧ ∀ e ∈ s.cores, ∀ a ∈ e.2.chans, a.sid = m.sid ∨ a.depth = 0) ∧
    (let m := { cm (.chRecv 0 true) with phase := .active, slot := some 0 }; ((sF { full := [0] } (fun k => { k with chans := [m] })).core 0).chans[0]? = some m) ∧
    (let m := { cm (.chRecv 0 true) with phase := .ended, slot := some 0 }; let s := sF { full := [0], cnt := 1 } (fun k => { k with chans := [m] })
      (s.core 0).chans[0]? = some m ∧ m.err = none ∧ m.sub ≠ 9 ∧ m.depth = 0 ∧ m.aux = (s.ep 0 0 0 0).rseq ∧
        (s.ep 0 0 0 0).full.contains 0 = true) := by decide +kernel

/-! Events of the port, the fault unit, memory and reductions. -/

/-- Two strands on core 0, the second ready to issue; a descriptor wanted. -/
def sTwo : State := (tm (fun t => { t with want := some (0, 1) })).modCore 0 (fun k => { k with strands := k.strands ++ [(1, { resident := true })] })
/-- The policy of partition 0 opens DBG. -/
def sDbg : State := (tm (fun t => { t with stopped := true })).modPart 0 (fun q => { q with polOpen := 1 })
theorem witness_PortEvents : (sTwo.core 0).active = some 0 ∧ sTwo.nextReady 0 0 = some 1 ∧ sTwo.mayLeave 0 0 = false ∧
    (let s := sTwo.modStrand 0 0 (fun t => { t with post := 2 }); (s.core 0).active = some 0 ∧ s.nextReady 0 0 = some 1 ∧ s.mayLeave 0 0 = true) ∧ (t0.core 0).active = some 0 ∧ t0.nextReady 0 0 = none ∧
    sTwo.wants 0 0 = some (0, 1) ∧ (sTwo.strand 0 0).fault = none ∧ (sTwo.strand 0 0).dbg.mixchk = false ∧ sTwo.mixing = false ∧ t0.mayLeave 0 0 = false ∧ (t0.strand 0 0).resident = true ∧ (t0.strand 0 0).exited = false ∧ (t0.strand 0 0).idle = 0 ∧
    (match t0.fetch 0 0 with | .bundle .. => true | _ => false) = true ∧ t0.dbgOpen 0 = false ∧ sDbg.dbgOpen 0 = true ∧ (sDbg.strand 0 0).stopped = true ∧
    (sDbg.strand 0 0).resident = true ∧ ∃ u bs ts, sTwo.glRead (sTwo.whoOf 0 0 0) 64 64 (sTwo.strand 0 0).pc = .ok u bs false ts := by
  and_intros <;> first | decide +kernel | exact got_ok _ (by decide +kernel)
def rec0 : FaultRec := { seq := 5, va := 0, kind := 0, rwx := 1, level := 0, agent := 1, core := 0, strand := 0, gidx := 0, cls := 0, sc := .core, pc := 0, handle := 0, cursor := 0, time := 0 }
def sFu (f : FaultUnit) : State := { t0.modPart 0 (fun q => { q with fu := f }) with hk := { t0.hk with ready := 2 ^ 26 - 1 } }
theorem witness_FaultRing : ((sFu {}).part 0).fu.heldQ = [] ∧ (let f := ((sFu { base := 2 ^ 18, heldQ := [rec0], head := 4095 }).part 0).fu
      f.heldQ = [rec0] ∧ f.base ≠ 0 ∧ f.head - f.tail < 4096 ∧ f.head ≠ f.tail) ∧ (sFu {}).paUp (2 ^ 18 + 64 * (4095 % 4096)) 64 = true ∧ (let f := ((sFu { head := 4, tail := 2 }).part 0).fu
      f.heldQ = [] ∧ f.tail ≤ (4 : Word).toNat ∧ (4 : Word).toNat ≤ f.head ∧ f.head < (5 : Word).toNat) ∧
    (let f := ((sFu { recs := [rec0] }).part 0).fu; f.recs.find? (fun r => r.seq == 5) = some rec0 ∧ f.recs.find? (fun r => r.seq == 6) = none ∧ f.waiting = []) ∧
    (t0.strand 0 0).part = 0 := by decide +kernel
/-- A sector of a copy stands half written. -/
def sMid : State := (sFu { atsReq := [(4, 2)] }).modCore 0 (fun k => { k with copies := [{ cpy1 with phase := .active, taken := 1 }] })
theorem witness_Translations : (t0.part 0).fu.tlbReq = [] ∧ (t0.part 0).fu.atsReq = [] ∧ sMid.midSector 0 = true ∧
    (let s := sFu { atsReq := [(4, 2)] }; (s.part 0).fu.atsReq ≠ [] ∧ s.midSector 0 = false) ∧ ((sFu { tlbReq := [(0, 2)] }).part 0).fu.tlbReq = [(0, 2)] ∧ (2 : Word).getLsbD 0 = false ∧
    (let v : Word := 3 * 2 ^ 16 + 1; v.getLsbD 0 = true ∧ pageOf v.toNat = 3 ∧ (let f := ((sFu { floors := [(3, 9)] }).part 0).fu
      f.floors.find? (fun e => e.1 == 3 && decide (t0.time < e.2)) = some (3, 9) ∧ f.floors[0]? = some (3, 9) ∧ t0.time < 9) ∧
      (∃ l ∈ ((sFu { locks := [(3, true)] }).part 0).fu.locks, l.1 = 3) ∧
      (∃ r ∈ ((sFu { recs := [{ rec0 with kind := 4, va := v.toNat }] }).part 0).fu.recs, r.kind = 4 ∧ r.served = false ∧ pageOf r.va = 3) ∧
      (let f := ((sFu { locks := List.replicate 256 (4, true) }).part 0).fu; (∀ l ∈ f.locks, l.1 ≠ 3) ∧ 256 ≤ f.locks.length) ∧
      (let f := (t0.part 0).fu; f.floors.find? (fun e => e.1 == 3 && decide (t0.time < e.2)) = none ∧ f.locks = [] ∧
        (f.floors.filter (fun e => decide (t0.time < e.2))).length + f.floorDue + 1 ≤ 1024 ∧ f.recs = [] ∧ f.heldQ = [] ∧ f.waiting = [] ∧ f.pri[0]? = none ∧
        f.floor ≠ 0)) ∧ (sFu { tlbReq := [(0, 2)] }).midSector 0 = false ∧ (sFu {}).leafUp 0 (3 * 65536) = true ∧
    (let f := ((sFu { floors := List.replicate 1024 (4, 9) }).part 0).fu; f.floor ≠ 0 ∧ 1024 < (f.floors.filter (fun e => decide (t0.time < e.2))).length + f.floorDue + 1) ∧
    (let f := ((sFu { floors := [(3, 0)], pri := [7] }).part 0).fu; f.floors[0]? = some (3, 0) ∧ f.waiting = [] ∧ 0 ≤ t0.time ∧ f.pri[0]? = some 7) := by decide +kernel
/-- Page tables of partition 0 at 0x200000: VA page 0 is frame 0; a command ring at 0x204000; a code segment at VA 0. -/
def sPt : State :=
  let w (a v : Nat) (s : State) : State := s.hbmWrite a (natBytes 8 v)
  let s := w 0x203000 0x27F (w 0x202000 0x203001 (w 0x201000 0x202001 (w 0x200000 0x201001 t0)))
  let h := 0x39464E53 + 2 ^ 32 + Config.stepping * 2 ^ 48 + 2 ^ 64 + 2 ^ 96 + 128 * 2 ^ 128 + 192 * 2 ^ 160 + 256 * 2 ^ 256
  let s := (s.hbmWrite 0 (natBytes 64 h)).hbmWrite 128 [1]
  let s : State := { s with hk := { s.hk with ready := 2 ^ 26 - 1 }, pmap := [(0, 64)] }
  s.modPart 0 (fun q => { q with fu := { q.fu with ptbase := 0x200000 }, clusters := 1 })
/-- A pool whose entry 1 has errors in its words, and its source at VA 64 poisoned. -/
def sSoft (n : Nat) : State :=
  let s := { sPt with lines := [(1, { slot := some (0, sPt.gen 0), poison := true })] }
  s.modCore 0 (fun k => { k with poolN := 2, pool := [(1, BitVec.ofNat 512 (pat 0 1 1 0))], soft := [(poolKey 1, n)] })
/-- Who reads the source of a pattern pool. -/
def whoPool (s : State) : Who := { part := s.me.part, slot := s.me.part, core := s.cur, agent := 1, node := s.node, own := false }
theorem got_bad (g : Got) (h : (match g with | .ok _ _ b _ => b | _ => false) = true) : ∃ u bs ts, g = .ok u bs true ts := by
  revert h; split <;> simp_all
theorem witness_PatternSoft : (∀ n ∈ [8, 9], Room (sSoft n) 1 ∧ 1 < ((sSoft n).core (sSoft n).cur).poolN ∧ tget 0 ((sSoft n).core (sSoft n).cur).soft (poolKey 1) = n) ∧
    qAs (tget 0 ((sSoft 8).core 0).pool 1).toNat ≠ 3 ∧
    ∃ v bs ts, (sSoft 9).glRead (whoPool (sSoft 9)) (((sSoft 9).core (sSoft 9).cur).poolSrc + 64 * 1) 64 (sSoft 9).me.bpos = .ok v bs true ts := by
  and_intros <;> first | decide +kernel | exact got_bad _ (by decide +kernel)
/-- The same with frames to hand out. -/
def sFrames : State := { sPt with hk := { sPt.hk with pools := [(0, { base := 2 ^ 22 + 4, tail := 2 })] } }
def mig0 (stage : Nat) : Migration := { vas := [0], pl := 0, pln := 0, stage := stage, frames := [(0, 65536)] }
def sMig (stage : Nat) : State := sFrames.modPart 0 (fun q => { q with fu := { q.fu with migs := [mig0 stage] } })
theorem witness_Migrations : (let q : Pool := tget {} sPt.hk.pools (poolOf 0 0); q.head = q.tail) ∧ sFrames.movable 0 0 = true ∧ sFrames.movable 0 65536 = false ∧
    (let q : Pool := tget {} sFrames.hk.pools (poolOf 0 0); q.head ≠ q.tail ∧ fld q.base 49 12 ≠ 0) ∧ (let f := (sFrames.part 0).fu
      f.locks.length < 256 ∧ (f.floors.filter (fun e => decide (sFrames.time < e.2))).length + f.floorDue + 1 ≤ 1024 ∧ f.floor ≠ 0 ∧ f.waiting = []) ∧
    sFrames.leafUp 0 0 = true ∧ (∀ k < 16, (sMig 0).stackUp k = true) ∧ (sMig 0).midSector 0 = false ∧ (sMig 1).leafUp 0 0 = true ∧
    (∀ i ∈ [0, 1], ((sMig i).part 0).fu.migs[0]? = some (mig0 i)) ∧ (sMig 0).busyCount 0 [0] = 0 ∧ (mig0 1).frameOf 0 = some 65536 ∧ (let f := ((sMig 1).part 0).fu; f.recs = [] ∧ f.heldQ = [] ∧ f.waiting = [] ∧ f.floors.length < 1024) ∧
    (sMig 1).leaf0 0 0 = some (0x203000, 0x27F) := by decide +kernel
/-- A line of slot 0 under the present key and under an old one; a lease; a window with a dirty line. -/
def sMem : State :=
  let l : Lease := { part := 0, lid := 0, gang := 0, va := 0, len := 128, expiry := 9, cls := 0, sc := .core }
  let s : State := { t0 with lines := [(1, { slot := some (0, 0) }), (2, { slot := some (0, 7) }), (3, { poison := true })], cy := 0,
                             leases := [(1, some l), (2, some { l with expiry := 0 })], l2 := [(5, some { owner := .stash 0 0 3 })],
                             windows := [(0, [{ node := 1, gid := 2, write := true, base := 0, len := 256 }])] }
  s.modCore 0 (fun k => { k with stash := [(0, { mapped := true, len := 512, lines := [(3, some (5, true))] })] })
theorem witness_MemoryEvents : (sMem.metaOf 3).poison = true ∧ (sMem.metaOf 1).poison = false ∧
    (sMem.metaOf 1).slot = some (0, sMem.gen 0) ∧ (sMem.metaOf 2).slot = some (0, 7) ∧ 7 ≠ sMem.gen 0 ∧
    ((tget none sMem.leases (0 * 256 + 1)).map (fun l => decide (sMem.time < l.expiry)) = some true) ∧
    ((tget none sMem.leases (0 * 256 + 2)).map (fun l => decide (l.expiry ≤ sMem.time)) = some true) ∧
    (let st : Stash := tget {} (sMem.core 0).stash 0; tget none st.lines 3 = some (5, true) ∧ (tget none sMem.l2 5).isSome = true ∧ tget none st.lines 4 = none) ∧
    hbmEnd < hbmEnd + 0 + [(0 : Byte)].length ∧ bit sMem.hk.ready 24 = false ∧ bit sPt.hk.ready 24 = true ∧ sPt.paUp 0 [(0 : Byte)].length = true ∧ 0 + [(0 : Byte)].length ≤ hbmEnd ∧ sMem.granted 2 2 0 0 (.read 8) = false ∧ sMem.granted 1 2 0 248 (.read 8) = true ∧
    sMem.granted 1 2 0 0 (.write [0]) = true ∧ sMem.granted 1 2 0 0 (.atom 8 .add false 1 0) = true ∧
    (∀ k ∈ [RemoteKind.read 8, .atom 8 .add false 1 0], ((sMem.remoteMix 1 0 k).homeRead (remoteWho 1 0 0) 0 8).2.2 = false) ∧
    sMem.grant 1 2 0 0 (.read 8) = some { node := 1, gid := 2, write := true, base := 0, len := 256 } ∧
    (∀ k ∈ [1, 2, 3], let b := tget 0 sMem.pmap (64 * k / 2 ^ 30); isHbm (64 * k) = true ∧ (home (64 * k / 128 * 128) (fld b 7 5) (fld b 3 0)).2.1 = 0) := by decide +kernel
/-- Groups of two members on this node: a step on the Pugmill path, and one on the switch path. -/
def gr (sw : Bool) (pugs : List (Nat × RedVal)) (wait : Bool) (at_ : Option Nat) : Group :=
  { gid := 1, lid := 0, ch := 0, members := [(0, 0, true), (0, 1, true)], tree := [9], att := [9], waitF := wait, removals := at_.toList.map (fun a => (a, some 5)),
    steps := [{ step := 4, sw := sw, pugs := pugs, subs := [{ rank := 0, bytes := [(1, false)] }, { rank := 1, bytes := [(2, false)] }] }] }
def sGr (k : Group) : State := t0.modPart 0 (fun q => { q with groups := [k] })
theorem witness_Reductions : (∀ k ∈ [gr false [] false none, gr false [(0, { ranks := [0] })] false none, gr true [] true none, gr true [] false (some 0)],
      ((sGr k).part 0).groups[0]? = some k ∧ (k.step 4).isSome = true ∧ (k.member 0).1 = (sGr k).node ∧ (k.member 1).1 = (sGr k).node ∧ (k.member 0).2.2 = true) ∧
    ((gr false [] false none).step 4).map (fun r => (r.sw, r.done.contains 0, r.pugs == [], (r.subs.find? (fun c => c.rank == 1)).isSome)) = some (false, false, true, true) ∧
    ((gr false [(0, { ranks := [0] })] false none).step 4).map (fun r => (r.pugs.find? (fun x => x.1 == 0)).map (fun x => (x.2.ranks.contains 1, x.2.ranks.length + 1))) =
      some (some (false, 2)) ∧
    ((gr true [] true none).step 4).map (fun r => (r.sw, r.resent, r.sws == [])) = some (true, false, true) ∧
    (let s := (sGr (gr false [] false none)).modEp 0 0 0 0 (fun p => { p with rseq := 4 }); let e := s.chan 0 0 0
     sub32 4 (s.ep 0 0 ((gr false [] false none).member 0).2.1 0).rseq < chDepth e ∧ s.pugCount (s.stackVa 0 (chSlot e (4 % chDepth e))) < 512 ∧
       ∀ r ∈ (gr false [] false none).steps, r.wait = []) ∧
    (let s : State := { sGr (gr true [] false (some 0)) with cy := 2500000 }; (gr true [] false (some 0)).removals = [(0, some 5)] ∧ 0 + 1000000 ≤ s.time) ∧ (t0.time < 0 + 1000000) ∧
    (∀ f ∈ [{ fl0 with remote := true }, { fl0 with remote := true, tries := 8 }, fl0], ({ t0 with flights := [f] } : State).flights[0]? = some f ∧ f.out = false) := by
  decide +kernel

/-! Signal boxes. -/

/-- A LAUNCH record: LID 7, code at VA 0, 384 bytes of spill area. -/
def r1 : Nat := 7 + 1 * 2 ^ 56 + 2 ^ 256 + 384 * 2 ^ (64 * 6 + 21)
/-- A ring with one record, and a buffer list of one entry at VA 0x400. -/
def sRing (r : Nat) (td : Tdisp) (f : Part → Part := id) : State :=
  let l (v : Nat) : Option L2Line := some { data := BitVec.ofNat 1024 v }
  let s : State := { sPt with l2 := [(8, l (128 + 2 ^ 63 + 4096 * 2 ^ 64)), (0x4080, l r), (0x4081, l (r / 2 ^ 1024))] }
  s.modPart 0 (fun q => f { q with tdisp := td, queues := [(0, { base := 0x204000, ctl := 65, tail := 1 })] })
/-- The state after the record was read, with the record. -/
def sGot (r : Nat) (td : Tdisp) (f : Part → Part := id) : State := (((sRing r td f).queueRec 0 0).getD (t0, 0)).1
theorem witness_QueueRecords : (sRing 0 .run).queueRec 0 1 = none ∧ recKind r1 = 1 ∧
    (∀ r ∈ [0, 3 * 2 ^ 56, 2 * 2 ^ 56, r1, r1 + 2 ^ 70, 2 * 2 ^ 56 + 0x400 * 2 ^ 576 + 1 * 2 ^ 640], ((sRing r .run).queueRec 0 0).map (·.2) = some r) ∧
    ((sRing r1 .unlocked).queueRec 0 0).map (·.2) = some r1 ∧
    (∃ l ∈ ((sRing (2 * 2 ^ 56) .run).part 0).launches, l.queue = 0 ∧ l.final = false) ∧ ((sGot r1 .unlocked).part 0).tdisp ≠ .run ∧
    ((sGot r1 .unlocked).part 0).records = [] ∧ (∀ o ∈ ((sGot r1 .unlocked).part 0).launches, o.lid = (launchOf r1 0).lid → o.final = true) ∧
    (∃ o ∈ ((sGot r1 .unlocked (fun q => { q with launches := [launchOf r1 0] })).part 0).launches, o.lid = (launchOf r1 0).lid ∧ o.final = false) ∧ ((sGot r1 .run).part 0).tdisp = .run := by decide +kernel
theorem witness_ExternalWrite : (let s := sGot (2 * 2 ^ 56 + 0x400 * 2 ^ 576 + 1 * 2 ^ 640) .run (fun q => { q with launches := [] })
     (s.part 0).launches = [] ∧ (match s.bufRead 0 0x400 1 with
       | .ok (w, es, _) => es == [(4096, 128, 4)] && (w.part 0).bufTable == [] | .error _ => false) = true) := by decide +kernel
theorem witness_LaunchRefused : (match (sGot (r1 + 2 ^ 70) .run).launchCheck 0 (r1 + 2 ^ 70) 0 with | .error (some c) => c != 1 | _ => false) = true := by decide +kernel
theorem witness_LaunchAccepted : (match (sGot r1 .run).launchCheck 0 r1 0 with | .ok _ => true | _ => false) = true := by decide +kernel
/-- The launch of that record, accepted. -/
def l1 : Launch := { launchOf r1 0 with codeLen := 1, starts := 1, dictOff := 192, dictN := 1 }
/-- Launches of partition 0, which has cluster 0 and no strand there. -/
def sLn (ls : List Launch) (f : Part → Part := id) : State :=
  ((sPt.modPart 0 (fun q => f { q with launches := ls })).modCluster 0 (fun k => { k with part := some 0 })).modCore 0 (fun _ => {})
theorem witness_GangsAndLaunches : t0.pick 0 = none ∧ (t0.part 0).indexOf 0 = some 0 ∧ (let s := sLn [l1]
      (s.part 0).indexOf 7 = some 0 ∧ s.pick 0 = some (.start 0) ∧ ((s.part 0).at_ 0).cor = false ∧ 0 < ((s.part 0).at_ 0).g ∧
      (((s.part 0).at_ 0).gang 0).phase = .waiting ∧ (s.placeUnit 0 ((s.part 0).at_ 0) (s.avail 0) s.used 0).any (fun u => u.1 == 0 && u.2.1 == [(0, [(0, 0)])] && !u.2.2) = true ∧
      (s.startUnits 0 0 [(0, [(0, [(0, 0)])], false)]).isSome = true ∧ (s.part 0).live.contains 7 = true ∧ (s.part 0).live.contains 8 = false ∧
      bit (s.part 0).clusters 0 = true) := by decide +kernel
theorem witness_LaunchEnds : t0.gangDone 0 0 0 = false ∧ (tm (fun t => { t with exited := true })).gangDone 0 0 0 = true ∧
    (let s := sLn [{ l1 with phase := .started, started := 1, ended := 1 }]; (s.part 0).records = [] ∧ (s.part 0).indexOf 7 = some 0 ∧ ((s.part 0).at_ 0).isOver = true) ∧
    (let s := sLn [{ l1 with lid := 6, phase := .refused, closed := true }, { l1 with deps := [(0, 3, 0)] }]; let l := (s.part 0).at_ 1
      (s.part 0).records = [] ∧ (s.part 0).indexOf 7 = some 1 ∧ l.isOver = false ∧ l.phase = .accepted ∧ l.closed = false ∧ l.abort = none ∧ l.started = 0 ∧
      ∃ d ∈ l.deps, (s.part 0).depLost d = true) := by decide +kernel
/-- A running launch of PRIO 2 on cluster 0, and one of PRIO 0 with PRE that waits. -/
def sPre (slots : Nat) : State :=
  let qs : Tbl Queue := [(0, { ctl := 513 }), (1, { ctl := 5 })]
  (sPt.modPart 0 (fun q => { q with launches := q.launches.map (fun l => { l with queue := 1 }) ++ [l1], saveSlots := slots, queues := qs })).modCluster 0
    (fun k => { k with part := some 0 })
/-- A saved set of that launch, with cluster 0 free. -/
def sv : SavedSet := { lid := 7, gangs := [0], cluster := 0, cores := [(0, { strands := [(0, { resident := true, lid := 7 })] })] }
def sSav : State := (sLn [{ l1 with phase := .started, started := 1, gangs := [(0, { phase := .saved })] }] (fun q => { q with saved := [sv] })).modCluster 0
  (fun k => { k with share := [(0, 1), (1, 1)] })
theorem witness_Sharing : t0.preWaits 0 = none ∧ (sPre 0).preWaits 0 = some (1, 0) ∧ (sPre 0).victim 0 1 0 = some 0 ∧ (sPre 0).victim 0 1 0 ≠ some 1 ∧
    (sPre 0).setOn 0 = some (0, 0, [0]) ∧ (sPre 0).canSave 0 = true ∧ ((sPre 0).part 0).freeSlots.length < ((sPre 0).setCores 0).length ∧
    ((sPre 0).part 0).deferred.contains (0, 1 * 2 ^ 20 + 0) = false ∧ (sPre 1).preWaits 0 = some (1, 0) ∧ (sPre 1).victim 0 1 0 = some 0 ∧ (sPre 1).canSave 0 = true ∧
    ((sPre 1).setCores 0).length ≤ ((sPre 1).part 0).freeSlots.length ∧ (∀ i ∈ ((sPre 1).part 0).freeSlots.take ((sPre 1).setCores 0).length,
      (sPre 1).unitUp (((sPre 1).part 0).saveBase / 2 ^ 22 + i) = true) ∧ sv.slots = [] ∧ t0.pick 0 ≠ some (.resume 0) ∧ sSav.pick 0 = some (.resume 0) ∧
    (sSav.part 0).saved[0]? = some sv ∧ sSav.placeSaved 0 (sSav.launch 0 7) sv = some (0, false) ∧
    ((sv.cores.map (fun k => 4 * 0 + k.1)).foldl (fun (r : Option State) c => r.bind (fun s => s.prepCore 0 (s.launch 0 7) c)) (some sSav)).isSome = true ∧
    (t0.cluster 0).share.length < 2 ∧ 2 ≤ (sSav.cluster 0).share.length ∧ (sSav.cluster 0).holder = none ∧
    (sSav.cluster 0).share.find? (fun e => sSav.hasWork e.1 0) = some (0, 1) ∧ clusterEmpty sSav.used 0 = true ∧
    bit (t0.modPart 0 (fun q => { q with placeCtl := 0 }) |>.part 0).placeCtl 0 = false ∧ bit (t0.part 0).placeCtl 0 = true ∧
    t0.time < (t0.part 0).placedAt + fld (t0.part 0).placeCtl 63 32 ∧
    (let s : State := { t0 with cy := 2500000 }; (s.part 0).placedAt + fld (s.part 0).placeCtl 63 32 ≤ s.time) := by decide +kernel

/-- LAUNCH records that fail at each check in turn: a reserved bit; no code; a channel table nowhere; a spill area that is too small; a buffer
list nowhere; an unknown dependence; one whose launch was refused. -/
def rBad : List (Nat × Nat) := [(r1 + 2 ^ 52, 1), (r1 + 2 ^ 70, 2), (r1 + 2 ^ 20 * 2 ^ 320, 3), (7 + 2 ^ 56 + 2 ^ 256 + 320 * 2 ^ 405, 4),
  (r1 + 2 ^ 20 * 2 ^ 576 + 2 ^ 640, 5), (r1 + 2 ^ 704 * (9 + 2 ^ 32), 6), (r1 + 2 ^ 704 * (6 + 3 * 2 ^ 32), 7)]
def gotBad (r : Nat) : State := sGot r .run (fun q => { q with launches := [{ launchOf r1 0 with lid := 6, phase := .refused, closed := true, final := true }] })
theorem witness_LaunchCodes : ∀ e ∈ rBad, (match (gotBad e.1).launchCheck 0 e.1 0 with | .error (some c) => c == e.2 | _ => false) = true ∧
    ∀ o ∈ ((gotBad e.1).part 0).launches, ¬ (o.lid = (launchOf e.1 0).lid ∧ o.final = false) := by decide +kernel
/-- A co-resident launch with no cluster to stand on. -/
theorem witness_LaunchNoRoom : (match (sGot (r1 + 2 ^ 48) .run (fun q => { q with clusters := 0, launches := [] })).launchCheck 0 (r1 + 2 ^ 48) 0 with
    | .error (some c) => c == 8 | _ => false) = true := by decide +kernel
theorem witness_ExtwrUnread : (let r := 2 * 2 ^ 56 + 2 ^ 20 * 2 ^ 576 + 2 ^ 640; (match (sGot r .run).bufRead 0 (2 ^ 20) 1 with | .error (some _) => true | _ => false) = true) := by
  decide +kernel

/-! Registers, windows, security and housekeeping. -/

theorem witness_RegisterWrites : bit (t0.part 0).polOpen 5 = false ∧ (t0.part 0).plogHead = (t0.part 0).plogTail ∧
    (t0.modPart 0 (fun q => { q with plogHead := 1 }) |>.part 0).plogHead ≠ (t0.modPart 0 (fun q => { q with plogHead := 1 }) |>.part 0).plogTail ∧
    (t0.part 0).segStat ≠ 1 ∧ (t0.modPart 0 (fun q => { q with segStat := 1 }) |>.part 0).segStat = 1 ∧ fld (2 ^ 17) 49 17 * 2 ^ 17 ≠ 0 ∧ bit (t0.part 0).polOpen 1 = false ∧
    (let s : State := { t0 with hk := { t0.hk with logHead := 4, logTail := 2 } }; s.hk.logTail ≤ (4 : Word).toNat ∧ (4 : Word).toNat ≤ s.hk.logHead ∧
      s.hk.dropped = 0 ∧ (1 : Word).toNat < s.hk.logTail ∧ s.hk.logHead < (5 : Word).toNat) := by decide +kernel
/-- WATCH open and a policy that ends at TIME 0; watchpoint 0 enabled. -/
def sPol (b : Bool) (td : Tdisp) : State := t0.modPart 0 (fun q =>
  { q with polOpen := 32, polBusy := b, tdisp := td, polBlob := some 0, polExp := 0, watches := [(0, { ctl := 8 * 2 ^ 32 + 1 })] })
theorem witness_DebugPolicy : bit (t0.part 0).polOpen 5 = false ∧ bit ((sPol true .run).part 0).polOpen 5 = true ∧ (let v : Word := 8 * 2 ^ 32 + 1
      v.getLsbD 0 = true ∧ fld v.toNat 63 32 ≠ 0 ∧ fld v.toNat 63 32 % 8 = 0) ∧ fld (0x7FFFFFFF * 2 ^ 32) 63 32 % 8 ≠ 0 ∧ (2 : Word).getLsbD 0 = false ∧
    (sPol true .run).paUp ((sPol true .run).part 0).polAddr 0x1C73 = false ∧
    (let s : State := { sPol true .run with hk := { t0.hk with ready := 2 ^ 26 - 1 } }; s.paUp (s.part 0).polAddr 0x1C73 = true) ∧
    bit (tget {} ((sPol true .run).part 0).watches 0 : Watch).ctl 0 = true ∧ bit (tget {} (t0.part 0).watches 0 : Watch).ctl 0 = false ∧
    ((sPol true .run).part 0).polBusy = true ∧ (t0.part 0).polBusy = false ∧ ((sPol true .run).part 0).tdisp = .run ∧ ((sPol true .run).part 0).policyKey = none ∧
    (t0.part 0).tdisp ≠ .run ∧ (t0.part 0).polBlob = none ∧ ((sPol true .run).part 0).polBlob ≠ none ∧ ((sPol true .run).part 0).polExp ≤ (sPol true .run).time := by
  decide +kernel
/-- Bytes read through a window: of a good line, and of a poisoned one. -/
def winBad (s : State) (u : Use) (n : Nat) : Option Bool := match s.winAt (.vf 0) 0 u with
  | .at_ v ph => (match (v.hostMix (.vf 0) ph n).physLine (hostWho (winSlot (.vf 0))) ph 0 n 0 none with
    | .ok w bs bad _ => (match w.physLine (hostWho (winSlot (.vf 0))) ph 0 n 0 (some bs) with | .ok .. => some bad | _ => none)
    | _ => none)
  | _ => none
theorem witness_DeviceWindow : sPt.win = [] ∧ (∀ u ∈ [Use.r, .w, .rw], winBad sPt u 8 = some false ∧ winBad { sPt with lines := [(0, { poison := true })] } u 8 = some true) ∧
    0 % 128 + 8 ≤ 128 ∧ 0 % 64 + 8 ≤ 64 ∧
    sPt.winVa (.vf 0) 0 % 128 = 0 ∧ (∀ w ∈ [Use.r, .w, .rw], (match sPt.winAt (.vf 0) 65536 w with | .none_ _ => true | _ => false) = true ∧ (match ({ sPt with hk := { sPt.hk with ready := 0 } } : State).winAt (.vf 0) 0 w with | .wait => true | _ => false) = true) := by
  decide +kernel
/-- KRYEL and HOST ready, one open session of VF 0 and its state. -/
def sSp (n : Nat) (td : Tdisp) (key : Option (BitVec 512) := none) : State :=
  { (sPt.modPart 0 (fun q => { q with tdisp := td, policyKey := key, ideKey := some 5 })) with
    kryel := { sPt.kryel with sessions := List.replicate n { id := 1, fn := .vf 0, open_ := true } } }
theorem witness_SpdmRequests : t0.kryelUp = false ∧ (sSp 1 .locked).kryelUp = true ∧ (sSp 1 .locked).openSession (.vf 0) 1 = true ∧
    (sSp 1 .locked).openSession (.vf 0) 2 = false ∧ ((sSp 1 .locked).session (.vf 0) 1).isSome = true ∧ 64 ≤ (sSp 64 .locked).kryel.sessions.length ∧
    (sSp 64 .locked).kryelUp = true ∧ (sSp 1 .locked).kryel.sessions.length < 64 ∧ ((sSp 1 .locked).part 0).tdisp = .locked ∧
    ((sSp 1 .locked).part 0).policyKey = none ∧ ((sSp 1 .run).part 0).tdisp ≠ .locked ∧ (sSp 1 .run).openSession (.vf 0) 1 = true ∧
    ((sSp 1 .locked (some 3)).part 0).policyKey ≠ none := by decide +kernel
theorem witness_InterfaceStates : (∀ td ∈ [Tdisp.unlocked, .locked, .run, .error], (sSp 1 td).kryelUp = true ∧ ((sSp 1 td).part 0).tdisp = td) ∧
    ((sSp 1 .run).part 0).ideKey ≠ none ∧ (0 : Nat) ≤ 47 ∧ (State.reset.part 47).created = false ∧ (t0.part 0).created = true := by decide +kernel
/-- Housekeeping with arguments. -/
def sHk (a b : Word) : State := { t0 with hk := { t0.hk with ready := 2 ^ 26 - 1, arg0 := a, arg1 := b } }
/-- A placement map in the L2: each stack's 48 regions on it. -/
def sMap : State :=
  let d (j : Nat) : Nat := (List.range 128).foldl (fun a i => a + (64 + (128 * j + i) / 48) * 256 ^ i) 0
  { sHk 0 0 with l2 := (List.range 5).map (fun j => (j, some { slot := 49, data := BitVec.ofNat 1024 (d j) })) }
def map0 : List Nat := (List.range 576).map (fun r => 64 + r / 48)
theorem map0_at (i : Nat) (h : i < 576) : lget 0 map0 i = 64 + i / 48 := by simp [map0, lget, h]
theorem witness_WriteMap : (sMap.paRead 0 49 576).2 = (map0.map (BitVec.ofNat 8), false) ∧ map0.all mapByteOk = true ∧ mapByteOk 0xFF = false ∧
    ∀ k < 12, ((List.range 576).map (fun r => granulesOn r (lget 0 map0 r) k)).sum ≤ 48 * 2 ^ 18 := by
  refine ⟨by decide +kernel, by decide +kernel, by decide +kernel, fun k hk => ?_⟩
  rw [List.map_congr_left (g := fun i => granulesOn i (64 + i / 48) k) (by intro i hi; rw [map0_at i (List.mem_range.mp hi)])]
  revert k; decide +kernel
theorem witness_FwImage (f : Firmware) : ∃ v bs bad, (sHk 3 0).fwImage = (v, bs, bad) ∧ ((bad = true ∨ Config.imageSigned Config.fusedKeyHash (Config.sha3 bs) = false) ∨
    bad = false ∧ Config.imageSigned Config.fusedKeyHash (Config.sha3 bs) = true ∧ (Config.fwVersion bs < f.fuse ∨ f.fuse ≤ Config.fwVersion bs)) :=
  ⟨_, _, _, rfl, by
    rcases Bool.eq_false_or_eq_true (State.fwImage (sHk 3 0)).2.2 with hb | hb
    · exact .inl (.inl hb)
    · rcases Bool.eq_false_or_eq_true (Config.imageSigned Config.fusedKeyHash (Config.sha3 (State.fwImage (sHk 3 0)).2.1)) with hs | hs
      · exact .inr ⟨hb, hs, Nat.lt_or_ge _ _⟩
      · exact .inl (.inr hs)⟩
theorem witness_HousekeepingCommands : (sHk 0 0).hk.busy = false ∧ bit (sHk 0 0).hk.ready 2 = true ∧ bit t0.hk.ready 2 = false ∧
    (∀ e ∈ (sHk 0 0).parts, e.2.tdisp ≠ .run) ∧ (∃ e ∈ (sSp 1 .run).parts, e.2.tdisp = .run) ∧ bit (sSp 1 .run).hk.ready 2 = true ∧ (sSp 1 .run).hk.busy = false ∧
    (47 < fld (48 : Word).toNat 5 0) ∧ (sHk 0 0).hk.arg1 = 0 ∧ ((sHk 0 0).part 0).tdisp = .unlocked ∧ ((sHk 0 1).part 0).tdisp = .unlocked ∧
    ((sSp 1 .run).part 0).tdisp ≠ .unlocked ∧ fld (0 : Word).toNat 1 0 = 0 ∧ fld (3 : Word).toNat 1 0 ≠ 0 ∧
    (let f (p : Option Bool) : Firmware := tget {} ({ (sHk 3 0).hk with fw := [(3, { pend := p })] } : Housekeeping).fw 3;
      (f none).pend ≠ some (f none).cur ∧ (f (some false)).pend = some (f (some false)).cur) ∧
    (let h := (sHk 0 0).hk; (sHk 0 0).paUp h.arg0.toNat 576 = true ∧ (sHk 0 0).paUp (h.arg1.toNat % 2 ^ 50) 64 = true ∧ h.pend = none) ∧
    (let s : State := { sHk 0 0 with hk := { (sHk 0 0).hk with ready := 4 } }; s.paUp s.hk.arg0.toNat 576 = false ∧ s.hk.busy = false ∧ bit s.hk.ready 2 = true) ∧
    (let h : Housekeeping := { (sHk 0 0).hk with busy := true, pend := some 2 }; h.busy = true ∧ h.pend = some 2) ∧
    runs (sHk 0 0).hk.fw 1 = true ∧ (let fw : Tbl Firmware := [(2, { failed := true })]; runs fw 2 = false ∧ (fwOf fw 2).fell = false ∧ runs fw 1 = true) ∧
    fld (11 : Word).toNat 3 0 ≤ 11 ∧ 1 ≤ fld (168 : Word).toNat 7 0 ∧ fld (168 : Word).toNat 7 0 ≤ 168 ∧ 168 < fld (169 : Word).toNat 7 0 ∧
    ((sHk 0 0).cluster 0).share = [] ∧ ({ (sHk 0 0).hk with busy := true } : Housekeeping).busy = true ∧ bit t0.hk.fail 25 = false := by decide +kernel


/-! What a due redirect does, and which check of an engine's command raises which cause. -/

/-- Redirects that are due: a plain one, a call whose frame leaves the resident entries, one back to entry 0. -/
def sRed (r : Redirect) (fb low : Nat) : State := tm (fun t =>
  { t with plat := { redirects := [r] }, regs := { t.regs with fb := fb, low := low, s := [(0, 7), (190, 9)] }, ctl := { t.ctl with spillSize := 4096 } })
def rd0 : Redirect := { due := 0, target := 24, slot := 0, from_ := 0, land := false }
theorem witness_RedirectDue : ∀ e ∈ ([(rd0, 0, 0), ({ rd0 with frame := some 200, link := some (199, 56) }, 144, 0), ({ rd0 with frame := some 3 }, 200, 56)] :
      List (Redirect × Nat × Nat)), let t := (sRed e.1 e.2.1 e.2.2).strand 0 0
    (∀ q ∈ t.plat.results, t.sclk < q.due) ∧ t.plat.redirects.filter (fun q => decide (q.due ≤ t.sclk)) = [e.1] := by decide +kernel
/-- The first bundle of a new path: `addWord` without LAND. -/
def sEnter (r : Redirect) : State := sAdd.modMe (fun t => { t with enter := some r })
theorem witness_NewPath : (sEnter rd0).agenda = [.issue 0] ∧ Issuing (sEnter rd0) 0 0 ∧ (let s := readied (sEnter { rd0 with land := true, target := 0 }) [] 0 0
      s.atBreak (s.strand 0 0) = false ∧ s.startPos (s.strand 0 0) 0 = true ∧ (match s.fetch 0 0 with | .bundle u b _ => u.startPos (s.strand 0 0) 0 && !bundleLand b | _ => false) = true) ∧
    (let s := readied (sEnter { rd0 with target := 1 }) [] 0 0; s.atBreak (s.strand 0 0) = false ∧ s.startPos (s.strand 0 0) 1 = false) := by decide +kernel

def c4 : Nat := im 1024 1 0 3 [(4, 4)]
def r4 : Nat := im 2048 1 0 3 [(4, 4), (4, 64)]
def x4 : Nat := im 4096 1 0 3 [(4, 4)]
/-- Copies, gathers and scatters that fail at each check: destination, source, and the check's cause. -/
def badCopy : List (Nat × Nat × Exc) := [(a4, c4, { cause := .reservedField, slot := 5 }), (im 0 2 0 3 [(4, 1)] 5, c4, { cause := .access, aux := 320, slot := 5 }),
  (im 0 2 0 4 [(4, 1)] 1, im 0 1 0 4 [(4, 8)], { cause := .reservedField, slot := 5 }), (a4, im 0 1 0 3 [(16, 4), (4, 2 ^ 20)], { cause := .access, slot := 5 }),
  (im 0 1 0 3 [(4, 0)], c4, { cause := .patternDegenerate, slot := 5 }), (im 0 1 0 3 [(4, 8)], im 0 1 0 3 [(4, 4)], { cause := .copyOverlap, slot := 5 })]
def badRows : List (Nat × Nat × Exc) := [(r4, im 1024 1 0 4 [(4, 8)], { cause := .reservedField, slot := 5 }), (r4, im 0 1 0 3 [(4, 4), (4, 2 ^ 20)], { cause := .access, slot := 5 }),
  (im 0 1 0 3 [(4, 4), (4, 0)], r4, { cause := .patternDegenerate, slot := 5 }), (r4, im 2052 1 0 3 [(4, 4), (4, 64)], { cause := .copyOverlap, slot := 5 })]
theorem witness_ShunterRefusals : (∀ e ∈ badCopy, (match copyPlan (sQ [e.1, e.2.1]) e.1 e.2.1 e1 false none with | .error x => decide (x = e.2.2) | .ok _ => false) = true) ∧
    (∀ e ∈ badRows, (match gatherPlan (sQ [e.1, e.2.1, x4]) .f32 e.1 e.2.1 x4 false with | .error x => decide (x = e.2.2) | .ok _ => false) = true) ∧
    (∀ e ∈ badCopy.drop 2, ∀ q ∈ [e.1, e.2.1], (match (sQ [e.1, e.2.1]).patDesc 1 q with | .ok _ => true | .error _ => false) = true) ∧
    (sQ []).patAccess (im 0 1 0 3 [(4, 4)]) none = none ∧ zeroStride (im 0 1 0 3 [(4, 0)]) = true ∧ overlap 0 (im 0 1 0 3 [(4, 8)]) (im 0 1 0 3 [(4, 4)]) none none = .refused := by
  decide +kernel

/-- Operands beyond the scratchpad, and of the bank group of `a4`. -/
def aOut : Nat := im 0x180000 1 0 3 [(16, 4), (4, 64)]
def aNear : Nat := im 64 1 0 3 [(16, 4), (4, 64)]
/-- An error of the matrix engine's checks. -/
def eK (c : Cause) (aux : Nat := 0) : Exc := { cause := c, aux := aux, slot := 5 }
theorem witness_MmaRefusals : (∀ e ∈ ([(a4, b4, 1, 2, eK .typeCombo), (a4, aNear, 1, 1, eK .bankGroup), (aOut, b4, 1, 1, eK .access 0x180000)] : List (Nat × Nat × Nat × Nat × Exc)),
      ∀ f ∈ [MmaForm.plain, .gathered], mmaCheck (sQ [e.1, im 2048 1 0 3 [(4, 4)], e.2.1]) f e.2.2.1 e.2.2.2.1 1 3 = some e.2.2.2.2) ∧
    (let w := im 0 1 0 3 [(4, 4), (4, 16), (1, 64), (1, 64)]; let k := im 2048 1 0 0 [(64, 1)]
     mmaCheck (sQ [w, k, b4]) .window 1 2 1 3 = some (eK .typeCombo) ∧ mmaCheck (sQ [w, k, a4]) .window 1 1 1 3 = some (eK .bankGroup) ∧
     mmaCheck (sQ [w, im 0x180000 1 0 0 [(64, 1)], b4]) .window 1 1 1 3 = some (eK .access 0x180000)) := by decide +kernel
/-- FMT with a block scale of A. -/
def fmtA (t : Strand) : Strand := { t with ctl := { t.ctl with fmt := 1 + 2 ^ 10 } }
theorem witness_KilnRefusals : (∀ e ∈ ([(a4, 1, b4, 2, eK .typeCombo), (a4, 1, aNear, 1, eK .bankGroup), (aOut, 1, b4, 1, eK .access 0x180000), (a4, 0, b4, 1, eK .patternDegenerate)] :
      List (Nat × Nat × Nat × Nat × Exc)), let s := sQ [e.1, im 0 2 0 3 [(16, e.2.1)] 1, e.2.2.1, im 4096 1 0 3 [(16, 4)]]
      (match tgemmCheck s 1 e.2.2.2.1 1 3 with | .error x => decide (x = e.2.2.2.2) | .ok _ => false) = true ∧ (match s.patDesc 2 (im 0 2 0 3 [(16, e.2.1)] 1) with | .ok d => d == some dM | .error _ => false) = true) ∧
    (∀ e ∈ ([(a4, 2, eK .typeCombo), (aOut, 1, eK .access 0x180000), (im 0 1 0 3 [(4, 4), (4, 0)], 1, eK .patternDegenerate)] : List (Nat × Nat × Exc)),
      (match drainCheck (sQ [e.1, 0, x4]) false e.2.1 1 1 3 with | .error x => decide (x = e.2.2) | .ok _ => false) = true) ∧
    (let q := im 0 2 0 3 [(16, 1)] 1; (match tconCheck (sQ [q, q] 0 fmtA) 1 1 1 2 with | .error x => decide (x = eK .typeCombo) | .ok _ => false) = true ∧
      (match (sQ [q, q]).patDesc 2 q with | .ok d => d == some dM | .error _ => false) = true) := by decide +kernel
/-- In a region, where a channel command may be issued. -/
def inRgn (t : Strand) : Strand := { t with frames := [fr] }
theorem witness_ChannelRefusals : (∀ e ∈ ([(.chSend 0, 0, a4, inRgn, eK .regionEffect), (.chRed .adds .f32 0, 1, a4, inRgn, eK .regionEffect), (.chFwd 0, 2, a4, inRgn, eK .regionEffect),
      (.chSend 0, 1, a4, id, eK .reservedField), (.chSend 0, 0, im 0 1 0 3 [(16, 4), (4, 2 ^ 20)], id, eK .access), (.chRecv 0 false, 0, im 0 1 0 3 [(16, 0), (4, 64)], id, eK .patternDegenerate),
      (.chSend 0, 0, im 0 2 0 4 [(32, 1)] 1, id, eK .reservedField), (.chStat 0, 0, im 0 1 0 4 [(4, 0)], id, eK .patternDegenerate), (.chSend 0, 0, a4, (·.setTok 1 .armed), eK .tokenReuse 1)] :
      List (CmdKind × Nat × Nat × (Strand → Strand) × Exc)),
      (match chPlan (sQ [e.2.2.1] (ch0 e.2.1) e.2.2.2.1) e.1 1 e1 with | .error x => decide (x = e.2.2.2.2) | .ok _ => false) = true) ∧
    (match chPlan (sQ [a4] (ch0 0) inRgn) (.chRecv 0 false) 1 e1 with | .ok _ => true | .error _ => false) = true := by decide +kernel

/-! Windows and housekeeping with something before them. -/

/-- A read of VF 0's window that waits while page 0 is copied, a write of it behind, and a write of VF 1. -/
def wq (o : WinOp) (f : FnRef := .vf 0) (off : Nat := 0) : WinReq := { fn := f, off := off, op := o }
def sWin (ready : Nat) (rs : List WinReq) : State := { sPt with hk := { sPt.hk with ready := ready }, win := rs }
/-- Page 0 is being copied; the VA above it has no page. -/
def sCopy (rs : List WinReq) : State := { sPt.hbmWrite 0x203000 (natBytes 8 (setMig 0x27F 2)) with win := rs }
theorem witness_WindowQueue : (let x := wq (.write [1] false); let s := sWin 0 [x, wq (.read 4 false)]
      x.writes = true ∧ ({ s with win := [] } : State).winDo { x with va := some (s.winVa x.fn x.off) } = none ∧ ∀ y ∈ [wq (.read 4 false)], y.fn = x.fn) ∧
    (let x := wq (.read 4 false); let s := sCopy [x]; x.writes = false ∧ ({ s with win := [] } : State).winDo { x with va := some (s.winVa x.fn x.off) } = none ∧
      (({ s with win := [] } : State).winDo { wq (.read 4 false) (.vf 0) 65536 with va := some 65536 }).isSome = true ∧
      ({ s with win := [] } : State).winDo { wq (.write [1] false) with va := some 0 } = none) ∧
    (let s := sWin (2 ^ 26 - 1) []; let x : WinReq := { wq (.write [1] false) with va := some 0 }; let y : WinReq := { wq (.read 4 false) with va := some 0 }
      (match s.winDo x with | some v => (v.winDo y).isSome | none => false) = true) := by decide +kernel
theorem witness_Share : (shareList 0 = []) ∧ shareList (0x8000 + 1) = [(0, 1)] ∧ (let w : Word := 0x8001 + 0x8102 * 2 ^ 16
      let s := (sHk 0 w).modPart 0 (fun q => { q with clusters := 1 }); let s := s.modPart 1 (fun q => { q with clusters := 1 }); let l := shareList s.hk.arg1.toNat
      l = [(0, 1), (1, 2)] ∧ (∀ e ∈ l ++ (s.cluster 0).share, (s.part e.1).tdisp = .unlocked) ∧ (∀ e ∈ l, e.2 ≠ 0 ∧ bit (s.part e.1).clusters 0 = true) ∧ (l.map (·.1)).Nodup) ∧
    (∃ e ∈ shareList (0x8100 + 0), e.2 = 0) ∧ ¬ ((shareList (0x8001 + 0x8002 * 2 ^ 16)).map (·.1)).Nodup ∧
    (∃ e ∈ shareList 0x8001, ((sSp 1 .run).part e.1).tdisp ≠ .unlocked) ∧ fld (15 : Word).toNat 3 0 = 15 ∧ 11 < fld (12 : Word).toNat 3 0 ∧ fld (12 : Word).toNat 3 0 ≠ 15 := by
  decide +kernel
theorem witness_ImageStack : (sHk 0 0).paUp ((sHk 0 0).hk.arg1.toNat % 2 ^ 50) 64 = true ∧
    (let s : State := { sHk 0 0 with hk := { (sHk 0 0).hk with ready := 4 } }; s.paUp (s.hk.arg1.toNat % 2 ^ 50) s.fwSize = false) := by decide +kernel
/-- Every port is ready where all functions are. -/
theorem ports_ready (p : Nat) : bit (2 ^ 26 - 1) (20 + p % 16 / 4) = true := by
  have h : p % 16 / 4 < 4 := by omega
  revert h; generalize p % 16 / 4 = q; revert q; decide
def sServe : State := { sMem with hk := { sMem.hk with ready := 2 ^ 26 - 1 } }
def sDark : State := { sMem with hk := { sMem.hk with ready := 0 } }
theorem witness_Served : sDark.serves 1 0 (.read 8) = false ∧ (∀ k ∈ [RemoteKind.read 8, .write [0], .atom 8 .add false 1 0],
      sServe.serves 1 0 k = true ∧ sServe.granted 1 2 0 0 k = true ∧ sServe.granted 2 2 0 0 k = false) ∧
    (∀ e ∈ sPt.remaps, e.2.maps = [] ∧ ∀ x ∈ e.2.saves, x.1 ≤ e.2.n) := by
  have h : sDark.paUp 0 (remoteSize (.read 8)) = false := by decide +kernel
  refine ⟨by simp [State.serves, h], fun k hk => ⟨?_, ?_⟩, by decide +kernel⟩
  · have hp : ∀ k ∈ [RemoteKind.read 8, .write [0], .atom 8 .add false 1 0], sServe.paUp 0 (remoteSize k) = true := by decide +kernel
    simp only [State.serves, State.linkUp, hp k hk, Bool.and_true]
    exact ports_ready _
  · revert k; decide +kernel

end Sys2Proof.Tests
end

section
/-! Division and remainder of the scalar slots (R176): the values of DIV and REM by case of their divisor, and the two operations' results. -/

namespace Sys2Proof.Proofs

open Sys2Proof.Machine Sys2Proof.Safety Sys2Proof.Laws

/-! The quotient. -/

@[simp] theorem divVal_zero (natural : Bool) (a : Word) : divVal natural a 0 = BitVec.allOnes 64 := if_pos rfl

theorem divVal_signed {a b : Word} (hb : b ≠ 0) : divVal false a b = BitVec.ofInt 64 (a.toInt.tdiv b.toInt) := if_neg hb

theorem divVal_natural {a b : Word} (hb : b ≠ 0) : divVal true a b = BitVec.ofNat 64 (a.toNat / b.toNat) := if_neg hb

/-! The remainder. -/

@[simp] theorem remVal_zero (natural : Bool) (a : Word) : remVal natural a 0 = a := if_pos rfl

theorem remVal_signed {a b : Word} (hb : b ≠ 0) :
    remVal false a b = BitVec.ofInt 64 (a.toInt - b.toInt * a.toInt.tdiv b.toInt) := by
  rw [← Int.tmod_def]
  exact if_neg hb

theorem remVal_natural {a b : Word} (hb : b ≠ 0) :
    remVal true a b = BitVec.ofNat 64 (a.toNat - b.toNat * (a.toNat / b.toNat)) := by
  rw [← Nat.mod_eq_sub_mul_div]
  exact if_neg hb

/-! The one overflow: the quotient 2^63 of -2^63 by -1 wraps to -2^63, and nothing remains. -/

theorem eq_intMin_of_toInt {a : Word} (ha : a.toInt = -2 ^ 63) : a = BitVec.ofInt 64 (-2 ^ 63) :=
  BitVec.toInt_inj.mp ha

theorem eq_neg_one_of_toInt {b : Word} (hb : b.toInt = -1) : b = BitVec.ofInt 64 (-1) :=
  BitVec.toInt_inj.mp hb

theorem divVal_overflow {a b : Word} (ha : a.toInt = -2 ^ 63) (hb : b.toInt = -1) : divVal false a b = a := by
  rw [eq_intMin_of_toInt ha, eq_neg_one_of_toInt hb]
  decide

theorem remVal_overflow {a b : Word} (ha : a.toInt = -2 ^ 63) (hb : b.toInt = -1) : remVal false a b = 0 := by
  rw [eq_intMin_of_toInt ha, eq_neg_one_of_toInt hb]
  decide

/-! The operations. -/

section
variable (u : CxUnit) (natural : Bool) (d a b : SReg) {s : State}

theorem exec_div (hr : Room s 1) :
    exec (.div u natural d a b) s = scalar s u 18 d (divVal natural (s.me.sreg a) (s.me.sreg b)) :=
  alu_ok u 18 d (fun t => divVal natural (t.sreg a) (t.sreg b)) hr

theorem exec_rem (hr : Room s 1) :
    exec (.rem u natural d a b) s = scalar s u 18 d (remVal natural (s.me.sreg a) (s.me.sreg b)) :=
  alu_ok u 18 d (fun t => remVal natural (t.sreg a) (t.sreg b)) hr

end

/-- Settles O16, from the values of DIV and REM for a zero divisor, for the overflow and for every other pair. -/
theorem scalarDivision : Obligations.ScalarDivision := by
  unfold Obligations.ScalarDivision
  intro u d a b s hr
  simp only [exec_div _ _ _ _ _ hr, exec_rem _ _ _ _ _ hr]
  refine ⟨fun hz natural => ?zero, fun ha hb => ?overflow, fun hb => ?general⟩
  case zero => rw [hz, divVal_zero, remVal_zero]; exact ⟨rfl, rfl⟩
  case overflow => rw [divVal_overflow ha hb, remVal_overflow ha hb]; exact ⟨rfl, rfl⟩
  case general =>
    rw [divVal_signed hb, remVal_signed hb, divVal_natural hb, remVal_natural hb]
    exact ⟨rfl, rfl, rfl, rfl⟩

end Sys2Proof.Proofs
end

section
/-! Conditions and transfers of the C slot (R42, R271, R272): which condition takes a branch, and what LOOP does by its count. -/

namespace Sys2Proof.Proofs

open Sys2Proof.Machine Sys2Proof.Safety Sys2Proof.Laws

/-- The condition that the machine tests is the one R42 states: the orders it has only in the strict form are negated for the others. -/
theorem ccHolds_iff (cc : CC) (a b : Word) : ccHolds cc a b = true ↔ holds cc a b := by
  cases cc with
  | eq => exact beq_iff_eq
  | ne => exact bne_iff_ne
  | lt => exact BitVec.slt_iff_toInt_lt
  | gt => exact BitVec.slt_iff_toInt_lt
  | ge | le => simp only [ccHolds, holds, Bool.not_eq_true', ← Bool.not_eq_true, BitVec.slt_iff_toInt_lt, Int.not_lt]
  | ltn => exact BitVec.ult_iff_lt
  | gtn => exact BitVec.ult_iff_lt
  | gen | len => simp only [ccHolds, holds, Bool.not_eq_true', ← Bool.not_eq_true, BitVec.ult_iff_lt, BitVec.lt_def, Nat.not_lt]

/-! Operations that put no result under way. -/

section
variable (slot : Slot) (land : Bool) (cc : CC) (a b : SReg) (tgt : BitVec 24) {s : State}

theorem exec_nop (hr : Room s 0) : exec (.nop slot land) s = issued s := op_ok hr rfl

theorem exec_idleBundle (hr : Room s 0) :
    exec .idleBundle s = issued (s.modMe (fun t => { t with idle := t.idle - 1 })) := op_ok hr rfl

theorem exec_br (hr : Room s 0) : exec (.br land tgt) s = issued (redirected s tgt.toNat false false none none) := op_ok hr rfl

theorem exec_brCc_taken (hr : Room s 0) (h : holds cc (s.me.sreg a) (s.me.sreg b)) :
    exec (.brCc land cc a b tgt) s = issued (redirected s tgt.toNat false false none none) :=
  op_ok hr (congrArg ok (if_pos ((ccHolds_iff cc _ _).mpr h)))

theorem exec_brCc_untaken (hr : Room s 0) (h : ¬ holds cc (s.me.sreg a) (s.me.sreg b)) :
    exec (.brCc land cc a b tgt) s = issued s :=
  op_ok hr (congrArg ok (if_neg (mt (ccHolds_iff cc _ _).mp h)))

theorem exec_bri (hr : Room s 0) :
    exec (.bri land a) s =
      issued (redirected s ((s.me.sreg a).toNat % 2 ^ 24) (decide (2 ^ 24 ≤ (s.me.sreg a).toNat)) true none none) := op_ok hr rfl

theorem exec_yield (hr : Room s 0) : exec (.yield land) s = issued (s.modMe (fun t => { t with post := 2 })) := op_ok hr rfl

end

/-! LOOP, by its count. -/

section
variable (land : Bool) (a : SReg) (tgt : BitVec 24) {s : State}

/-- A count other than 0 is written one lower, and the transfer is taken unless that is 0. -/
theorem opLoop_run {n : Word} (hn : s.me.sreg a = n) (h0 : n ≠ 0) :
    (opLoop land a tgt).run s = ok (if n - 1 ≠ 0
      then (s.fixed 0 1 [s.me.wS a (n - 1)]).transfer tgt.toNat false false none none
      else s.fixed 0 1 [s.me.wS a (n - 1)]) := by
  subst hn
  exact if_neg h0

theorem exec_loop_zero (hr : Room s 1) (h : s.me.sreg a = 0) : exec (.loop land a tgt) s = issued s :=
  meaning_ok (fits_none rfl s) rfl hr (if_pos h)

theorem exec_loop_one (hr : Room s 1) (h : s.me.sreg a = 1) :
    exec (.loop land a tgt) s = issued (s.fixed 0 1 [s.me.wS a 0]) :=
  meaning_ok (fits_none rfl s) rfl hr (opLoop_run land a tgt h (by decide))

theorem exec_loop_more (hr : Room s 1) (h : 1 < (s.me.sreg a).toNat) :
    exec (.loop land a tgt) s =
      issued (redirected (s.fixed 0 1 [s.me.wS a (s.me.sreg a - 1)]) tgt.toNat false false none none) := by
  have h0 : s.me.sreg a ≠ 0 := by bv_omega
  have h1 : s.me.sreg a - 1 ≠ 0 := by bv_omega
  refine meaning_ok (fits_none rfl s) rfl hr ?_
  exact (opLoop_run land a tgt rfl h0).trans (congrArg ok (if_pos h1))

end

end Sys2Proof.Proofs
end

section
/-! The end of a strand (R283, R285): what its leaving of the barriers keeps, and the state that EXIT leaves. -/

namespace Sys2Proof.Proofs

open Sys2Proof.Machine Sys2Proof.Safety Sys2Proof.Laws

/-! The same memory. -/

theorem sameMemory_refl (s : State) : SameMemory s s := ⟨rfl, rfl, rfl, rfl, rfl, rfl, rfl⟩

theorem sameMemory_trans {s t u : State} (h : SameMemory s t) (h' : SameMemory t u) : SameMemory s u := by
  obtain ⟨hhbm, hlines, hl2, hpmap, hremaps, hleases, hscrub⟩ := h
  obtain ⟨hhbm', hlines', hl2', hpmap', hremaps', hleases', hscrub'⟩ := h'
  exact ⟨hhbm'.trans hhbm, hlines'.trans hlines, hl2'.trans hl2, hpmap'.trans hpmap, hremaps'.trans hremaps, hleases'.trans hleases,
    hscrub'.trans hscrub⟩

theorem sameMemory_modStrand (s : State) (c x : Nat) (f : Strand → Strand) : SameMemory s (s.modStrand c x f) := sameMemory_refl s

theorem sameMemory_modCore (s : State) (c : Nat) (f : Core → Core) : SameMemory s (s.modCore c f) := sameMemory_refl s

theorem sameMemory_setBar (s : State) (cl b : Nat) (v : Barrier) : SameMemory s (s.setBar cl b v) := sameMemory_refl s

/-! Barriers. -/

/-- A release writes its barrier and nothing else (R281). -/
theorem barRelease_eq_setBar (s : State) (cl b : Nat) : ∃ v, s.barRelease cl b = s.setBar cl b v := by
  unfold State.barRelease
  simp only
  split
  · exact ⟨_, rfl⟩
  · exact ⟨_, rfl⟩

/-- A strand that leaves its barriers writes those and its own arrival marks alone (R283): what both keep, it keeps. -/
theorem barLeave_keeps (P : State → Prop) {c x : Nat} (hbar : ∀ u cl b v, P u → P (u.setBar cl b v))
    (hout : ∀ u b, P u → P (u.modStrand c x (fun t => { t with out := tput none t.out b none }))) {s : State} (h : P s) :
    P (s.barLeave c x) := by
  have left : ∀ u cl b v, P u → P ((u.setBar cl b v).modStrand c x (fun t => { t with out := tput none t.out b none })) :=
    fun u cl b v hu => hout _ b (hbar u cl b v hu)
  have released : ∀ u cl b (q : Prop) [Decidable q], P u → P (if q then u.barRelease cl b else u) := by
    intro u cl b q _ hu
    obtain ⟨v, hv⟩ := barRelease_eq_setBar u cl b
    split
    · rw [hv]; exact hbar u cl b v hu
    · exact hu
  unfold State.barLeave
  refine foldl_keeps P _ (fun u b hu => ?_) _ _ h
  simp only
  split
  · exact released _ _ _ _ (left u _ b _ hu)
  · exact hu

theorem barLeave_sameMemory (s : State) (c x : Nat) : SameMemory s (s.barLeave c x) :=
  barLeave_keeps (SameMemory s) (fun _ _ _ _ h => sameMemory_trans h (sameMemory_setBar ..))
    (fun _ _ h => sameMemory_trans h (sameMemory_modStrand ..)) (sameMemory_refl s)

theorem barLeave_stores (s : State) (c x : Nat) : ((s.barLeave c x).strand c x).stores = (s.strand c x).stores := by
  refine barLeave_keeps (fun u => (u.strand c x).stores = (s.strand c x).stores) (fun _ _ _ _ h => h) (fun u b h => ?_) rfl
  rw [State.strand_modStrand]
  exact h

/-! The strand that has exited. -/

/-- Strand `x` of core `c` has exited with its stores still to be performed: nothing it has in flight is left, and the core has no
active context (R285). -/
def Exited (c x : Nat) (stores : List Store) (u : State) : Prop :=
  (u.strand c x).exited = true ∧ (u.strand c x).plat = {} ∧ (u.strand c x).stores = stores ∧ (u.core c).active = none

theorem exitStrand_strand (s : State) : s.exitStrand.strand s.cur s.ctx =
    { ((s.barLeave s.cur s.ctx).strand s.cur s.ctx).discard with exited := true, enter := none, reports := [], hold := .run } := by
  unfold State.exitStrand
  simp only
  rw [State.strand_modCore, State.strand_modStrand]
  exact fun _ => rfl

theorem exitStrand_active (s : State) : (s.exitStrand.core s.cur).active = none := by
  unfold State.exitStrand
  simp only
  rw [State.core_modCore]

theorem exitStrand_exited (s : State) : Exited s.cur s.ctx s.me.stores s.exitStrand := by
  unfold Exited
  rw [exitStrand_strand]
  exact ⟨rfl, rfl, barLeave_stores s s.cur s.ctx, exitStrand_active s⟩

theorem exitStrand_sameMemory (s : State) : SameMemory s s.exitStrand := by
  unfold State.exitStrand
  exact sameMemory_trans (barLeave_sameMemory s s.cur s.ctx)
    (sameMemory_trans (sameMemory_modStrand ..) (sameMemory_modCore ..))

theorem settleFmt_stores (t : Strand) : t.settleFmt.stores = t.stores := by
  unfold Strand.settleFmt
  simp only
  split
  · rfl
  · rfl

/-- The bundle of an EXIT ends with its strand's exit, once the schedule clock and FMT have moved on. -/
theorem finish_of_exit {s : State} (hpost : s.me.post = 1) (hpend : s.me.pend = none) :
    ∃ t n, s.finish = State.exitStrand { s.setMe t with cy := n } ∧ t.stores = s.me.stores := by
  unfold State.finish
  simp only [hpost, hpend]
  exact ⟨_, _, rfl, settleFmt_stores _⟩

theorem finish_exited {s : State} (hpost : s.me.post = 1) (hpend : s.me.pend = none) :
    Exited s.cur s.ctx s.me.stores s.finish ∧ SameMemory s s.finish := by
  obtain ⟨t, n, hfin, hstores⟩ := finish_of_exit hpost hpend
  have hctx : State.ctx { s.setMe t with cy := n } = s.ctx := State.ctx_setMe s t
  have hme : State.me { s.setMe t with cy := n } = t := State.me_setMe s t
  have hex := exitStrand_exited { s.setMe t with cy := n }
  rw [hctx, hme, hstores] at hex
  rw [hfin]
  exact ⟨hex, exitStrand_sameMemory { s.setMe t with cy := n }⟩

/-- EXIT issues outside every region when none of its strand's stores waits on a page fault (R102, R285). -/
theorem exec_exit (land : Bool) {s : State} (hr : Room s 0) (hs : StoresClear s) (hf : s.me.frames = []) :
    exec (.exit land) s = issued (s.modMe (fun t => { t with post := 1 })) := by
  have hgate : (opExit land).gate s = .go := if_neg (by simpa using hs)
  exact meaning_ok (fits_none rfl s) hgate hr (if_neg (not_not_intro hf))

/-- Settles O20: each transfer by its own equation, LOOP by its count, and EXIT by the end of its bundle. -/
theorem transfers : Obligations.Transfers := by
  unfold Obligations.Transfers
  refine ⟨fun land slot cc a b tgt s => ⟨fun hr => ?plain, fun hr => ?loop⟩, fun land s hr hs hf hp => ?exit⟩
  case plain =>
    exact ⟨exec_nop slot land hr, exec_idleBundle hr, exec_br land tgt hr, exec_brCc_taken land cc a b tgt hr,
      exec_brCc_untaken land cc a b tgt hr, exec_bri land a hr, exec_yield land hr⟩
  case loop => exact ⟨exec_loop_zero land a tgt hr, exec_loop_one land a tgt hr, exec_loop_more land a tgt hr⟩
  case exit =>
    have hpost : (s.modMe (fun t => { t with post := 1 })).me.post = 1 := by rw [State.me_modMe]
    have hpend : (s.modMe (fun t => { t with post := 1 })).me.pend = none := by rw [State.me_modMe]; exact hp
    obtain ⟨⟨hexited, hplat, hstores, hactive⟩, hmem⟩ := finish_exited hpost hpend
    rw [State.ctx_modMe] at hexited hplat hstores
    rw [State.me_modMe] at hstores
    exact ⟨_, exec_exit land hr hs hf, hexited, hplat, hstores, hactive, hmem⟩

end Sys2Proof.Proofs
end

section
/-! What an open region forbids (R328): the operations that raise REGION_EFFECT, each by its own equation, in handler state too (log 26). -/

namespace Sys2Proof.Proofs

open Sys2Proof.Machine Sys2Proof.Safety Sys2Proof.Laws

/-- The room for one more result under way leaves room for an operation that puts none. -/
theorem room_zero_of_one {s : State} (hr : Room s 1) : Room s 0 := by unfold Room at hr ⊢; omega

/-- No store that waits on a page fault closes the gate of an M-slot operation or of EXIT (R102). -/
theorem storeFaultGate_go {s : State} (hs : StoresClear s) : storeFaultGate s = .go := if_neg (by simpa using hs)

/-! Barriers: a wait for an earlier arrival comes first (log 34), and the region before the barrier's binding. -/

theorem barGate_go {b : Nat} {s : State} (hb : s.outNow b = false) : barGate b s = .go := if_neg (by simp [hb])

theorem barCheck_region (b : Nat) (go : State → Res) {s : State} (hf : s.me.frames ≠ []) : barCheck s b go = raise 0 .regionEffect :=
  if_pos hf

/-- A barrier operation, whatever it does outside a region. -/
theorem bar_region (b : Nat) (go : State → Res) {s : State} (hr : Room s 0) (hb : s.outNow b = false) (hf : s.me.frames ≠ []) :
    meaning { slot := 0, results := 0, gate := barGate b, run := fun s => barCheck s b go } s = raised s { cause := .regionEffect } :=
  meaning_error (fits_none rfl s) (barGate_go hb) hr (barCheck_region b go hf)

/-! EXIT, DICT.LOAD and ATOM. -/

theorem exec_exit_region (land : Bool) {s : State} (hr : Room s 0) (hs : StoresClear s) (hf : s.me.frames ≠ []) :
    exec (.exit land) s = raised s { cause := .regionEffect } :=
  meaning_error (fits_none rfl s) (storeFaultGate_go hs) hr (if_pos hf)

/-- The region comes before every check of DICT.LOAD's address and range (log 117). -/
theorem exec_dictLoad_region (land : Bool) (a : SReg) (e0 n : BitVec 12) (clr : Bool) {s : State} (hr : Room s 0)
    (hf : s.me.frames ≠ []) : exec (.dictLoad land a e0 n clr) s = raised s { cause := .regionEffect } :=
  op_error hr (if_pos hf)

/-- Of an ATOM in GL the region comes after the checks of its address (log 69). -/
theorem opAtom_region (sz : Size) (aop : AOp) (ord : Ord) (sgn : Bool) (t a c : SReg) (off : BitVec 18) (at_ : MAttr) {loc : Loc}
    {s : State} (hf : s.me.frames ≠ []) (ha : s.mAddr 2 1 (s.me.addr a off) (sizeNat sz) = .ok loc) :
    (opAtom .gl sz aop ord sgn t a c off at_).run s = raise 2 .regionEffect := by
  have haddr : s.mAddr 2 (spaceNat .gl) (s.me.addr a off) (sizeNat sz) = .ok loc := ha
  simp only [opAtom, haddr, true_and]
  exact if_pos hf

theorem exec_atom_region (sz : Size) (aop : AOp) (ord : Ord) (sgn : Bool) (t a c : SReg) (off : BitVec 18) (at_ : MAttr) {loc : Loc}
    {s : State} (hr : Room s 1) (hs : StoresClear s) (hf : s.me.frames ≠ [])
    (ha : s.mAddr 2 1 (s.me.addr a off) (sizeNat sz) = .ok loc) :
    exec (.atom .gl sz aop ord sgn t a c off at_) s = raised s { cause := .regionEffect, slot := 2 } :=
  meaning_error (fits_none rfl s) (storeFaultGate_go hs) hr (opAtom_region sz aop ord sgn t a c off at_ hf ha)

/-! Commands. -/

theorem exec_trig_region (n : NReg) (count : BitVec 4) (qd qs : QReg) (e : EAttr) {s : State} (hr : Room s 0)
    (hg : (slotOp (.trig n count qd qs e)).gate s = .go) (hf : s.me.frames ≠ []) :
    exec (.trig n count qd qs e) s = raised s { cause := .regionEffect, slot := 5 } :=
  meaning_error (fits_none rfl s) hg hr (if_pos hf)

/-- The channel commands with an effect outside their strand that no rollback undoes. -/
def sendsOut : CmdKind → Bool
  | .chSend _ | .chRed .. | .chFwd _ => true
  | _ => false

/-- The region comes before every other cause of a channel command. -/
theorem chPlan_region {k : CmdKind} (q : QReg) (e : EAttr) {s : State} (hk : sendsOut k = true) (hf : s.me.frames ≠ []) :
    chPlan s k q e = .error { cause := .regionEffect, slot := 5 } := by
  have hopen : (s.me.frames != []) = true := bne_iff_ne.mpr hf
  unfold sendsOut at hk
  split at hk
  case h_1 => exact if_pos hopen
  case h_2 => exact if_pos hopen
  case h_3 => exact if_pos hopen
  case h_4 => cases hk

theorem opChan_region {k : CmdKind} (q : QReg) (e : EAttr) {s : State} (hr : Room s 0) (hg : (opChan k q e).gate s = .go)
    (hk : sendsOut k = true) (hf : s.me.frames ≠ []) :
    meaning (opChan k q e) s = raised s { cause := .regionEffect, slot := 5 } := by
  refine meaning_error (fits_none rfl s) hg hr ?_
  simp only [opChan, chPlan_region q e hk hf]

/-- Settles O24: the gate of each operation is open, and its run finds the region open. -/
theorem regionEffects : Obligations.RegionEffects := by
  unfold Obligations.RegionEffects
  intro land b n q qs op ty count e a t c e0 k clr sz aop ord sgn off at_ loc s hr1 hf
  have hr := room_zero_of_one hr1
  refine ⟨fun hb => ?barriers, fun hs => exec_exit_region land hr hs hf, exec_dictLoad_region land a e0 k clr hr hf,
    fun hs ha => exec_atom_region sz aop ord sgn t a c off at_ hr1 hs hf ha, fun hg => exec_trig_region n count q qs e hr hg hf,
    fun hg => ?send, fun hg => ?red, fun hg => ?fwd⟩
  case barriers =>
    have bar (go : State → Res) := bar_region b.toNat go hr hb hf
    exact ⟨bar _, bar _, bar _⟩
  case send => exact opChan_region (k := .chSend n.toNat) q e hr hg rfl hf
  case red => exact opChan_region (k := .chRed op ty n.toNat) q e hr hg rfl hf
  case fwd => exact opChan_region (k := .chFwd n.toNat) q e hr hg rfl hf

end Sys2Proof.Proofs
end
